-- ==== Sys2Proof/Word.lean ====
section
/-! DEFINITION. The word types of the part and their plainest arithmetic (00_scope.md, R2, R10). -/

namespace Sys2Proof

/-- A 64-bit register, tag or address (R21, R37). -/
abbrev Word := BitVec 64

/-- One byte of memory (R2). -/
abbrev Byte := BitVec 8

/-- A 32-bit token or pool word (R38). -/
abbrev HWord := BitVec 32

/-- A register number of a bundle field (R51). -/
abbrev RegNo := BitVec 5

end Sys2Proof
end

