-- ==== Sys2Proof/Syntax.lean ====
section
/-! DEFINITION. The steps of the part: one constructor per row of the opcode table (02_formats.md R69;
95_what_each_step_holds.md). Carrier A and B instructions carry the fields of their bundle format,
events the place where they happen. A node firing names its operation; its record (`NRec`) and its operands
are those of the firing that runs (`Cur.fir` of the state). -/

namespace Sys2Proof

/-- The fields of an A-R slot (R51, R56). -/
structure AR where
  d : RegNo
  a : RegNo
  b : RegNo
  f : BitVec 6
  deriving DecidableEq, Repr, Inhabited

/-- The fields of an A-R+E slot: A-R and the extension operand e (R53). -/
structure ARE where
  d : RegNo
  a : RegNo
  b : RegNo
  f : BitVec 6
  e : BitVec 28
  deriving DecidableEq, Repr, Inhabited

/-- The fields of an A-I slot; the immediate as the 39-bit value of the long form (R52). -/
structure AI where
  d : RegNo
  a : RegNo
  imm : BitVec 39
  deriving DecidableEq, Repr, Inhabited

/-- The fields of an A-X slot (R51, R54). -/
structure AX where
  d : RegNo
  a : RegNo
  b : RegNo
  f : BitVec 6
  scope : BitVec 5
  order : BitVec 2
  repro : Bool
  nocomb : Bool
  deriving DecidableEq, Repr, Inhabited

/-- The descriptor registers of a slot B (R46, R57). -/
structure BO where
  d : RegNo
  a : RegNo
  b : RegNo
  deriving DecidableEq, Repr, Inhabited

/-- The element types of R68 that descriptors and records accept, in code order 0 to 13. -/
inductive ElemType where
  | i32 | u32 | fp32 | bf16 | fp16 | e4m3 | e5m2 | e3m2 | e2m3 | e2m1 | i8 | u8 | i4 | i16
  deriving DecidableEq, Repr, Inhabited

/-- ARITY of a node record (R62): the ports awaited. -/
inductive Arity where
  | one | two | three
  deriving DecidableEq, Repr, Inhabited

/-- TAGOP.ACT (R65). -/
inductive TagAct where
  | keep | inc | enter | exit | call | ret | setv
  deriving DecidableEq, Repr, Inhabited

/-- TAGOP.RUN (R65). -/
inductive RunOp where
  | keep | split | pack
  deriving DecidableEq, Repr, Inhabited

/-- The fields of a node record beside its opcode (R62). MATTR is fixed by the opcode (R67). -/
structure NRec where
  arity : Arity
  lit : Bool
  dsta : BitVec 16
  dstb : BitVec 16
  act : TagAct
  k : BitVec 3
  run : RunOp
  etype : ElemType
  rnd : BitVec 3
  fch : Bool
  repro : Bool
  trc : Bool
  lit32 : HWord
  deriving DecidableEq, Repr, Inhabited

/-- What an uncorrectable soft error hits (R429, R349): a memory word by its key, a thread's register file, a node-store
element, a bobbin's header or operands or one of its identities, or a row of the input buffer of the link from a to b (R292) with
a flit of a packet. `cell` is the injected fault of R502: a byte of a compute tile's pool array, by bank, row (from 1,024 a spare) and byte of the
row, some bits of which read stuck at 1 or at 0 from then on (log 115). -/
inductive EccHit where
  | word (key : Nat)
  | register (th : Nat)
  | element (slot : Nat)
  | bobbin (b : Nat) (identity : Option Nat)
  | link (a b : Nat) (packet : Option Nat)
  | cell (t bank row i : Nat) (ones zeros : Byte)
  deriving DecidableEq, Repr, Inhabited

/-- A thermal event of a die (R459): its junction in degrees Celsius, and the trip point its management firmware asks for (log 120). -/
structure TripAt where
  die : Nat
  celsius : Nat
  low : Nat
  deriving DecidableEq, Repr, Inhabited

/-- A core-rail current in amperes, and the governor limit the management firmware asks for (R459, log 120). -/
structure Amps where
  amps : Nat
  low : Nat
  deriving DecidableEq, Repr, Inhabited

/-- The register an Access Register command names (R471), and the SBADDR the debugger wrote before it, if it did (log 95). -/
structure SbReg where
  reg : Nat
  addr : Option Word
  deriving DecidableEq, Repr, Inhabited

/-- The steps of the part. -/
inductive Instr where
  /-- ADD (R134). Slot-A integer add of g[a] and g[b] into g[d]. -/
  | add (o : AR)
  /-- SUB (R134). Slot-A integer subtract g[b] from g[a] into g[d]. -/
  | sub (o : AR)
  /-- ADDI (R134). Slot-A add of a sign-extended immediate to g[a]. -/
  | addi (o : AI)
  /-- MUL (R136). Slot-A multiply giving the low, signed high or unsigned high 64 bits. -/
  | mul (o : AR)
  /-- DIV (R136). Slot-A signed or unsigned divide, with integer divide-by-zero on a zero divisor. -/
  | div (o : AR)
  /-- REM (R136). Slot-A signed or unsigned remainder, with integer divide-by-zero on a zero divisor. -/
  | rem (o : AR)
  /-- AND (R134). Slot-A bitwise and. -/
  | andA (o : AR)
  /-- OR (R134). Slot-A bitwise or. -/
  | orA (o : AR)
  /-- XOR (R134). Slot-A bitwise exclusive or. -/
  | xorA (o : AR)
  /-- ANDN (R134). Slot-A and with the complement of g[b]. -/
  | andn (o : AR)
  /-- SHL (R134). Slot-A left shift by g[b][5:0]. -/
  | shl (o : AR)
  /-- SHR (R134). Slot-A logical or arithmetic right shift. -/
  | shr (o : AR)
  /-- ROTL (R134). Slot-A rotate left. -/
  | rotl (o : AR)
  /-- CLZ (R134). Slot-A count of leading zero bits. -/
  | clz (o : AR)
  /-- POPC (R134). Slot-A count of one bits. -/
  | popc (o : AR)
  /-- MIN (R134). Slot-A signed or unsigned minimum. -/
  | min (o : AR)
  /-- MAX (R134). Slot-A signed or unsigned maximum. -/
  | max (o : AR)
  /-- SET (R134). Slot-A compare writing 1 or 0 to g[d]. -/
  | setCond (o : AR)
  /-- SEL (R134). Slot-A select of g[a] or g[b] by a predicate. -/
  | sel (o : AR)
  /-- MOVI (R134). Slot-A move of an immediate into g[d]. -/
  | movi (o : AI)
  /-- BFX (R136). Slot-A bit-field extract, zero- or sign-extended. -/
  | bfx (o : AR)
  /-- BFI (R136). Slot-A bit-field insert into g[d]. -/
  | bfi (o : AR)
  /-- LEA (R134). Slot-A address computation x + (y << s) + displacement. -/
  | lea (o : ARE)
  /-- BR (R141). Unconditional relative branch. -/
  | br (o : AI)
  /-- BRP (R141). Branch on a predicate being 1, or 0 with .f. -/
  | brp (o : AI)
  /-- BRI (R141). Indirect branch through g[a], linking into g[d]. -/
  | bri (o : AR)
  /-- CALL (R141). Relative call linking into g31. -/
  | call (o : AI)
  /-- RET (R141). Return to the address in g31. -/
  | ret (o : AR)
  /-- PSET (R142). Set a predicate from a register comparison. -/
  | pset (o : AR)
  /-- PLOGIC (R142). Set a predicate from a logical combination of predicates. -/
  | plogic (o : AR)
  /-- TSTART (R143). Start the lowest stopped allotted thread of the task at a target. -/
  | tstart (o : AI)
  /-- TSTOP (R144). Stop the issuing thread after its bundle. -/
  | tstop (o : AR)
  /-- TID (R145). Write module, die, tile index and thread number to g[d]. -/
  | tid (o : AR)
  /-- NOP (R146). Do nothing. -/
  | nop (o : AR)
  /-- WAITF (R147). Begin waiting for a pool word to meet a condition, testing it at issue. -/
  | waitf (o : ARE)
  /-- FADD (R149). Floating add with one rounding. -/
  | fadd (o : AR)
  /-- FSUB (R149). Floating subtract with one rounding. -/
  | fsub (o : AR)
  /-- FMUL (R149). Floating multiply with one rounding. -/
  | fmul (o : AR)
  /-- FFMA (R149). Fused multiply-add with g[d] as addend and one rounding. -/
  | ffma (o : AR)
  /-- FDIV (R149). Floating divide with one rounding. -/
  | fdiv (o : AR)
  /-- FSQRT (R149). Floating square root with one rounding. -/
  | fsqrt (o : AR)
  /-- FMIN (R150). Floating minimum without exceptions. -/
  | fmin (o : AR)
  /-- FMAX (R150). Floating maximum without exceptions. -/
  | fmax (o : AR)
  /-- FCMP (R150). Floating compare into a predicate. -/
  | fcmp (o : AR)
  /-- FCVT (R151). Convert between float and integer kinds. -/
  | fcvt (o : AR)
  /-- FCLASS (R152). Classify a floating encoding into a one-hot mask. -/
  | fclass (o : AR)
  /-- MSHAPE (R190). Write a shape word into a shape entry. -/
  | mshape (o : AR)
  /-- MMA (R191). Queue a matrix multiply-accumulate into C. -/
  | mma (o : AR)
  /-- MMAZ (R191). Queue a matrix multiply with zero-started accumulator. -/
  | mmaz (o : AR)
  /-- MMAS (R191). Queue a 2:4 sparse matrix multiply-accumulate. -/
  | mmas (o : AR)
  /-- MMAX (R191). Queue an MX-scaled matrix multiply-accumulate. -/
  | mmax (o : AR)
  /-- MZERO (R192). Queue zeroing of an accumulator. -/
  | mzero (o : AR)
  /-- MOUT (R193). Queue conversion of an accumulator to the pool, optionally clearing it. -/
  | mout (o : AR)
  /-- MTRN (R194). Queue a transpose of an A-layout tile. -/
  | mtrn (o : AR)
  /-- MFETCH (R195). Queue a cluster multicast fetch into the pools of masked tiles. -/
  | mfetch (o : AR)
  /-- LD (R262). Global load into a pending register. -/
  | ld (o : AI)
  /-- ST (R262). Posted global store. -/
  | st (o : AI)
  /-- LDP (R262). Pool load completing before the next owned cycle. -/
  | ldp (o : AI)
  /-- STP (R262). Pool store completing within 4 cycles. -/
  | stp (o : AI)
  /-- ISREAD (R264). Structure read of a word, pending until answered. -/
  | isread (o : AR)
  /-- ISWRITE (R264). Posted structure write. -/
  | iswrite (o : AR)
  /-- ISCLR (R264). Posted clear of n structure words. -/
  | isclr (o : AR)
  /-- PREF (R263). Ask the neighbourhood cache bank to fill a line. -/
  | pref (o : AI)
  /-- CFLUSH (R263). Remove a line once the thread's earlier stores are performed. -/
  | cflush (o : AI)
  /-- CINV (R263). Remove a line from the neighbourhood's cache banks. -/
  | cinv (o : AI)
  /-- COPY (R299). Queue a copy-engine transfer. -/
  | copy (o : AR)
  /-- COPY2D (R299). Queue a two-dimensional copy. -/
  | copy2d (o : AR)
  /-- GATHER (R300). Queue an indexed gather into the pool. -/
  | gather (o : AR)
  /-- SCATTER (R300). Queue an indexed scatter from the pool. -/
  | scatter (o : AR)
  /-- MCAST (R299). Queue a multicast to a rectangle of pools. -/
  | mcast (o : AR)
  /-- CHOPEN (R302). Bind a stream port to a ring. -/
  | chopen (o : AR)
  /-- CHCLOSE (R302). Unbind a stream port, after draining an outbound ring, optionally sending E. -/
  | chclose (o : AR)
  /-- TLREAD (R303). Read a timeline counter or highest issued number. -/
  | tlread (o : AR)
  /-- TLWAIT (R303). Issue once the timeline counter reaches the target, acquiring. -/
  | tlwait (o : AR)
  /-- UIARM (R304). Set or disarm an engine's user-interrupt arm. -/
  | uiarm (o : AR)
  /-- UIRET (R304). Return from the user-interrupt handler. -/
  | uiret (o : AR)
  /-- AADD (R338). Atomic fetch-and-add. -/
  | aadd (o : AX)
  /-- AFADD (R338). Atomic floating fetch-and-add. -/
  | afadd (o : AX)
  /-- AMIN (R338). Atomic minimum. -/
  | amin (o : AX)
  /-- AMAX (R338). Atomic maximum. -/
  | amax (o : AX)
  /-- AAND (R338). Atomic and. -/
  | aand (o : AX)
  /-- AOR (R338). Atomic or. -/
  | aor (o : AX)
  /-- AXOR (R338). Atomic exclusive or. -/
  | axor (o : AX)
  /-- ASWAP (R338). Atomic swap. -/
  | aswap (o : AX)
  /-- ACAS (R338). Atomic compare-and-swap. -/
  | acas (o : AX)
  /-- AREDN (R338). Posted atomic reduction without return. -/
  | aredn (o : AX)
  /-- FENCE (R328). Release and/or acquire at a scope. -/
  | fence (o : AX)
  /-- SCOPEW (R311). Install a programmable scope entry from an image. -/
  | scopew (o : AX)
  /-- SCOPER (R330). Read a scope entry's summary and optionally its image. -/
  | scoper (o : AX)
  /-- SCOPEKILL (R311). Kill a programmable scope entry. -/
  | scopekill (o : AX)
  /-- WIDEN (R328). Release to a wider scope, as FENCE. -/
  | widen (o : AX)
  /-- BAR (R331). Barrier arrival returning the old phase. -/
  | bar (o : AX)
  /-- BARWAIT (R331). Wait for a barrier phase to pass. -/
  | barwait (o : AX)
  /-- TSPAWN (R389). Write a task record from an image. -/
  | tspawn (o : AR)
  /-- TDEC (R390). Send a dependence decrement. -/
  | tdec (o : AR)
  /-- TSUCC (R391). Add a successor to a record. -/
  | tsucc (o : AR)
  /-- GINST (R386). Instantiate a graph template. -/
  | ginst (o : AR)
  /-- GFREE (R393). End an instance, freeing unstarted records. -/
  | gfree (o : AR)
  /-- TDONE (R394). Stop the thread and signal the tile done or fail the task. -/
  | tdone (o : AR)
  /-- TQUERY (R395). Read a record header or instance state. -/
  | tquery (o : AR)
  /-- TTWRITE (R396). Write a task-type entry. -/
  | ttwrite (o : AR)
  /-- TARG (R397). Read the task's arguments, id or position. -/
  | targ (o : AR)
  /-- SXSEL (R407). Open a pricking slot with an arena. -/
  | sxsel (o : AR)
  /-- SXAPP (R404). Append an id at a position of a slot's history. -/
  | sxapp (o : AR)
  /-- SXPROP (R405). Request a draft proposal as of a position. -/
  | sxprop (o : AR)
  /-- SXLEN (R408). Read a slot's count, base, match or window. -/
  | sxlen (o : AR)
  /-- SXSAVE (R409). Write a slot image to memory. -/
  | sxsave (o : AR)
  /-- SXLOAD (R409). Rebuild a slot from an image. -/
  | sxload (o : AR)
  /-- SXWIN (R407). Set a slot's window. -/
  | sxwin (o : AR)
  /-- SXCLR (R407). Clear or close a slot. -/
  | sxclr (o : AR)
  /-- BTPROP (R413). Propose a batching delta to every replica. -/
  | btprop (o : AR)
  /-- BTCOMMIT (R413). Commit or abort the prepared batching delta. -/
  | btcommit (o : AR)
  /-- BTREAD (R414). Read a committed batching entry word or ITER. -/
  | btread (o : AR)
  /-- TKMERGE (R417). Merge candidate lists on the vector engine. -/
  | tkmerge (o : AR)
  /-- RNGDRAW (R418). Draw 128 random bits by AES from sequence, position, draw and key. -/
  | rngdraw (o : AR)
  /-- VOCCHK (R420). Test whether an id is valid in the vocabulary. -/
  | vocchk (o : AR)
  /-- TRAP (R428). Software trap with SW_TRAP. -/
  | trap (o : AI)
  /-- ERET (R430). Return from a trap handler, resubmitting a parked request. -/
  | eret (o : AR)
  /-- MRD (R431). Read a machine register. -/
  | mrd (o : AI)
  /-- MWR (R431). Write a machine register. -/
  | mwr (o : AI)
  /-- HALT (R445). Stop the thread, acknowledging a pending pre-emption. -/
  | halt (o : AR)
  /-- TLBINV (R446). Invalidate TLB entries of the die. -/
  | tlbinv (o : AR)
  /-- CTXSAVE (R447). Request pre-emption and save of a task. -/
  | ctxsave (o : AR)
  /-- CTXLOAD (R447). Request restore of a saved task at an anchor. -/
  | ctxload (o : AR)
  /-- PWRHINT (R448). Return unused energy to the window. -/
  | pwrhint (o : AI)
  /-- SWINT (R449). Ring a doorbell to the host complex. -/
  | swint (o : AR)
  /-- REPLAY (R450). Resubmit parked operations or unblock a trapped node. -/
  | replay (o : AR)
  /-- BKPT (R473). Breakpoint raising a freeze cause. -/
  | bkpt (o : AI)
  /-- WATCH (R474). Arm or disarm a watch comparator. -/
  | watch (o : AR)
  /-- TRACE (R475). Write a TRACE record. -/
  | trace (o : AR)
  /-- MARK (R475). Write a MARK record. -/
  | mark (o : AI)
  /-- HISTRD (R476). Read a wait-time histogram count. -/
  | histrd (o : AR)
  /-- HISTCLR (R476). Clear histogram counters and profile words. -/
  | histclr (o : AR)
  /-- VADD (R168). Vector sweep add. -/
  | vadd (o : BO)
  /-- VSUB (R168). Vector sweep subtract. -/
  | vsub (o : BO)
  /-- VMUL (R168). Vector sweep multiply. -/
  | vmul (o : BO)
  /-- VFMA (R168). Vector sweep fused multiply-add into d. -/
  | vfma (o : BO)
  /-- VMIN (R168). Vector sweep minimum. -/
  | vmin (o : BO)
  /-- VMAX (R168). Vector sweep maximum. -/
  | vmax (o : BO)
  /-- VABS (R168). Vector sweep absolute value. -/
  | vabs (o : BO)
  /-- VNEG (R168). Vector sweep negation. -/
  | vneg (o : BO)
  /-- VCMP (R170). Vector sweep compare writing all-ones masks. -/
  | vcmp (o : BO)
  /-- VSEL (R170). Vector sweep select by d's bit pattern. -/
  | vsel (o : BO)
  /-- VAND (R169). Vector sweep bitwise and. -/
  | vand (o : BO)
  /-- VOR (R169). Vector sweep bitwise or. -/
  | vor (o : BO)
  /-- VXOR (R169). Vector sweep bitwise exclusive or. -/
  | vxor (o : BO)
  /-- VSHL (R169). Vector sweep left shift. -/
  | vshl (o : BO)
  /-- VSHR (R169). Vector sweep logical or arithmetic right shift. -/
  | vshr (o : BO)
  /-- VCVT (R171). Vector sweep type conversion. -/
  | vcvt (o : BO)
  /-- VQNT (R172). Vector sweep scale-and-quantise. -/
  | vqnt (o : BO)
  /-- VPACK (R173). Vector sweep packing unpacked elements. -/
  | vpack (o : BO)
  /-- VUNPACK (R173). Vector sweep unpacking packed elements. -/
  | vunpack (o : BO)
  /-- VCLAMP (R170). Vector sweep clamp of d between a and b. -/
  | vclamp (o : BO)
  /-- VMOV (R170). Vector sweep copy. -/
  | vmov (o : BO)
  /-- VIOTA (R174). Vector sweep writing element indices. -/
  | viota (o : BO)
  /-- VSHUF (R174). Vector sweep permutation by an index vector. -/
  | vshuf (o : BO)
  /-- VREDSUM (R175). Vector sweep pairwise sum reduction. -/
  | vredsum (o : BO)
  /-- VREDMAX (R175). Vector sweep maximum reduction. -/
  | vredmax (o : BO)
  /-- VREDMIN (R175). Vector sweep minimum reduction. -/
  | vredmin (o : BO)
  /-- VSCAN (R176). Vector sweep inclusive prefix sum. -/
  | vscan (o : BO)
  /-- VDOT (R175). Vector sweep dot product. -/
  | vdot (o : BO)
  /-- VEXP (R177). Vector sweep exponential. -/
  | vexp (o : BO)
  /-- VLOG2 (R177). Vector sweep base-2 logarithm. -/
  | vlog2 (o : BO)
  /-- VRCP (R177). Vector sweep reciprocal. -/
  | vrcp (o : BO)
  /-- VRSQRT (R177). Vector sweep reciprocal square root. -/
  | vrsqrt (o : BO)
  /-- VSQRT (R177). Vector sweep square root. -/
  | vsqrt (o : BO)
  /-- VSIG (R177). Vector sweep sigmoid. -/
  | vsig (o : BO)
  /-- VTANH (R177). Vector sweep hyperbolic tangent. -/
  | vtanh (o : BO)
  /-- VSIN (R177). Vector sweep sine. -/
  | vsin (o : BO)
  /-- VCOS (R177). Vector sweep cosine. -/
  | vcos (o : BO)
  /-- TOPK (R416). Sweep logits into the k largest value-id pairs. -/
  | topk (o : BO)
  /-- WAITF_SATISFIED (R147). A later owned-cycle test finds the condition true and writes 1. -/
  | waitfSatisfied
  /-- WAITF_TIMEOUT (R147). The WAITF timeout expires and it writes 0. -/
  | waitfTimeout
  /-- DEFERRED_TRAP_ENTRY (R132). At an owned cycle a parked load fault is taken as a deferred trap. -/
  | deferredTrapEntry
  /-- USER_INTERRUPT_TAKE (R282). At an owned cycle a pending user interrupt saves PC and predicates to h0, h1 and enters the handler. -/
  | userInterruptTake
  /-- PREEMPT_INTERRUPT_TAKE (R441). At an owned cycle a pending class S pre-emption interrupt is taken as trap entry with code PREEMPT. -/
  | preemptInterruptTake
  /-- VECTOR_ENGINE_TAKE (R156). The vector engine takes the next queued command round-robin and runs its iterations. -/
  | vectorEngineTake (tile : Nat)
  /-- VECTOR_COMMAND_COMPLETE (R276). A vector command's writes are performed and the thread's vector timeline counter advances. -/
  | vectorCommandComplete (tile : Nat)
  /-- MATRIX_ENGINE_TAKE (R179). The matrix engine takes a head from the node or sequencer source queue alternately and starts it on its unit. -/
  | matrixEngineTake (tile : Nat)
  /-- MATRIX_OPERATION_COMPLETE (R181). A matrix operation or fetch writes its results, advancing the counter or emitting the node's token. -/
  | matrixOperationComplete (tile : Nat) (k : Nat)
  /-- TOKEN_ARRIVAL (R205). A PE takes a token from its input, divides it, looks it up and fires or places entries. -/
  | tokenArrival (pe : Nat) (k : Nat)
  /-- DEEP_LOOKUP_COMPLETE (R208). A frame or overflow lookup completes and its queued pieces are matched in order. -/
  | deepLookupComplete (pe : Nat) (set : Nat)
  /-- MATCHING_WAY_REFILL (R207). A freed matching-store way is refilled from the oldest entry held below. -/
  | matchingWayRefill (pe : Nat) (set : Nat)
  /-- FIRING_WEIGHT_UPDATE (R212). After every 256 firings the class arbiter recomputes the weights. -/
  | firingWeightUpdate (pe : Nat)
  /-- PACKER_FLUSH (R213). An open packer run is emitted after 8 cycles without extension. -/
  | packerFlush (pe : Nat) (k : Nat)
  /-- REQUEST_ADMIT (R247). A request held by the bank quota or a full slot pool is admitted when a slot frees. -/
  | requestAdmit (r : Nat)
  /-- TRANSLATION_WALK_COMPLETE (R244). A page-table walk finishes, faulting or proceeding with the access. -/
  | translationWalkComplete (r : Nat)
  /-- REGION_ACCESS_APPLY (R249). A load or store request arrives at its region and is performed. -/
  | regionAccessApply (r : Nat)
  /-- STRUCTURE_OPERATION_APPLY (R256). A structure operation arrives at a buffer tile and acts by the word's state. -/
  | structureOperationApply (r : Nat)
  /-- CACHE_BANK_FILL (R241). A cache bank miss fills the line from its home and replies. -/
  | cacheBankFill (r : Nat)
  /-- MEMORY_REPLY_ARRIVAL (R121). A reply writes its pending register or emits the node's result and frees its slot. -/
  | memoryReplyArrival (r : Nat)
  /-- REQUEST_RETRY (R257). A refused request is sent again 256 cycles later. -/
  | requestRetry (r : Nat)
  /-- COPY_ENGINE_TAKE (R269). The copy engine takes a command from a source head and runs it in chunks. -/
  | copyEngineTake (tile : Nat)
  /-- GATHER_ENGINE_TAKE (R269). The gather engine takes a command and runs its elements. -/
  | gatherEngineTake (tile : Nat)
  /-- ENGINE_COMMAND_COMPLETE (R276). A copy or gather command's writes are performed, advancing the counter or emitting the token. -/
  | engineCommandComplete (tile : Nat) (k : Nat)
  /-- ATOMIC_APPLY (R338). An atomic request arrives at its region and is applied. -/
  | atomicApply (r : Nat)
  /-- COMBINING_JOIN (R345). A request arriving at a switch port joins a queued request. -/
  | combiningJoin (r : Nat) (q : Nat)
  /-- COMBINED_REPLY_SPLIT (R347). A combined request's reply is split into per-requester replies. -/
  | combinedReplySplit (b : Nat)
  /-- COMBINED_FAULT_COPY (R348). An FLT reply to a combined request is copied to every requester. -/
  | combinedFaultCopy (b : Nat)
  /-- REPRO_CONTRIBUTION_ARRIVAL (R351). A REPRO contribution is held and a full group is applied. -/
  | reproContributionArrival (r : Nat)
  /-- REPRO_GROUP_ABANDON (R352). A group open 2^23 cycles is abandoned with ATOMIC_LOST. -/
  | reproGroupAbandon (k : Nat)
  /-- BARRIER_ARRIVAL_APPLY (R321). An arrival is applied at the word's region, completing the phase when the count is reached. -/
  | barrierArrivalApply (r : Nat)
  /-- SCOPE_MARK_ARRIVAL (R311). A mark-updating message reaches a tile, which holds new operations on the entry. -/
  | scopeMarkArrival (k : Nat)
  /-- SCOPE_MARK_ACKNOWLEDGE (R312). A marked tile acknowledges once its snapshotted operations have drained. -/
  | scopeMarkAcknowledge (tile : Nat) (k : Nat)
  /-- SCOPE_INSTALL_ARRIVAL (R311). An install message reaches a tile, which installs the set and acknowledges. -/
  | scopeInstallArrival (k : Nat)
  /-- SCOPE_MISS_REPLY (R314). A SCOPE_MISS reply parks the request and publishes it to the miss ring. -/
  | scopeMissReply (r : Nat)
  /-- MISS_RING_REISSUE (R317). After a HEAD store the tile reissues or abandons consumed miss records. -/
  | missRingReissue (tile : Nat) (k : Nat)
  /-- DECREMENT_ARRIVAL (R369). A decrement is applied to a record at its dispatcher. -/
  | decrementArrival (k : Nat)
  /-- PENDING_PASS (R371). Every 8 cycles the dispatcher reserves the pool part for a fitting pending head and issues its prefetch. -/
  | pendingPass (die : Nat)
  /-- PREFETCH_OPERAND_LAND (R372). A prefetched operand lands; when all have landed the task becomes READY. -/
  | prefetchOperandLand (die : Nat) (idx : Nat) (j : Nat)
  /-- SELECTION_PASS (R374). Every 8 cycles the dispatcher starts at most one ready head. -/
  | selectionPass (die : Nat)
  /-- ENERGY_WINDOW_START (R375). At each 2^16-cycle window REMAIN is reset to the budget and exclusivity is decided. -/
  | energyWindowStart (die : Nat)
  /-- TASK_COMPLETION (R380). When COUNT reaches zero the task is stopped, drained, released and its successors decremented. -/
  | taskCompletion (die : Nat) (idx : Nat)
  /-- SXPROP_EVALUATE (R405). A waiting SXPROP is evaluated once COUNT reaches its as-of position. -/
  | sxpropEvaluate (die : Nat) (k : Nat)
  /-- SXLOAD_REBUILD_COMPLETE (R409). A slot's index rebuild finishes and the result is returned. -/
  | sxloadRebuildComplete (die : Nat) (k : Nat)
  /-- BT_PROPOSAL_ARRIVAL (R412). A replica validates a proposal and holds it prepared or replies a reason. -/
  | btProposalArrival (k : Nat)
  /-- BT_ABORT_ARRIVAL (R413). A replica discards its prepared proposal. -/
  | btAbortArrival (k : Nat)
  /-- BT_COMMIT_ARRIVAL (R414). A replica applies the committed delta as one step and sets ITER. -/
  | btCommitArrival (k : Nat)
  /-- BT_REPLICA_TIMEOUT (R413). A replica silent for 2^24 cycles aborts the proposal or gives BT_DIVERGE. -/
  | btReplicaTimeout (die : Nat)
  /-- GENERATOR_DRAW_SERVE (R419). An AES engine cycle serves up to 16 waiting draws. -/
  | generatorDrawServe (die : Nat)
  /-- MISSRING_WRITE (R315). A write of MS.MISSRING binds, resets or disables the miss ring. -/
  | missringWrite (v : Word)
  /-- NTRAPCTL_WRITE (R437). A write of MS.NTRAPCTL sets or disables node-trap publication. -/
  | ntrapctlWrite (v : Word)
  /-- REPAIR_WRITE (R435). A write of MS.REPAIR zero-fills the spare row and maps it. -/
  | repairWrite (num : Nat) (v : Word)
  /-- TIMELINE_COUNTER_WRITE (R279). A privileged write sets a timeline counter and highest issued number when idle. -/
  | timelineCounterWrite (num : Nat) (v : Word)
  /-- ERROR_REGISTER_CLEAR (R159). Writing 1 to VALID of MS.VERR, MERR, CERR or GERR clears the suppression. -/
  | errorRegisterClear (num : Nat) (v : Word)
  /-- EBUDGET_WRITE (R376). A privileged write sets the energy budget capped at FUSE. -/
  | ebudgetWrite (v : Word)
  /-- MACHINE_REGISTER_WRITE (R8). A write to a register without a row of its own follows its access codes. -/
  | machineRegisterWrite (num : Nat) (v : Word)
  /-- CLASS_G_SAVE (R440). A class G save freezes, drains, scans out the image and releases the task. -/
  | classGSave (die : Nat) (k : Nat)
  /-- CLASS_S_SAVE (R441). A class S save interrupts threads, awaits HALTs, copies and releases. -/
  | classSSave (die : Nat) (k : Nat)
  /-- SAVE_HELD_REQUEST_TIMEOUT (R440). Requests still held 2^20 cycles into a class G save abandon it with SAVESTAT 3. -/
  | saveHeldRequestTimeout (die : Nat) (k : Nat)
  /-- PREEMPT_ACK_TIMEOUT (R441). Threads unacknowledged after 2^24 cycles end the class S save with SAVESTAT 5. -/
  | preemptAckTimeout (die : Nat) (k : Nat)
  /-- CONTEXT_RESTORE (R443). A restore checks and loads a save area and resumes the task. -/
  | contextRestore (die : Nat) (k : Nat)
  /-- FAULT_RECORD_PLACE (R426). A fault record packet reaches its die's log and is placed or dropped. -/
  | faultRecordPlace (k : Nat)
  /-- ECC_UNCORRECTABLE (R429). An uncorrectable soft error poisons a word or stops a thread or element. -/
  | eccUncorrectable (hit : EccHit)
  /-- DBG_FREEZE_COMMAND (R463). DBGCMD 01 from the ostler freezes the cluster. -/
  | dbgFreezeCommand (tile : Nat)
  /-- DBG_RESUME_COMMAND (R462). DBGCMD 10 restarts every tile of the cluster in one cycle. -/
  | dbgResumeCommand (tile : Nat)
  /-- SBDATA_ACCESS (R471). An ostler SBDATA access reads or writes 8 bytes at SBADDR and advances it. -/
  | sbdataAccess (die : Nat) (addr : SbReg) (wr : Bool) (v : Word)
  /-- SBSTAT_WRITE (R471). A write of SBSTAT clears ERR. -/
  | sbstatWrite (die : Nat) (v : Word)
  /-- TRACE_RING_CONFIG_WRITE (R469). A write of TRBASE or TRSIZE resets TRTAIL and TRHEAD. -/
  | traceRingConfigWrite (die : Nat) (off : Nat) (v : Word)
  /-- TRACE_RECORD_PLACE (R468). A trace record reaches its die's ring and is placed or dropped. -/
  | traceRecordPlace (k : Nat)
  /-- MAILBOX_SCAN (R232). After a TAIL store the fabric takes mailbox records as tokens, one per cycle. -/
  | mailboxScan (pe : Nat) (node : Nat)
  /-- CHANNEL_RING_SCAN (R302). A bound port moves records between its ring and the stream. -/
  | channelRingScan (tile : Nat) (port : Nat) (out : Bool)
  /-- STREAM_BEAT_ARRIVAL (R285). A beat reaches an inbound port; a complete token is delivered and credits return. -/
  | streamBeatArrival (c : Nat)
  /-- STREAM_CREDIT_RETURN (R285). A credit reaches an outbound port, which sends its next beat. -/
  | streamCreditReturn (c : Nat)
  /-- FIFO_FORWARD (R286). A token-FIFO tile forwards queued beats to its outbound port. -/
  | fifoForward (tile : Nat) (port : Nat)
  /-- PACKET_RECEIVE (R290). A packet arrives at a router or endpoint and is checked and switched or delivered. -/
  | packetReceive (k : Nat)
  /-- REQUEST_WATCHDOG_EXPIRY (R290). A slot's 2^24-cycle watchdog expires and the request fails. -/
  | requestWatchdogExpiry (r : Nat)
  /-- LINK_WITHDRAW (R292). A link losing usable buffer is withdrawn and traffic moves to the other route. -/
  | linkWithdraw (lnk : Nat)
  /-- STREAM_CIRCUIT_REROUTE (R292). A circuit on a withdrawn link is re-routed after its beats drain. -/
  | streamCircuitReroute (c : Nat)
  /-- UALINK_PORT_TRAINING (R294). A UALink port trains as x4 at 200 Gb/s or stays down. -/
  | ualinkPortTraining (io : Nat) (port : Nat) (lanes : Nat) (speed : Nat)
  /-- UALINK_CHUNK_RECEIVE (R295). A receive-window write is reassembled into a packet and forwarded. -/
  | ualinkChunkReceive (io : Nat) (src : Nat) (off : Nat) (data : List Byte) (jequa : Bool)
  /-- PCIE_DMA_ACCESS (R453). A device access is served inside a DMA window or refused and recorded. -/
  | pcieDmaAccess (io : Nat) (wr : Bool) (addr : Nat) (data : List Byte)
  /-- ROLE_SWAP_FILL_COMPLETE (R240). A memory tile's addressed-buffer zero-fill completes and it accepts requests. -/
  | roleSwapFillComplete (tile : Nat)
  /-- JOURNAL_ENTRY_ACCEPT (R455). The device takes the next journal entry, copies it or fails it. -/
  | journalEntryAccept (m : Nat)
  /-- TLOAD (R456). Journal command writing task-type images. -/
  | tload (m : Nat) (seq : Nat)
  /-- INST (R457). Journal command instantiating a template on a die. -/
  | instCmd (m : Nat) (seq : Nat)
  /-- CANCEL (R456). Journal command ending an instance as GFREE. -/
  | cancelCmd (m : Nat) (seq : Nat)
  /-- DEC (R456). Journal command sending a decrement. -/
  | decCmd (m : Nat) (seq : Nat)
  /-- JOURNAL_REPLAY (R456). Journal command resubmitting parked operations. -/
  | journalReplay (m : Nat) (seq : Nat)
  /-- PREEMPT (R456). Journal command pre-empting a task. -/
  | preemptCmd (m : Nat) (seq : Nat)
  /-- RESTORE (R456). Journal command restoring a saved task. -/
  | restoreCmd (m : Nat) (seq : Nat)
  /-- ASID (R456). Journal command setting an ASID root and PRIV. -/
  | asidCmd (m : Nat) (seq : Nat)
  /-- JOURNAL_TLBINV (R456). Journal command invalidating TLBs on every die. -/
  | journalTlbinv (m : Nat) (seq : Nat)
  /-- PLIST (R456). Journal command defining a partition list. -/
  | plistCmd (m : Nat) (seq : Nat)
  /-- PARTITION (R456). Journal command setting the partition filter with a new epoch. -/
  | partitionCmd (m : Nat) (seq : Nat)
  /-- AREA (R456). Journal command placing fault log, overflow, arena or doorbell areas. -/
  | areaCmd (m : Nat) (seq : Nat)
  /-- BTSET (R456). Journal command configuring a batching replica set. -/
  | btset (m : Nat) (seq : Nat)
  /-- KEYLOAD (R456). Journal command loading a generator key. -/
  | keyload (m : Nat) (seq : Nat)
  /-- SXFREE (R456). Journal command freeing every pricking slot of an ASID. -/
  | sxfree (m : Nat) (seq : Nat)
  /-- DMAWIN (R456). Journal command setting DMA windows. -/
  | dmawin (m : Nat) (seq : Nat)
  /-- FWUPDATE (R456). Journal command replacing dispatcher or ostler firmware once the die is idle. -/
  | fwupdate (m : Nat) (seq : Nat)
  /-- OWNERKEY (R452). Journal command writing the owner-key slot once. -/
  | ownerkey (m : Nat) (seq : Nat)
  /-- MODULE_RESET (R458). Power-up and release of reset zero die state and cycle counts. -/
  | moduleReset (m : Nat)
  /-- FIRMWARE_BOOT (R451). The management controller verifies, measures and starts each firmware image. -/
  | firmwareBoot (m : Nat) (image : List Byte)
  /-- THERMAL_TRIP (R459). A junction at the trip point freezes the die and puts DRAM in self-refresh. -/
  | thermalTrip (die : TripAt)
  /-- CURRENT_GOVERNOR_THROTTLE (R459). Core-rail current above the limit makes the die withhold issue and firing cycles. -/
  | currentGovernorThrottle (die : Nat) (amps : Amps)
  /-- POWER_DOWN (R14). The platform lowers the supply rails in reverse order, and the module then keeps no state and runs no logic. -/
  | powerDown (m : Nat)
  /-- SCOPE_UPDATE_ACK_ARRIVAL (R311). An acknowledgement of a scope mark or install reaches the task's dispatcher; the last mark acknowledgement sends the installs, and the last install acknowledgement advances the generation and writes g[d]. -/
  | scopeUpdateAckArrival (k : Nat)
  /-- BATCHING_ACKNOWLEDGEMENT (R413). A replica's reply to a proposal or commit (CTL KIND 2) reaches the coordinator; the last reply decides the BTPROP or BTCOMMIT status, or an abort. -/
  | batchingAcknowledgement (k : Nat)
  /-- TRANSACTION_LAYER_RESPONSE (R296). A UALink transaction-layer read or atomic response from a non-Jequa accelerator reaches the IO die and is returned to the requester as a reply. -/
  | transactionLayerResponse (r : Nat) (v : Word)
  /-- ADD_NODE (R137). Node firing adding L and R words. -/
  | addNode
  /-- SUB_NODE (R137). Node firing subtracting R from L. -/
  | subNode
  /-- ADDI_NODE (R137). Node firing adding the parameter word to L. -/
  | addiNode
  /-- MUL_NODE (R137). Node firing multiply under the .lo, .hi or .hu modifier. -/
  | mulNode
  /-- DIV_NODE (R137). Node firing divide with the task's integer divide-by-zero mode. -/
  | divNode
  /-- REM_NODE (R137). Node firing remainder with the task's integer divide-by-zero mode. -/
  | remNode
  /-- AND_NODE (R137). Node firing bitwise and. -/
  | andNode
  /-- OR_NODE (R137). Node firing bitwise or. -/
  | orNode
  /-- XOR_NODE (R137). Node firing bitwise exclusive or. -/
  | xorNode
  /-- ANDN_NODE (R137). Node firing and-not. -/
  | andnNode
  /-- SHL_NODE (R137). Node firing left shift by y mod n. -/
  | shlNode
  /-- SHR_NODE (R137). Node firing logical or arithmetic right shift. -/
  | shrNode
  /-- ROTL_NODE (R137). Node firing rotate left. -/
  | rotlNode
  /-- CLZ_NODE (R137). Node firing leading-zero count on L. -/
  | clzNode
  /-- POPC_NODE (R137). Node firing population count on L. -/
  | popcNode
  /-- MIN_NODE (R137). Node firing minimum. -/
  | minNode
  /-- MAX_NODE (R137). Node firing maximum. -/
  | maxNode
  /-- SET_NODE (R137). Node firing compare yielding 1 or 0. -/
  | setNode
  /-- SEL_NODE (R137). Node firing selecting L or R by C's payload. -/
  | selNode
  /-- MOVI_NODE (R137). Node firing emitting the parameter word on L's arrival. -/
  | moviNode
  /-- BFX_NODE (R137). Node firing bit-field extract. -/
  | bfxNode
  /-- BFI_NODE (R137). Node firing bit-field insert into C's value. -/
  | bfiNode
  /-- LEA_NODE (R137). Node firing address computation with literal displacement. -/
  | leaNode
  /-- VADD_NODE (R164). Node firing element-wise add. -/
  | vaddNode
  /-- VSUB_NODE (R164). Node firing element-wise subtract. -/
  | vsubNode
  /-- VMUL_NODE (R164). Node firing element-wise multiply. -/
  | vmulNode
  /-- VFMA_NODE (R164). Node firing element-wise fused multiply-add. -/
  | vfmaNode
  /-- VMIN_NODE (R164). Node firing element-wise minimum. -/
  | vminNode
  /-- VMAX_NODE (R164). Node firing element-wise maximum. -/
  | vmaxNode
  /-- VABS_NODE (R164). Node firing absolute value. -/
  | vabsNode
  /-- VNEG_NODE (R164). Node firing negation. -/
  | vnegNode
  /-- VCMP_NODE (R164). Node firing compare. -/
  | vcmpNode
  /-- VSEL_NODE (R164). Node firing select by C. -/
  | vselNode
  /-- VAND_NODE (R164). Node firing bitwise and. -/
  | vandNode
  /-- VOR_NODE (R164). Node firing bitwise or. -/
  | vorNode
  /-- VXOR_NODE (R164). Node firing bitwise exclusive or. -/
  | vxorNode
  /-- VSHL_NODE (R164). Node firing left shift. -/
  | vshlNode
  /-- VSHR_NODE (R164). Node firing right shift. -/
  | vshrNode
  /-- VCVT_NODE (R171). Node firing conversion emitting one word per source element. -/
  | vcvtNode
  /-- VQNT_NODE (R164). Node firing scale-and-quantise. -/
  | vqntNode
  /-- VPACK_NODE (R173). Node firing packing a run by F0 groups. -/
  | vpackNode
  /-- VUNPACK_NODE (R173). Node firing unpacking words into element tokens. -/
  | vunpackNode
  /-- VCLAMP_NODE (R164). Node firing clamp. -/
  | vclampNode
  /-- VMOV_NODE (R164). Node firing copy. -/
  | vmovNode
  /-- VIOTA_NODE (R174). Node firing emitting element indices. -/
  | viotaNode
  /-- VSHUF_NODE (R174). Node firing permutation of L's run. -/
  | vshufNode
  /-- VREDSUM_NODE (R175). Node firing sum reduction of a run. -/
  | vredsumNode
  /-- VREDMAX_NODE (R175). Node firing maximum reduction of a run. -/
  | vredmaxNode
  /-- VREDMIN_NODE (R175). Node firing minimum reduction of a run. -/
  | vredminNode
  /-- VSCAN_NODE (R176). Node firing prefix sum along a run. -/
  | vscanNode
  /-- VDOT_NODE (R175). Node firing dot product of a run. -/
  | vdotNode
  /-- VEXP_NODE (R177). Node firing exponential on the special-function unit. -/
  | vexpNode
  /-- VLOG2_NODE (R177). Node firing base-2 logarithm. -/
  | vlog2Node
  /-- VRCP_NODE (R177). Node firing reciprocal. -/
  | vrcpNode
  /-- VRSQRT_NODE (R177). Node firing reciprocal square root. -/
  | vrsqrtNode
  /-- VSQRT_NODE (R177). Node firing square root. -/
  | vsqrtNode
  /-- VSIG_NODE (R177). Node firing sigmoid. -/
  | vsigNode
  /-- VTANH_NODE (R177). Node firing hyperbolic tangent. -/
  | vtanhNode
  /-- VSIN_NODE (R177). Node firing sine. -/
  | vsinNode
  /-- VCOS_NODE (R177). Node firing cosine. -/
  | vcosNode
  /-- MSHAPE_NODE (R196). Node firing writing a shape entry. -/
  | mshapeNode
  /-- MMA_NODE (R196). Node firing queueing MMA on the node-source queue. -/
  | mmaNode
  /-- MMAZ_NODE (R196). Node firing queueing MMAZ. -/
  | mmazNode
  /-- MMAS_NODE (R196). Node firing queueing MMAS. -/
  | mmasNode
  /-- MMAX_NODE (R196). Node firing queueing MMAX. -/
  | mmaxNode
  /-- MZERO_NODE (R196). Node firing queueing MZERO. -/
  | mzeroNode
  /-- MOUT_NODE (R196). Node firing queueing MOUT. -/
  | moutNode
  /-- MTRN_NODE (R196). Node firing queueing MTRN. -/
  | mtrnNode
  /-- MFETCH_NODE (R196). Node firing queueing MFETCH. -/
  | mfetchNode
  /-- STEER (R222). Route L to the true or false side by the control word. -/
  | steer
  /-- MERGE (R222). Emit L or R by control or null-ness. -/
  | merge
  /-- WAVE (R224). Advance a loop iteration inside the window, or park the word. -/
  | wave
  /-- LOOPENT (R223). Open a loop instance on L, or retire an iteration on R. -/
  | loopent
  /-- LOOPEXIT (R225). Emit the loop result and close the instance. -/
  | loopexit
  /-- CALLT (R226). Draw a context, place linkage and emit arguments into the callee. -/
  | callt
  /-- RETT (R227). Return L under the linkage's tag and free the context. -/
  | rett
  /-- FREECTX (R227). Free L's context without emitting. -/
  | freectx
  /-- REPEAT (R228). Emit a value for F0 from 0 to n - 1, then an E token. -/
  | repeatTok
  /-- GATE (R222). Pass L only where the control word is nonzero. -/
  | gate
  /-- JOIN (R229). Emit L once ordering ports match, or count arrivals to n. -/
  | joinTok
  /-- CONST (R229). Emit the literal under L's tag. -/
  | constTok
  /-- DUP (R229). Copy L to up to four destinations. -/
  | dup
  /-- TAGGET (R230). Emit a tag field or the context id as payload. -/
  | tagget
  /-- TAGSET (R230). Set a tag field or the context from R's word. -/
  | tagset
  /-- SEND (R231). Send L as a REQ packet to a node on another tile of the task. -/
  | sendTok
  /-- RECV (R232). Pass on words arriving on L, including mailbox records. -/
  | recv
  /-- EOS (R233). Emit an E token with L's count. -/
  | eos
  /-- RUNPACK (R233). Gather words into runs of n and emit complete groups. -/
  | runpack
  /-- RUNSPLIT (R233). Divide runs at multiples of n. -/
  | runsplit
  /-- LDW (R267). Node wave-ordered load. -/
  | ldw
  /-- STW (R267). Node wave-ordered store. -/
  | stw
  /-- LDX (R267). Node unordered load. -/
  | ldx
  /-- STX (R267). Node unordered store. -/
  | stx
  /-- ISREAD_NODE (R267). Node structure read. -/
  | isreadNode
  /-- ISWRITE_NODE (R267). Node structure write. -/
  | iswriteNode
  /-- ISCLR_NODE (R267). Node structure clear. -/
  | isclrNode
  /-- COPY_NODE (R301). Node firing queueing a copy. -/
  | copyNode
  /-- GATHER_NODE (R301). Node firing queueing a gather. -/
  | gatherNode
  /-- SCATTER_NODE (R301). Node firing queueing a scatter. -/
  | scatterNode
  /-- AADD_NODE (R341). Node atomic fetch-and-add. -/
  | aaddNode
  /-- AFADD_NODE (R341). Node atomic floating add. -/
  | afaddNode
  /-- AMIN_NODE (R341). Node atomic minimum. -/
  | aminNode
  /-- AMAX_NODE (R341). Node atomic maximum. -/
  | amaxNode
  /-- AAND_NODE (R341). Node atomic and. -/
  | aandNode
  /-- AOR_NODE (R341). Node atomic or. -/
  | aorNode
  /-- AXOR_NODE (R341). Node atomic exclusive or. -/
  | axorNode
  /-- ASWAP_NODE (R341). Node atomic swap. -/
  | aswapNode
  /-- ACAS_NODE (R341). Node atomic compare-and-swap. -/
  | acasNode
  /-- AREDN_NODE (R341). Node atomic reduction. -/
  | arednNode
  /-- ACOMB (R354). Fold a contribution into a count entry and emit once n have arrived. -/
  | acomb
  /-- FENCE_NODE (R332). Node fence passing L after completion. -/
  | fenceNode
  /-- WIDEN_NODE (R332). Node boundary release passing L. -/
  | widenNode
  /-- BAR_NODE (R332). Node barrier arrival, phased by a tag field with PH. -/
  | barNode
  /-- TDEC_NODE (R390). Node firing sending a decrement. -/
  | tdecNode
  /-- TDEC_SELF_NODE (R390). Node firing signalling its tile done after release. -/
  | tdecSelfNode
  /-- COMMIT (R415). Retire accepted tokens in offset order as appends to the pricking slot. -/
  | commit
  /-- TRACE_NODE (R475). Node firing writing a TRACE record and passing L. -/
  | traceNode
  /-- MARK_NODE (R475). Node firing writing a MARK record and passing L. -/
  | markNode
  deriving DecidableEq, Repr, Inhabited

end Sys2Proof
end

