-- ==== Sys2Proof/Decode.lean ====
section
/-! DEFINITION. The decoder and the encoder: bundles (02_formats.md R44-R57, R70), node records
(R62-R67, R72) and the opcode map (R69). Decoding is total; every rejection has a name. The rules on
fields that need the machine (a memory tile, a descriptor register, a tag layout) are checked where the
bundle issues or the record is written. -/

namespace Sys2Proof

/-- The opcode of an instruction and the shape that carries it; `none` for a machine event. -/
inductive Enc where
  | ar (opc : BitVec 10) (o : AR)
  | are (opc : BitVec 10) (o : ARE)
  | ai (opc : BitVec 10) (o : AI)
  | ax (opc : BitVec 10) (o : AX)
  | bo (opc : BitVec 10) (o : BO)
  | node (opc : BitVec 10)
  | none
  deriving DecidableEq, Repr, Inhabited

/-- The opcode map of R69 read from the instruction: its opcode and its shape. -/
def Instr.enc : Instr → Enc
  | .add o => .ar 0x040 o
  | .addNode => .node 0x040
  | .sub o => .ar 0x041 o
  | .subNode => .node 0x041
  | .addi o => .ai 0x042 o
  | .addiNode => .node 0x042
  | .mul o => .ar 0x043 o
  | .mulNode => .node 0x043
  | .div o => .ar 0x044 o
  | .divNode => .node 0x044
  | .rem o => .ar 0x045 o
  | .remNode => .node 0x045
  | .andA o => .ar 0x046 o
  | .andNode => .node 0x046
  | .orA o => .ar 0x047 o
  | .orNode => .node 0x047
  | .xorA o => .ar 0x048 o
  | .xorNode => .node 0x048
  | .andn o => .ar 0x049 o
  | .andnNode => .node 0x049
  | .shl o => .ar 0x04A o
  | .shlNode => .node 0x04A
  | .shr o => .ar 0x04B o
  | .shrNode => .node 0x04B
  | .rotl o => .ar 0x04C o
  | .rotlNode => .node 0x04C
  | .clz o => .ar 0x04D o
  | .clzNode => .node 0x04D
  | .popc o => .ar 0x04E o
  | .popcNode => .node 0x04E
  | .min o => .ar 0x04F o
  | .minNode => .node 0x04F
  | .max o => .ar 0x050 o
  | .maxNode => .node 0x050
  | .setCond o => .ar 0x051 o
  | .setNode => .node 0x051
  | .sel o => .ar 0x052 o
  | .selNode => .node 0x052
  | .movi o => .ai 0x053 o
  | .moviNode => .node 0x053
  | .bfx o => .ar 0x054 o
  | .bfxNode => .node 0x054
  | .bfi o => .ar 0x055 o
  | .bfiNode => .node 0x055
  | .lea o => .are 0x056 o
  | .leaNode => .node 0x056
  | .br o => .ai 0x080 o
  | .brp o => .ai 0x081 o
  | .bri o => .ar 0x082 o
  | .call o => .ai 0x083 o
  | .ret o => .ar 0x084 o
  | .pset o => .ar 0x085 o
  | .plogic o => .ar 0x086 o
  | .tstart o => .ai 0x087 o
  | .tstop o => .ar 0x088 o
  | .tid o => .ar 0x089 o
  | .nop o => .ar 0x08A o
  | .waitf o => .are 0x08B o
  | .fadd o => .ar 0x0C0 o
  | .fsub o => .ar 0x0C1 o
  | .fmul o => .ar 0x0C2 o
  | .ffma o => .ar 0x0C3 o
  | .fdiv o => .ar 0x0C4 o
  | .fsqrt o => .ar 0x0C5 o
  | .fmin o => .ar 0x0C6 o
  | .fmax o => .ar 0x0C7 o
  | .fcmp o => .ar 0x0C8 o
  | .fcvt o => .ar 0x0C9 o
  | .fclass o => .ar 0x0CA o
  | .vadd o => .bo 0x100 o
  | .vaddNode => .node 0x100
  | .vsub o => .bo 0x101 o
  | .vsubNode => .node 0x101
  | .vmul o => .bo 0x102 o
  | .vmulNode => .node 0x102
  | .vfma o => .bo 0x103 o
  | .vfmaNode => .node 0x103
  | .vmin o => .bo 0x104 o
  | .vminNode => .node 0x104
  | .vmax o => .bo 0x105 o
  | .vmaxNode => .node 0x105
  | .vabs o => .bo 0x106 o
  | .vabsNode => .node 0x106
  | .vneg o => .bo 0x107 o
  | .vnegNode => .node 0x107
  | .vcmp o => .bo 0x108 o
  | .vcmpNode => .node 0x108
  | .vsel o => .bo 0x109 o
  | .vselNode => .node 0x109
  | .vand o => .bo 0x10A o
  | .vandNode => .node 0x10A
  | .vor o => .bo 0x10B o
  | .vorNode => .node 0x10B
  | .vxor o => .bo 0x10C o
  | .vxorNode => .node 0x10C
  | .vshl o => .bo 0x10D o
  | .vshlNode => .node 0x10D
  | .vshr o => .bo 0x10E o
  | .vshrNode => .node 0x10E
  | .vcvt o => .bo 0x10F o
  | .vcvtNode => .node 0x10F
  | .vqnt o => .bo 0x110 o
  | .vqntNode => .node 0x110
  | .vpack o => .bo 0x111 o
  | .vpackNode => .node 0x111
  | .vunpack o => .bo 0x112 o
  | .vunpackNode => .node 0x112
  | .vclamp o => .bo 0x113 o
  | .vclampNode => .node 0x113
  | .vmov o => .bo 0x114 o
  | .vmovNode => .node 0x114
  | .viota o => .bo 0x115 o
  | .viotaNode => .node 0x115
  | .vshuf o => .bo 0x116 o
  | .vshufNode => .node 0x116
  | .vredsum o => .bo 0x117 o
  | .vredsumNode => .node 0x117
  | .vredmax o => .bo 0x118 o
  | .vredmaxNode => .node 0x118
  | .vredmin o => .bo 0x119 o
  | .vredminNode => .node 0x119
  | .vscan o => .bo 0x11A o
  | .vscanNode => .node 0x11A
  | .vdot o => .bo 0x11B o
  | .vdotNode => .node 0x11B
  | .vexp o => .bo 0x140 o
  | .vexpNode => .node 0x140
  | .vlog2 o => .bo 0x141 o
  | .vlog2Node => .node 0x141
  | .vrcp o => .bo 0x142 o
  | .vrcpNode => .node 0x142
  | .vrsqrt o => .bo 0x143 o
  | .vrsqrtNode => .node 0x143
  | .vsqrt o => .bo 0x144 o
  | .vsqrtNode => .node 0x144
  | .vsig o => .bo 0x145 o
  | .vsigNode => .node 0x145
  | .vtanh o => .bo 0x146 o
  | .vtanhNode => .node 0x146
  | .vsin o => .bo 0x147 o
  | .vsinNode => .node 0x147
  | .vcos o => .bo 0x148 o
  | .vcosNode => .node 0x148
  | .mshape o => .ar 0x180 o
  | .mshapeNode => .node 0x180
  | .mma o => .ar 0x181 o
  | .mmaNode => .node 0x181
  | .mmaz o => .ar 0x182 o
  | .mmazNode => .node 0x182
  | .mmas o => .ar 0x183 o
  | .mmasNode => .node 0x183
  | .mmax o => .ar 0x184 o
  | .mmaxNode => .node 0x184
  | .mzero o => .ar 0x185 o
  | .mzeroNode => .node 0x185
  | .mout o => .ar 0x186 o
  | .moutNode => .node 0x186
  | .mtrn o => .ar 0x187 o
  | .mtrnNode => .node 0x187
  | .mfetch o => .ar 0x188 o
  | .mfetchNode => .node 0x188
  | .steer => .node 0x1C0
  | .merge => .node 0x1C1
  | .wave => .node 0x1C2
  | .loopent => .node 0x1C3
  | .loopexit => .node 0x1C4
  | .callt => .node 0x1C5
  | .rett => .node 0x1C6
  | .freectx => .node 0x1C7
  | .repeatTok => .node 0x1C8
  | .gate => .node 0x1C9
  | .joinTok => .node 0x1CA
  | .constTok => .node 0x1CB
  | .dup => .node 0x1CC
  | .tagget => .node 0x1CD
  | .tagset => .node 0x1CE
  | .sendTok => .node 0x1CF
  | .recv => .node 0x1D0
  | .eos => .node 0x1D1
  | .runpack => .node 0x1D2
  | .runsplit => .node 0x1D3
  | .ld o => .ai 0x200 o
  | .st o => .ai 0x201 o
  | .ldp o => .ai 0x202 o
  | .stp o => .ai 0x203 o
  | .ldw => .node 0x204
  | .stw => .node 0x205
  | .ldx => .node 0x206
  | .stx => .node 0x207
  | .isread o => .ar 0x208 o
  | .isreadNode => .node 0x208
  | .iswrite o => .ar 0x209 o
  | .iswriteNode => .node 0x209
  | .isclr o => .ar 0x20A o
  | .isclrNode => .node 0x20A
  | .pref o => .ai 0x20B o
  | .cflush o => .ai 0x20C o
  | .cinv o => .ai 0x20D o
  | .copy o => .ar 0x240 o
  | .copyNode => .node 0x240
  | .copy2d o => .ar 0x241 o
  | .gather o => .ar 0x242 o
  | .gatherNode => .node 0x242
  | .scatter o => .ar 0x243 o
  | .scatterNode => .node 0x243
  | .mcast o => .ar 0x244 o
  | .chopen o => .ar 0x245 o
  | .chclose o => .ar 0x246 o
  | .tlread o => .ar 0x247 o
  | .tlwait o => .ar 0x248 o
  | .uiarm o => .ar 0x249 o
  | .uiret o => .ar 0x24A o
  | .aadd o => .ax 0x280 o
  | .aaddNode => .node 0x280
  | .afadd o => .ax 0x281 o
  | .afaddNode => .node 0x281
  | .amin o => .ax 0x282 o
  | .aminNode => .node 0x282
  | .amax o => .ax 0x283 o
  | .amaxNode => .node 0x283
  | .aand o => .ax 0x284 o
  | .aandNode => .node 0x284
  | .aor o => .ax 0x285 o
  | .aorNode => .node 0x285
  | .axor o => .ax 0x286 o
  | .axorNode => .node 0x286
  | .aswap o => .ax 0x287 o
  | .aswapNode => .node 0x287
  | .acas o => .ax 0x288 o
  | .acasNode => .node 0x288
  | .acomb => .node 0x289
  | .aredn o => .ax 0x28A o
  | .arednNode => .node 0x28A
  | .fence o => .ax 0x2C0 o
  | .fenceNode => .node 0x2C0
  | .scopew o => .ax 0x2C1 o
  | .scoper o => .ax 0x2C2 o
  | .scopekill o => .ax 0x2C3 o
  | .widen o => .ax 0x2C4 o
  | .widenNode => .node 0x2C4
  | .bar o => .ax 0x2C5 o
  | .barNode => .node 0x2C5
  | .barwait o => .ax 0x2C6 o
  | .tspawn o => .ar 0x300 o
  | .tdec o => .ar 0x301 o
  | .tdecNode => .node 0x301
  | .tsucc o => .ar 0x302 o
  | .ginst o => .ar 0x303 o
  | .gfree o => .ar 0x304 o
  | .tdone o => .ar 0x305 o
  | .tquery o => .ar 0x306 o
  | .ttwrite o => .ar 0x307 o
  | .targ o => .ar 0x308 o
  | .sxsel o => .ar 0x340 o
  | .sxapp o => .ar 0x341 o
  | .sxprop o => .ar 0x342 o
  | .sxlen o => .ar 0x343 o
  | .sxsave o => .ar 0x344 o
  | .sxload o => .ar 0x345 o
  | .sxwin o => .ar 0x346 o
  | .sxclr o => .ar 0x347 o
  | .btprop o => .ar 0x348 o
  | .btcommit o => .ar 0x349 o
  | .btread o => .ar 0x34A o
  | .topk o => .bo 0x34B o
  | .tkmerge o => .ar 0x34C o
  | .rngdraw o => .ar 0x34D o
  | .commit => .node 0x34E
  | .vocchk o => .ar 0x34F o
  | .trap o => .ai 0x380 o
  | .eret o => .ar 0x381 o
  | .mrd o => .ai 0x382 o
  | .mwr o => .ai 0x383 o
  | .halt o => .ar 0x384 o
  | .tlbinv o => .ar 0x385 o
  | .ctxsave o => .ar 0x386 o
  | .ctxload o => .ar 0x387 o
  | .pwrhint o => .ai 0x388 o
  | .swint o => .ar 0x389 o
  | .replay o => .ar 0x38A o
  | .bkpt o => .ai 0x3C0 o
  | .watch o => .ar 0x3C1 o
  | .trace o => .ar 0x3C2 o
  | .traceNode => .node 0x3C2
  | .mark o => .ai 0x3C3 o
  | .markNode => .node 0x3C3
  | .histrd o => .ar 0x3C4 o
  | .histclr o => .ar 0x3C5 o
  | .tdecSelfNode => .node 0x301
  | .waitfSatisfied => .none
  | .waitfTimeout => .none
  | .deferredTrapEntry => .none
  | .userInterruptTake => .none
  | .preemptInterruptTake => .none
  | .vectorEngineTake _ => .none
  | .vectorCommandComplete _ => .none
  | .matrixEngineTake _ => .none
  | .matrixOperationComplete _ _ => .none
  | .tokenArrival _ _ => .none
  | .deepLookupComplete _ _ => .none
  | .matchingWayRefill _ _ => .none
  | .firingWeightUpdate _ => .none
  | .packerFlush _ _ => .none
  | .requestAdmit _ => .none
  | .translationWalkComplete _ => .none
  | .regionAccessApply _ => .none
  | .structureOperationApply _ => .none
  | .cacheBankFill _ => .none
  | .memoryReplyArrival _ => .none
  | .requestRetry _ => .none
  | .copyEngineTake _ => .none
  | .gatherEngineTake _ => .none
  | .engineCommandComplete _ _ => .none
  | .atomicApply _ => .none
  | .combiningJoin _ _ => .none
  | .combinedReplySplit _ => .none
  | .combinedFaultCopy _ => .none
  | .reproContributionArrival _ => .none
  | .reproGroupAbandon _ => .none
  | .barrierArrivalApply _ => .none
  | .scopeMarkArrival _ => .none
  | .scopeMarkAcknowledge _ _ => .none
  | .scopeInstallArrival _ => .none
  | .scopeMissReply _ => .none
  | .missRingReissue _ _ => .none
  | .decrementArrival _ => .none
  | .pendingPass _ => .none
  | .prefetchOperandLand _ _ _ => .none
  | .selectionPass _ => .none
  | .energyWindowStart _ => .none
  | .taskCompletion _ _ => .none
  | .sxpropEvaluate _ _ => .none
  | .sxloadRebuildComplete _ _ => .none
  | .btProposalArrival _ => .none
  | .btAbortArrival _ => .none
  | .btCommitArrival _ => .none
  | .btReplicaTimeout _ => .none
  | .generatorDrawServe _ => .none
  | .missringWrite _ => .none
  | .ntrapctlWrite _ => .none
  | .repairWrite _ _ => .none
  | .timelineCounterWrite _ _ => .none
  | .errorRegisterClear _ _ => .none
  | .ebudgetWrite _ => .none
  | .machineRegisterWrite _ _ => .none
  | .classGSave _ _ => .none
  | .classSSave _ _ => .none
  | .saveHeldRequestTimeout _ _ => .none
  | .preemptAckTimeout _ _ => .none
  | .contextRestore _ _ => .none
  | .faultRecordPlace _ => .none
  | .eccUncorrectable _ => .none
  | .dbgFreezeCommand _ => .none
  | .dbgResumeCommand _ => .none
  | .sbdataAccess _ _ _ _ => .none
  | .sbstatWrite _ _ => .none
  | .traceRingConfigWrite _ _ _ => .none
  | .traceRecordPlace _ => .none
  | .mailboxScan _ _ => .none
  | .channelRingScan _ _ _ => .none
  | .streamBeatArrival _ => .none
  | .streamCreditReturn _ => .none
  | .fifoForward _ _ => .none
  | .packetReceive _ => .none
  | .requestWatchdogExpiry _ => .none
  | .linkWithdraw _ => .none
  | .streamCircuitReroute _ => .none
  | .ualinkPortTraining _ _ _ _ => .none
  | .ualinkChunkReceive _ _ _ _ _ => .none
  | .pcieDmaAccess _ _ _ _ => .none
  | .roleSwapFillComplete _ => .none
  | .journalEntryAccept _ => .none
  | .tload _ _ => .none
  | .instCmd _ _ => .none
  | .cancelCmd _ _ => .none
  | .decCmd _ _ => .none
  | .journalReplay _ _ => .none
  | .preemptCmd _ _ => .none
  | .restoreCmd _ _ => .none
  | .asidCmd _ _ => .none
  | .journalTlbinv _ _ => .none
  | .plistCmd _ _ => .none
  | .partitionCmd _ _ => .none
  | .areaCmd _ _ => .none
  | .btset _ _ => .none
  | .keyload _ _ => .none
  | .sxfree _ _ => .none
  | .dmawin _ _ => .none
  | .fwupdate _ _ => .none
  | .ownerkey _ _ => .none
  | .moduleReset _ => .none
  | .firmwareBoot _ _ => .none
  | .thermalTrip _ => .none
  | .currentGovernorThrottle _ _ => .none
  | .powerDown _ => .none
  | .scopeUpdateAckArrival _ => .none
  | .batchingAcknowledgement _ => .none
  | .transactionLayerResponse _ _ => .none

/-- A slot-A opcode of the map: its format and the instruction it makes. -/
inductive SlotAForm where
  | ar (mk : AR → Instr)
  | are (mk : ARE → Instr)
  | ai (mk : AI → Instr)
  | ax (mk : AX → Instr)

/-- The carrier-A column of R69. -/
def slotAForm (opc : BitVec 10) : Option SlotAForm :=
  match opc with
  | 0x040#10 => some (.ar .add)
  | 0x041#10 => some (.ar .sub)
  | 0x042#10 => some (.ai .addi)
  | 0x043#10 => some (.ar .mul)
  | 0x044#10 => some (.ar .div)
  | 0x045#10 => some (.ar .rem)
  | 0x046#10 => some (.ar .andA)
  | 0x047#10 => some (.ar .orA)
  | 0x048#10 => some (.ar .xorA)
  | 0x049#10 => some (.ar .andn)
  | 0x04A#10 => some (.ar .shl)
  | 0x04B#10 => some (.ar .shr)
  | 0x04C#10 => some (.ar .rotl)
  | 0x04D#10 => some (.ar .clz)
  | 0x04E#10 => some (.ar .popc)
  | 0x04F#10 => some (.ar .min)
  | 0x050#10 => some (.ar .max)
  | 0x051#10 => some (.ar .setCond)
  | 0x052#10 => some (.ar .sel)
  | 0x053#10 => some (.ai .movi)
  | 0x054#10 => some (.ar .bfx)
  | 0x055#10 => some (.ar .bfi)
  | 0x056#10 => some (.are .lea)
  | 0x080#10 => some (.ai .br)
  | 0x081#10 => some (.ai .brp)
  | 0x082#10 => some (.ar .bri)
  | 0x083#10 => some (.ai .call)
  | 0x084#10 => some (.ar .ret)
  | 0x085#10 => some (.ar .pset)
  | 0x086#10 => some (.ar .plogic)
  | 0x087#10 => some (.ai .tstart)
  | 0x088#10 => some (.ar .tstop)
  | 0x089#10 => some (.ar .tid)
  | 0x08A#10 => some (.ar .nop)
  | 0x08B#10 => some (.are .waitf)
  | 0x0C0#10 => some (.ar .fadd)
  | 0x0C1#10 => some (.ar .fsub)
  | 0x0C2#10 => some (.ar .fmul)
  | 0x0C3#10 => some (.ar .ffma)
  | 0x0C4#10 => some (.ar .fdiv)
  | 0x0C5#10 => some (.ar .fsqrt)
  | 0x0C6#10 => some (.ar .fmin)
  | 0x0C7#10 => some (.ar .fmax)
  | 0x0C8#10 => some (.ar .fcmp)
  | 0x0C9#10 => some (.ar .fcvt)
  | 0x0CA#10 => some (.ar .fclass)
  | 0x180#10 => some (.ar .mshape)
  | 0x181#10 => some (.ar .mma)
  | 0x182#10 => some (.ar .mmaz)
  | 0x183#10 => some (.ar .mmas)
  | 0x184#10 => some (.ar .mmax)
  | 0x185#10 => some (.ar .mzero)
  | 0x186#10 => some (.ar .mout)
  | 0x187#10 => some (.ar .mtrn)
  | 0x188#10 => some (.ar .mfetch)
  | 0x200#10 => some (.ai .ld)
  | 0x201#10 => some (.ai .st)
  | 0x202#10 => some (.ai .ldp)
  | 0x203#10 => some (.ai .stp)
  | 0x208#10 => some (.ar .isread)
  | 0x209#10 => some (.ar .iswrite)
  | 0x20A#10 => some (.ar .isclr)
  | 0x20B#10 => some (.ai .pref)
  | 0x20C#10 => some (.ai .cflush)
  | 0x20D#10 => some (.ai .cinv)
  | 0x240#10 => some (.ar .copy)
  | 0x241#10 => some (.ar .copy2d)
  | 0x242#10 => some (.ar .gather)
  | 0x243#10 => some (.ar .scatter)
  | 0x244#10 => some (.ar .mcast)
  | 0x245#10 => some (.ar .chopen)
  | 0x246#10 => some (.ar .chclose)
  | 0x247#10 => some (.ar .tlread)
  | 0x248#10 => some (.ar .tlwait)
  | 0x249#10 => some (.ar .uiarm)
  | 0x24A#10 => some (.ar .uiret)
  | 0x280#10 => some (.ax .aadd)
  | 0x281#10 => some (.ax .afadd)
  | 0x282#10 => some (.ax .amin)
  | 0x283#10 => some (.ax .amax)
  | 0x284#10 => some (.ax .aand)
  | 0x285#10 => some (.ax .aor)
  | 0x286#10 => some (.ax .axor)
  | 0x287#10 => some (.ax .aswap)
  | 0x288#10 => some (.ax .acas)
  | 0x28A#10 => some (.ax .aredn)
  | 0x2C0#10 => some (.ax .fence)
  | 0x2C1#10 => some (.ax .scopew)
  | 0x2C2#10 => some (.ax .scoper)
  | 0x2C3#10 => some (.ax .scopekill)
  | 0x2C4#10 => some (.ax .widen)
  | 0x2C5#10 => some (.ax .bar)
  | 0x2C6#10 => some (.ax .barwait)
  | 0x300#10 => some (.ar .tspawn)
  | 0x301#10 => some (.ar .tdec)
  | 0x302#10 => some (.ar .tsucc)
  | 0x303#10 => some (.ar .ginst)
  | 0x304#10 => some (.ar .gfree)
  | 0x305#10 => some (.ar .tdone)
  | 0x306#10 => some (.ar .tquery)
  | 0x307#10 => some (.ar .ttwrite)
  | 0x308#10 => some (.ar .targ)
  | 0x340#10 => some (.ar .sxsel)
  | 0x341#10 => some (.ar .sxapp)
  | 0x342#10 => some (.ar .sxprop)
  | 0x343#10 => some (.ar .sxlen)
  | 0x344#10 => some (.ar .sxsave)
  | 0x345#10 => some (.ar .sxload)
  | 0x346#10 => some (.ar .sxwin)
  | 0x347#10 => some (.ar .sxclr)
  | 0x348#10 => some (.ar .btprop)
  | 0x349#10 => some (.ar .btcommit)
  | 0x34A#10 => some (.ar .btread)
  | 0x34C#10 => some (.ar .tkmerge)
  | 0x34D#10 => some (.ar .rngdraw)
  | 0x34F#10 => some (.ar .vocchk)
  | 0x380#10 => some (.ai .trap)
  | 0x381#10 => some (.ar .eret)
  | 0x382#10 => some (.ai .mrd)
  | 0x383#10 => some (.ai .mwr)
  | 0x384#10 => some (.ar .halt)
  | 0x385#10 => some (.ar .tlbinv)
  | 0x386#10 => some (.ar .ctxsave)
  | 0x387#10 => some (.ar .ctxload)
  | 0x388#10 => some (.ai .pwrhint)
  | 0x389#10 => some (.ar .swint)
  | 0x38A#10 => some (.ar .replay)
  | 0x3C0#10 => some (.ai .bkpt)
  | 0x3C1#10 => some (.ar .watch)
  | 0x3C2#10 => some (.ar .trace)
  | 0x3C3#10 => some (.ai .mark)
  | 0x3C4#10 => some (.ar .histrd)
  | 0x3C5#10 => some (.ar .histclr)
  | _ => none

/-- The carrier-B column of R69. -/
def slotBForm (opc : BitVec 10) : Option (BO → Instr) :=
  match opc with
  | 0x100#10 => some .vadd
  | 0x101#10 => some .vsub
  | 0x102#10 => some .vmul
  | 0x103#10 => some .vfma
  | 0x104#10 => some .vmin
  | 0x105#10 => some .vmax
  | 0x106#10 => some .vabs
  | 0x107#10 => some .vneg
  | 0x108#10 => some .vcmp
  | 0x109#10 => some .vsel
  | 0x10A#10 => some .vand
  | 0x10B#10 => some .vor
  | 0x10C#10 => some .vxor
  | 0x10D#10 => some .vshl
  | 0x10E#10 => some .vshr
  | 0x10F#10 => some .vcvt
  | 0x110#10 => some .vqnt
  | 0x111#10 => some .vpack
  | 0x112#10 => some .vunpack
  | 0x113#10 => some .vclamp
  | 0x114#10 => some .vmov
  | 0x115#10 => some .viota
  | 0x116#10 => some .vshuf
  | 0x117#10 => some .vredsum
  | 0x118#10 => some .vredmax
  | 0x119#10 => some .vredmin
  | 0x11A#10 => some .vscan
  | 0x11B#10 => some .vdot
  | 0x140#10 => some .vexp
  | 0x141#10 => some .vlog2
  | 0x142#10 => some .vrcp
  | 0x143#10 => some .vrsqrt
  | 0x144#10 => some .vsqrt
  | 0x145#10 => some .vsig
  | 0x146#10 => some .vtanh
  | 0x147#10 => some .vsin
  | 0x148#10 => some .vcos
  | 0x34B#10 => some .topk
  | _ => none

/-- The carrier-N column of R69; TDEC is `tdec.self` where RND[36] is 1 (R390). -/
def nodeForm (opc : BitVec 10) (rnd : BitVec 3) : Option Instr :=
  match opc with
  | 0x040#10 => some .addNode
  | 0x041#10 => some .subNode
  | 0x042#10 => some .addiNode
  | 0x043#10 => some .mulNode
  | 0x044#10 => some .divNode
  | 0x045#10 => some .remNode
  | 0x046#10 => some .andNode
  | 0x047#10 => some .orNode
  | 0x048#10 => some .xorNode
  | 0x049#10 => some .andnNode
  | 0x04A#10 => some .shlNode
  | 0x04B#10 => some .shrNode
  | 0x04C#10 => some .rotlNode
  | 0x04D#10 => some .clzNode
  | 0x04E#10 => some .popcNode
  | 0x04F#10 => some .minNode
  | 0x050#10 => some .maxNode
  | 0x051#10 => some .setNode
  | 0x052#10 => some .selNode
  | 0x053#10 => some .moviNode
  | 0x054#10 => some .bfxNode
  | 0x055#10 => some .bfiNode
  | 0x056#10 => some .leaNode
  | 0x100#10 => some .vaddNode
  | 0x101#10 => some .vsubNode
  | 0x102#10 => some .vmulNode
  | 0x103#10 => some .vfmaNode
  | 0x104#10 => some .vminNode
  | 0x105#10 => some .vmaxNode
  | 0x106#10 => some .vabsNode
  | 0x107#10 => some .vnegNode
  | 0x108#10 => some .vcmpNode
  | 0x109#10 => some .vselNode
  | 0x10A#10 => some .vandNode
  | 0x10B#10 => some .vorNode
  | 0x10C#10 => some .vxorNode
  | 0x10D#10 => some .vshlNode
  | 0x10E#10 => some .vshrNode
  | 0x10F#10 => some .vcvtNode
  | 0x110#10 => some .vqntNode
  | 0x111#10 => some .vpackNode
  | 0x112#10 => some .vunpackNode
  | 0x113#10 => some .vclampNode
  | 0x114#10 => some .vmovNode
  | 0x115#10 => some .viotaNode
  | 0x116#10 => some .vshufNode
  | 0x117#10 => some .vredsumNode
  | 0x118#10 => some .vredmaxNode
  | 0x119#10 => some .vredminNode
  | 0x11A#10 => some .vscanNode
  | 0x11B#10 => some .vdotNode
  | 0x140#10 => some .vexpNode
  | 0x141#10 => some .vlog2Node
  | 0x142#10 => some .vrcpNode
  | 0x143#10 => some .vrsqrtNode
  | 0x144#10 => some .vsqrtNode
  | 0x145#10 => some .vsigNode
  | 0x146#10 => some .vtanhNode
  | 0x147#10 => some .vsinNode
  | 0x148#10 => some .vcosNode
  | 0x180#10 => some .mshapeNode
  | 0x181#10 => some .mmaNode
  | 0x182#10 => some .mmazNode
  | 0x183#10 => some .mmasNode
  | 0x184#10 => some .mmaxNode
  | 0x185#10 => some .mzeroNode
  | 0x186#10 => some .moutNode
  | 0x187#10 => some .mtrnNode
  | 0x188#10 => some .mfetchNode
  | 0x1C0#10 => some .steer
  | 0x1C1#10 => some .merge
  | 0x1C2#10 => some .wave
  | 0x1C3#10 => some .loopent
  | 0x1C4#10 => some .loopexit
  | 0x1C5#10 => some .callt
  | 0x1C6#10 => some .rett
  | 0x1C7#10 => some .freectx
  | 0x1C8#10 => some .repeatTok
  | 0x1C9#10 => some .gate
  | 0x1CA#10 => some .joinTok
  | 0x1CB#10 => some .constTok
  | 0x1CC#10 => some .dup
  | 0x1CD#10 => some .tagget
  | 0x1CE#10 => some .tagset
  | 0x1CF#10 => some .sendTok
  | 0x1D0#10 => some .recv
  | 0x1D1#10 => some .eos
  | 0x1D2#10 => some .runpack
  | 0x1D3#10 => some .runsplit
  | 0x204#10 => some .ldw
  | 0x205#10 => some .stw
  | 0x206#10 => some .ldx
  | 0x207#10 => some .stx
  | 0x208#10 => some .isreadNode
  | 0x209#10 => some .iswriteNode
  | 0x20A#10 => some .isclrNode
  | 0x240#10 => some .copyNode
  | 0x242#10 => some .gatherNode
  | 0x243#10 => some .scatterNode
  | 0x280#10 => some .aaddNode
  | 0x281#10 => some .afaddNode
  | 0x282#10 => some .aminNode
  | 0x283#10 => some .amaxNode
  | 0x284#10 => some .aandNode
  | 0x285#10 => some .aorNode
  | 0x286#10 => some .axorNode
  | 0x287#10 => some .aswapNode
  | 0x288#10 => some .acasNode
  | 0x289#10 => some .acomb
  | 0x28A#10 => some .arednNode
  | 0x2C0#10 => some .fenceNode
  | 0x2C4#10 => some .widenNode
  | 0x2C5#10 => some .barNode
  | 0x301#10 => some (if rnd.getLsbD 0 then .tdecSelfNode else .tdecNode)
  | 0x34E#10 => some .commit
  | 0x3C2#10 => some .traceNode
  | 0x3C3#10 => some .markNode
  | _ => none

/-! ## The fields an entry accepts -/

/-- An A-R slot uses the register fields marked, its other fields are zero, and f is accepted (R56). -/
def arUses (o : AR) (d a b f : Bool) : Bool :=
  (d || o.d == 0) && (a || o.a == 0) && (b || o.b == 0) && f

/-- An A-I slot uses the register fields marked; the others are zero (R56). -/
def aiUses (o : AI) (d a : Bool) : Bool := (d || o.d == 0) && (a || o.a == 0)

/-- The immediate of class 8: the code in its low three bits (R260). -/
def AI.code (o : AI) : Nat := (o.imm.extractLsb' 0 3).toNat

/-- The f field of a rounding class-3 opcode: DYN needs the mode and SAT bits zero (R148). -/
def roundFOk (f : BitVec 6) : Bool := !f.getLsbD 3 || f.extractLsb' 0 3 == 0

/-- The fields R327, R339, R55 accept on an A-X slot: used registers, the f values, ORDER from a list, the
lowest scope, and whether REPRO and NOCOMB may be 1. -/
def axUses (o : AX) (d a b f : Bool) (orders : List Nat) (low : Nat) (bits : Bool) : Bool :=
  (d || o.d == 0) && (a || o.a == 0) && (b || o.b == 0) && f && orders.contains o.order.toNat &&
    decide (low ≤ o.scope.toNat) && (bits || (!o.repro && !o.nocomb))

/-- The width bits of an atomic's f field: sz, and sg where the opcode has it (R339). -/
def AREDNfOk (f : BitVec 6) : Bool :=
  !f.getLsbD 5 && (f.extractLsb' 2 3).toNat != 7 &&
    (!f.getLsbD 1 || (f.extractLsb' 2 3).toNat == 2 || (f.extractLsb' 2 3).toNat == 3)

/-- A REPRO form whose g[b+1] holds the group count needs b even (R339). -/
def reproPairOk (o : AX) : Bool := !o.repro || !o.b.getLsbD 0

/-! ## Node records -/

def Arity.code : Arity → BitVec 2
  | .one => 1 | .two => 2 | .three => 3

def Arity.ofCode (c : BitVec 2) : Option Arity :=
  if c = 1 then some .one else if c = 2 then some .two else if c = 3 then some .three else none

def TagAct.code : TagAct → BitVec 3
  | .keep => 0 | .inc => 1 | .enter => 2 | .exit => 3 | .call => 4 | .ret => 5 | .setv => 6

def TagAct.ofCode (c : BitVec 3) : Option TagAct :=
  if c = 0 then some .keep else if c = 1 then some .inc else if c = 2 then some .enter
  else if c = 3 then some .exit else if c = 4 then some .call else if c = 5 then some .ret
  else if c = 6 then some .setv else none

def RunOp.code : RunOp → BitVec 2
  | .keep => 0 | .split => 1 | .pack => 2

def RunOp.ofCode (c : BitVec 2) : Option RunOp :=
  if c = 0 then some .keep else if c = 1 then some .split else if c = 2 then some .pack else none

/-- The code of an element type (R68). -/
def ElemType.code : ElemType → BitVec 4
  | .i32 => 0 | .u32 => 1 | .fp32 => 2 | .bf16 => 3 | .fp16 => 4 | .e4m3 => 5 | .e5m2 => 6 | .e3m2 => 7
  | .e2m3 => 8 | .e2m1 => 9 | .i8 => 10 | .u8 => 11 | .i4 => 12 | .i16 => 13

/-- The element type of a code; 14 and 15 have none here (R68). -/
def ElemType.ofCode (c : BitVec 4) : Option ElemType :=
  if c = 0 then some .i32 else if c = 1 then some .u32 else if c = 2 then some .fp32
  else if c = 3 then some .bf16 else if c = 4 then some .fp16 else if c = 5 then some .e4m3
  else if c = 6 then some .e5m2 else if c = 7 then some .e3m2 else if c = 8 then some .e2m3
  else if c = 9 then some .e2m1 else if c = 10 then some .i8 else if c = 11 then some .u8
  else if c = 12 then some .i4 else if c = 13 then some .i16 else none

/-- Bits of an element (R38, R101). -/
def ElemType.width : ElemType → Nat
  | .i32 | .u32 | .fp32 => 32
  | .bf16 | .fp16 | .i16 => 16
  | .e4m3 | .e5m2 | .i8 | .u8 => 8
  | .e3m2 | .e2m3 => 6
  | .e2m1 | .i4 => 4

/-- Elements per 32-bit word (R38). -/
def ElemType.epw (t : ElemType) : Nat := 32 / t.width

def ElemType.isFloat : ElemType → Bool
  | .fp32 | .bf16 | .fp16 | .e4m3 | .e5m2 | .e3m2 | .e2m3 | .e2m1 => true
  | _ => false

def ElemType.isUnsigned : ElemType → Bool
  | .u32 | .u8 => true
  | _ => false

/-- No destination (R62, R64). -/
def destNone : BitVec 16 := 0xFFFF

/-- A destination value: none, or a port other than 3 (R64, R72). -/
def destOk (d : BitVec 16) : Bool := d == destNone || d.extractLsb' 0 2 != 3

/-- The checks of R72 that hold of every opcode: LIT with ARITY 01, destinations, TAGOP. -/
def NRec.commonOk (n : NRec) : Bool :=
  (!n.lit || n.arity != .one) && destOk n.dsta && destOk n.dstb &&
    (n.dsta != destNone || n.dstb == destNone) &&
    decide (n.k.toNat ≤ 5) &&
    (match n.act with
      | .keep | .call | .ret => n.k == 0
      | _ => true) &&
    (n.act != .exit || n.run == .keep)

/-- The literal of a MATTR opcode (R67). -/
def NRec.litWown (n : NRec) : Nat := (n.lit32.extractLsb' 24 8).toNat
def NRec.litWpred (n : NRec) : Nat := (n.lit32.extractLsb' 16 8).toNat
def NRec.litWsucc (n : NRec) : Nat := (n.lit32.extractLsb' 8 8).toNat
def NRec.litRepro (n : NRec) : Bool := n.lit32.getLsbD 7
def NRec.litOrder (n : NRec) : BitVec 2 := n.lit32.extractLsb' 5 2
def NRec.litScope (n : NRec) : BitVec 5 := n.lit32.extractLsb' 0 5

/-- The common node rule: TAGOP calls only where the entry says so, REPRO 0, a result (R65, R66, R72). -/
def NRec.plain (n : NRec) : Bool :=
  n.commonOk && n.act != .call && n.act != .ret && !n.repro

def NRec.result (n : NRec) : Bool := n.dsta != destNone

/-- Class 1 on carrier N (R137): the arity, LIT, the RND values; ETYPE zero. -/
def nodeInt (n : NRec) (ar : Arity) (lit : Bool) (rnd : Bool) : Bool :=
  n.plain && n.result && n.arity == ar && (lit || !n.lit) && rnd && n.etype == .i32

/-- Classes 4 and 5 on carrier N (R164, R167). -/
def nodeVec (n : NRec) (ar : Arity) (ty : Bool) (rnd : Bool) : Bool :=
  n.plain && n.result && n.arity == ar && ty && rnd && (n.lit || n.lit32 == 0)

def NRec.rndZero (n : NRec) : Bool := n.rnd == 0

/-- Rounding without the mode: 0 or SAT alone (R167). -/
def NRec.satOnly (n : NRec) : Bool := n.rnd == 0 || n.rnd == 1

def ElemType.isInt (t : ElemType) : Bool := !t.isFloat

def ElemType.isSfu : ElemType → Bool
  | .fp32 | .bf16 | .fp16 | .e4m3 | .e5m2 => true
  | _ => false

/-- Class 7 (R219): ETYPE, RND, REPRO zero; LIT as given. -/
def nodeTok (n : NRec) (ars : List Arity) (lit : Bool) (par : Bool) : Bool :=
  n.commonOk && !n.repro && ars.contains n.arity && (lit || !n.lit) && n.etype == .i32 && n.rnd == 0 && par

/-- TAGOP "free": no call, no return (R65, R72). -/
def NRec.tagFree (n : NRec) : Bool := n.act != .call && n.act != .ret

def NRec.litBelow (n : NRec) (bits : Nat) : Bool := decide (n.lit32.toNat < 2 ^ bits)

/-- Class 6 on carrier N (R196). -/
def nodeMtx (n : NRec) (ars : List Arity) (ty : Bool) (par : Bool) : Bool :=
  n.plain && n.result && ars.contains n.arity && !n.lit && ty && par

/-- LIT32 of the MMA forms: entry in [2:0], zero above it up to bit 7, C a multiple of 64 (R196). -/
def NRec.mmaLit (n : NRec) (clr : Bool) : Bool :=
  (n.lit32.extractLsb' (if clr then 4 else 3) (if clr then 4 else 5)).toNat == 0 &&
    (n.lit32.extractLsb' 8 6).toNat == 0

/-- LDW and STW wave fields (R266). -/
def NRec.waveOk (n : NRec) : Bool :=
  decide (1 ≤ n.litWown ∧ n.litWown ≤ 254) &&
    (n.litWpred == 0 || n.litWpred == 0xFF || decide (n.litWpred < n.litWown)) &&
    (n.litWsucc == 0 || n.litWsucc == 0xFF || decide (n.litWown < n.litWsucc)) &&
    (n.lit32.extractLsb' 0 8).toNat == 0

/-- Class 8 on carrier N (R265, R266). -/
def nodeMem (n : NRec) (ars : List Arity) (rnd par res : Bool) : Bool :=
  n.plain && ars.contains n.arity && !n.lit && n.etype == .i32 && rnd && par && (!res || n.result)

/-- Class 10 on carrier N (R341): MATTR literal with the wave fields zero and LREPRO equal to REPRO; AREDN has no acquire (R342). -/
def nodeAtm (n : NRec) (ar : Bool) (ty : Bool) (rnd : Bool) : Bool :=
  n.commonOk && n.tagFree && ar && !n.lit && ty && rnd && (n.lit32.extractLsb' 8 24).toNat == 0 &&
    n.litRepro == n.repro

/-- Class 11 on carrier N (R332): ORDER as R55, the other literal fields as given. -/
def nodeSyn (n : NRec) (ar : Arity) (orders : List Nat) (par : Bool) : Bool :=
  n.plain && n.result && n.arity == ar && !n.lit && n.etype == .i32 && n.rnd == 0 &&
    !n.litRepro && orders.contains n.litOrder.toNat && par

/-! ### The numbers of the register map (R433, R434) -/

/-- A number lies in a range. -/
def within (lo hi n : Nat) : Bool := decide (lo ≤ n ∧ n ≤ hi)

/-- REPAIR's registers. -/
def isRepair (n : Nat) : Bool := within 0x100 0x17F n
/-- The test window. -/
def isWindow (n : Nat) : Bool := within 0x1000 0x11FF n && decide (n % 64 ≤ 0x28)

/-- A number is in the map. -/
def inMap (n : Nat) : Bool :=
  within 0x000 0x004 n || within 0x008 0x00C n || within 0x010 0x015 n || within 0x018 0x01B n || within 0x020 0x023 n ||
    within 0x028 0x02F n || within 0x030 0x033 n || within 0x038 0x039 n || within 0x040 0x044 n || n == 0x048 ||
    within 0x050 0x051 n || n == 0x058 || within 0x060 0x06F n || within 0x080 0x081 n || isRepair n || isWindow n

/-- The bundle fields each entry accepts (R56, R134, R141-R152, R167, R189, R261, R298, R327, R339, R387, R399,
R431, R444, R472). -/
def Instr.fieldsOk : Instr → Bool
  -- class 1 (R134)
  | .add o | .sub o | .andA o | .orA o | .xorA o | .andn o | .shl o | .rotl o | .bfi o =>
      arUses o true true true (o.f == 0)
  | .mul o => arUses o true true true (decide (o.f.toNat ≤ 2))
  | .div o | .rem o | .shr o | .min o | .max o | .bfx o => arUses o true true true (decide (o.f.toNat ≤ 1))
  | .clz o | .popc o => arUses o true true false (o.f == 0)
  | .setCond o => arUses o true true true (decide (o.f.toNat ≤ 5))
  | .sel o => arUses o true true true (decide (o.f.toNat ≤ 7))
  | .addi o => aiUses o true true
  | .movi o => aiUses o true false
  | .lea o => decide (o.f.toNat ≤ 3)
  -- class 2 (R141-R147)
  | .br o | .call o => aiUses o false false
  | .brp o => decide (1 ≤ o.d.toNat ∧ o.d.toNat ≤ 7 ∧ o.a.toNat ≤ 1)
  | .bri o => arUses o true true false (o.f == 0)
  | .ret o | .tstop o | .nop o => arUses o false false false (o.f == 0)
  | .pset o => decide (1 ≤ o.d.toNat ∧ o.d.toNat ≤ 7 ∧ o.f.toNat ≤ 5)
  | .plogic o =>
      decide (1 ≤ o.d.toNat ∧ o.d.toNat ≤ 7 ∧ o.a.toNat ≤ 7 ∧ o.b.toNat ≤ 7 ∧ o.f.toNat ≤ 4) &&
        (o.f.toNat != 3 || o.b == 0)
  | .tstart _ => true
  | .tid o => arUses o true false false (o.f == 0)
  | .waitf o => decide ((o.f.extractLsb' 0 3).toNat ≤ 5) && (o.f.extractLsb' 4 2).toNat == 0
  -- class 3 (R148-R152)
  | .fadd o | .fsub o | .fmul o | .ffma o | .fdiv o => arUses o true true true (roundFOk o.f)
  | .fsqrt o => arUses o true true false (roundFOk o.f)
  | .fmin o | .fmax o => arUses o true true true ((o.f.extractLsb' 0 4).toNat == 0)
  | .fcmp o =>
      decide (1 ≤ o.d.toNat ∧ o.d.toNat ≤ 7) && decide ((o.f.extractLsb' 0 3).toNat ≤ 4) && !o.f.getLsbD 3
  | .fcvt o => !o.b.getLsbD 4 && (!o.b.getLsbD 3 || (o.f.extractLsb' 0 3).toNat == 0)
  | .fclass o => arUses o true true false ((o.f.extractLsb' 0 4).toNat == 0)
  -- classes 4, 5 and TOPK on slot B (R57, R167, R416)
  | .vabs o | .vneg o | .vcvt o | .vpack o | .vunpack o | .vmov o | .vredsum o | .vredmax o | .vredmin o
  | .vscan o | .vexp o | .vlog2 o | .vrcp o | .vrsqrt o | .vsqrt o | .vsig o | .vtanh o | .vsin o | .vcos o => o.b == 0
  | .viota o => o.a == 0 && o.b == 0
  | .vadd _ | .vsub _ | .vmul _ | .vfma _ | .vmin _ | .vmax _ | .vcmp _ | .vsel _ | .vand _ | .vor _ | .vxor _
  | .vshl _ | .vshr _ | .vqnt _ | .vclamp _ | .vshuf _ | .vdot _ | .topk _ => true
  -- class 6 (R189)
  | .mshape o => arUses o false true false (decide (o.f.toNat ≤ 7))
  | .mma o | .mmaz o | .mmas o | .mmax o => arUses o true true true (decide (o.f.toNat ≤ 7))
  | .mzero o => arUses o true false false (decide (o.f.toNat ≤ 7))
  | .mout o => arUses o true true true (decide (o.f.toNat ≤ 15))
  | .mtrn o => arUses o true true false (decide (o.f.toNat ≤ 7))
  | .mfetch o => arUses o true true true (o.f == 0)
  -- class 8 (R260, R261)
  | .ld o | .ldp o => decide (o.code ≤ 6)
  | .st o | .stp o => decide (o.code ≤ 3)
  | .pref o | .cflush o | .cinv o => aiUses o false true && o.code == 0
  | .isread o => arUses o true true false (o.f == 0)
  | .iswrite o | .isclr o => arUses o false true true (o.f == 0)
  -- class 9 (R298)
  | .copy o | .copy2d o => arUses o true true true (decide (o.f.toNat ≤ 7))
  | .gather o | .scatter o | .mcast o => arUses o true true true (decide (o.f.toNat ≤ 7) && !o.f.getLsbD 1)
  | .chopen o => arUses o true true true (o.f == 0)
  | .chclose o => arUses o true true (o.f == 1) (decide (o.f.toNat ≤ 1))
  | .tlread o => arUses o true false false (decide (o.f.toNat ≤ 7))
  | .tlwait o => arUses o true true false (decide (o.f.toNat ≤ 3))
  | .uiarm o => arUses o false true false (decide (o.f.toNat ≤ 3))
  | .uiret o => arUses o false false false (o.f == 0)
  -- class 10 (R339)
  | .aadd o | .aand o | .aor o | .axor o | .aswap o | .acas o =>
      axUses o true true true (decide (o.f.toNat ≤ 1)) [0, 1, 2, 3] 0 true
  | .afadd o => axUses o true true true (decide (o.f.toNat ≤ 1)) [0, 1, 2, 3] 0 true && reproPairOk o
  | .amin o | .amax o => axUses o true true true (decide (o.f.toNat ≤ 3)) [0, 1, 2, 3] 0 true
  | .aredn o =>
      axUses o false true true (AREDNfOk o.f) [0, 2] 0 true &&
        ((o.f.extractLsb' 2 3).toNat != 1 || reproPairOk o)
  -- class 11 (R55, R327)
  | .fence o => axUses o false false false (o.f == 0) [1, 2, 3] 0 false
  | .scopew o => axUses o true true false (o.f == 0) [0] 11 false
  | .scopekill o => axUses o true false false (o.f == 0) [0] 11 false
  | .scoper o => axUses o true (o.f == 1) false (decide (o.f.toNat ≤ 1)) [0] 0 false
  | .widen o => axUses o false false false (o.f == 0) [2, 3] 0 false
  | .bar o | .barwait o => axUses o true true true (o.f == 0) [0, 1, 2, 3] 0 false
  -- class 12 (R387)
  | .tspawn o | .gfree o => arUses o true true false (o.f == 0)
  | .tdec o => arUses o false true true (o.f == 0)
  | .tsucc o | .ginst o | .ttwrite o => arUses o true true true (o.f == 0)
  | .tdone o => arUses o false true false (o.f == 0)
  | .tquery o => arUses o true true false (decide (o.f.toNat ≤ 1))
  | .targ o => arUses o true false false (decide (o.f.toNat ≤ 4))
  -- class 13 (R399)
  | .sxsel o | .sxapp o | .sxprop o | .sxsave o | .sxload o | .sxwin o | .btprop o =>
      arUses o true true true (o.f == 0)
  | .sxlen o => arUses o true true false (decide (o.f.toNat ≤ 3))
  | .sxclr o => arUses o false true false (decide (o.f.toNat ≤ 1))
  | .btcommit o => arUses o true false false (decide (o.f.toNat ≤ 1))
  | .btread o => arUses o true (decide (o.f.toNat ≤ 3)) false (decide (o.f.toNat ≤ 4))
  | .tkmerge o => arUses o true true false (decide (o.f.toNat ≤ 1))
  | .rngdraw o => arUses o true true true (o.f == 0) && !o.d.getLsbD 0 && decide (2 ≤ o.d.toNat)
  | .vocchk o => arUses o true true false (o.f == 0)
  -- class 14 (R428, R430, R431, R444)
  | .trap o => aiUses o false false
  | .eret o | .halt o => arUses o false false false (o.f == 0)
  | .mrd o => aiUses o true false && inMap o.imm.toNat
  | .pwrhint o => aiUses o true false && !o.imm.msb
  | .mwr o => aiUses o false true && inMap o.imm.toNat
  | .tlbinv o => arUses o true (o.f == 0) (o.f != 2) (decide (o.f.toNat ≤ 2))
  | .ctxsave o | .ctxload o => arUses o true true true (o.f == 0)
  | .swint o => arUses o false true true (o.f == 0)
  | .replay o => arUses o true true false (decide (o.f.toNat ≤ 1))
  -- class 15 (R472)
  | .bkpt o | .mark o => aiUses o false false
  | .watch o => arUses o true true true (decide (o.f.toNat ≤ 3))
  | .trace o => arUses o false true true (o.f == 0)
  | .histrd o => arUses o true true false (o.f == 0)
  | .histclr o => arUses o false (o.f == 0) false (decide (o.f.toNat ≤ 1))
  -- node operations have no bundle fields
  | .addNode => true
  | .subNode => true
  | .addiNode => true
  | .mulNode => true
  | .divNode => true
  | .remNode => true
  | .andNode => true
  | .orNode => true
  | .xorNode => true
  | .andnNode => true
  | .shlNode => true
  | .shrNode => true
  | .rotlNode => true
  | .clzNode => true
  | .popcNode => true
  | .minNode => true
  | .maxNode => true
  | .setNode => true
  | .selNode => true
  | .moviNode => true
  | .bfxNode => true
  | .bfiNode => true
  | .leaNode => true
  | .vaddNode => true
  | .vsubNode => true
  | .vmulNode => true
  | .vfmaNode => true
  | .vminNode => true
  | .vmaxNode => true
  | .vabsNode => true
  | .vnegNode => true
  | .vcmpNode => true
  | .vselNode => true
  | .vandNode => true
  | .vorNode => true
  | .vxorNode => true
  | .vshlNode => true
  | .vshrNode => true
  | .vcvtNode => true
  | .vqntNode => true
  | .vpackNode => true
  | .vunpackNode => true
  | .vclampNode => true
  | .vmovNode => true
  | .viotaNode => true
  | .vshufNode => true
  | .vredsumNode => true
  | .vredmaxNode => true
  | .vredminNode => true
  | .vscanNode => true
  | .vdotNode => true
  | .vexpNode => true
  | .vlog2Node => true
  | .vrcpNode => true
  | .vrsqrtNode => true
  | .vsqrtNode => true
  | .vsigNode => true
  | .vtanhNode => true
  | .vsinNode => true
  | .vcosNode => true
  | .mshapeNode => true
  | .mmaNode => true
  | .mmazNode => true
  | .mmasNode => true
  | .mmaxNode => true
  | .mzeroNode => true
  | .moutNode => true
  | .mtrnNode => true
  | .mfetchNode => true
  | .steer => true
  | .merge => true
  | .wave => true
  | .loopent => true
  | .loopexit => true
  | .callt => true
  | .rett => true
  | .freectx => true
  | .repeatTok => true
  | .gate => true
  | .joinTok => true
  | .constTok => true
  | .dup => true
  | .tagget => true
  | .tagset => true
  | .sendTok => true
  | .recv => true
  | .eos => true
  | .runpack => true
  | .runsplit => true
  | .ldw => true
  | .stw => true
  | .ldx => true
  | .stx => true
  | .isreadNode => true
  | .iswriteNode => true
  | .isclrNode => true
  | .copyNode => true
  | .gatherNode => true
  | .scatterNode => true
  | .aaddNode => true
  | .afaddNode => true
  | .aminNode => true
  | .amaxNode => true
  | .aandNode => true
  | .aorNode => true
  | .axorNode => true
  | .aswapNode => true
  | .acasNode => true
  | .arednNode => true
  | .acomb => true
  | .fenceNode => true
  | .widenNode => true
  | .barNode => true
  | .tdecNode => true
  | .tdecSelfNode => true
  | .commit => true
  | .traceNode => true
  | .markNode => true
  -- machine events have no fields
  | .waitfSatisfied => true
  | .waitfTimeout => true
  | .deferredTrapEntry => true
  | .userInterruptTake => true
  | .preemptInterruptTake => true
  | .vectorEngineTake _ => true
  | .vectorCommandComplete _ => true
  | .matrixEngineTake _ => true
  | .matrixOperationComplete _ _ => true
  | .tokenArrival _ _ => true
  | .deepLookupComplete _ _ => true
  | .matchingWayRefill _ _ => true
  | .firingWeightUpdate _ => true
  | .packerFlush _ _ => true
  | .requestAdmit _ => true
  | .translationWalkComplete _ => true
  | .regionAccessApply _ => true
  | .structureOperationApply _ => true
  | .cacheBankFill _ => true
  | .memoryReplyArrival _ => true
  | .requestRetry _ => true
  | .copyEngineTake _ => true
  | .gatherEngineTake _ => true
  | .engineCommandComplete _ _ => true
  | .atomicApply _ => true
  | .combiningJoin _ _ => true
  | .combinedReplySplit _ => true
  | .combinedFaultCopy _ => true
  | .reproContributionArrival _ => true
  | .reproGroupAbandon _ => true
  | .barrierArrivalApply _ => true
  | .scopeMarkArrival _ => true
  | .scopeMarkAcknowledge _ _ => true
  | .scopeInstallArrival _ => true
  | .scopeMissReply _ => true
  | .missRingReissue _ _ => true
  | .decrementArrival _ => true
  | .pendingPass _ => true
  | .prefetchOperandLand _ _ _ => true
  | .selectionPass _ => true
  | .energyWindowStart _ => true
  | .taskCompletion _ _ => true
  | .sxpropEvaluate _ _ => true
  | .sxloadRebuildComplete _ _ => true
  | .btProposalArrival _ => true
  | .btAbortArrival _ => true
  | .btCommitArrival _ => true
  | .btReplicaTimeout _ => true
  | .generatorDrawServe _ => true
  | .missringWrite _ => true
  | .ntrapctlWrite _ => true
  | .repairWrite _ _ => true
  | .timelineCounterWrite _ _ => true
  | .errorRegisterClear _ _ => true
  | .ebudgetWrite _ => true
  | .machineRegisterWrite _ _ => true
  | .classGSave _ _ => true
  | .classSSave _ _ => true
  | .saveHeldRequestTimeout _ _ => true
  | .preemptAckTimeout _ _ => true
  | .contextRestore _ _ => true
  | .faultRecordPlace _ => true
  | .eccUncorrectable _ => true
  | .dbgFreezeCommand _ => true
  | .dbgResumeCommand _ => true
  | .sbdataAccess _ _ _ _ => true
  | .sbstatWrite _ _ => true
  | .traceRingConfigWrite _ _ _ => true
  | .traceRecordPlace _ => true
  | .mailboxScan _ _ => true
  | .channelRingScan _ _ _ => true
  | .streamBeatArrival _ => true
  | .streamCreditReturn _ => true
  | .fifoForward _ _ => true
  | .packetReceive _ => true
  | .requestWatchdogExpiry _ => true
  | .linkWithdraw _ => true
  | .streamCircuitReroute _ => true
  | .ualinkPortTraining _ _ _ _ => true
  | .ualinkChunkReceive _ _ _ _ _ => true
  | .pcieDmaAccess _ _ _ _ => true
  | .roleSwapFillComplete _ => true
  | .journalEntryAccept _ => true
  | .tload _ _ => true
  | .instCmd _ _ => true
  | .cancelCmd _ _ => true
  | .decCmd _ _ => true
  | .journalReplay _ _ => true
  | .preemptCmd _ _ => true
  | .restoreCmd _ _ => true
  | .asidCmd _ _ => true
  | .journalTlbinv _ _ => true
  | .plistCmd _ _ => true
  | .partitionCmd _ _ => true
  | .areaCmd _ _ => true
  | .btset _ _ => true
  | .keyload _ _ => true
  | .sxfree _ _ => true
  | .dmawin _ _ => true
  | .fwupdate _ _ => true
  | .ownerkey _ _ => true
  | .moduleReset _ => true
  | .firmwareBoot _ _ => true
  | .thermalTrip _ => true
  | .currentGovernorThrottle _ _ => true
  | .powerDown _ => true
  | .scopeUpdateAckArrival _ => true
  | .batchingAcknowledgement _ => true
  | .transactionLayerResponse _ _ => true

/-- The record fields each node entry accepts (R137, R167, R196, R219, R266, R301, R332, R341, R354, R390,
R415, R475). -/
def nodeFieldsOk (i : Instr) (n : NRec) : Bool :=
  match i with
  -- class 1 nodes (R137)
  | .addNode | .subNode | .andNode | .orNode | .xorNode | .andnNode | .shlNode | .rotlNode =>
      nodeInt n .two true n.rndZero
  | .mulNode => nodeInt n .two true (decide (n.rnd.toNat ≤ 2))
  | .divNode | .remNode | .shrNode | .minNode | .maxNode | .bfxNode =>
      nodeInt n .two true (decide (n.rnd.toNat ≤ 1))
  | .setNode => nodeInt n .two true (decide (n.rnd.toNat ≤ 5))
  | .addiNode | .moviNode | .clzNode | .popcNode => nodeInt n .one false n.rndZero
  | .selNode | .bfiNode => nodeInt n .three true n.rndZero
  | .leaNode => nodeInt n .two false (!n.rnd.getLsbD 2)
  -- class 4 and 5 nodes (R167)
  | .vaddNode | .vsubNode | .vmulNode => nodeVec n .two true true
  | .vfmaNode => nodeVec n .three true true
  | .vminNode | .vmaxNode | .vandNode | .vorNode | .vxorNode => nodeVec n .two true n.rndZero
  | .vabsNode | .vnegNode => nodeVec n .one (!n.etype.isUnsigned) n.satOnly
  | .vcmpNode => nodeVec n .two (n.etype.width != 6) (decide (n.rnd.toNat ≤ 6))
  | .vselNode | .vclampNode => nodeVec n .three true n.rndZero
  | .vshlNode => nodeVec n .two n.etype.isInt n.rndZero
  | .vshrNode => nodeVec n .two n.etype.isInt n.satOnly
  | .vcvtNode =>
      n.plain && n.result && n.arity == .one && !n.lit && decide (n.lit32.toNat ≤ 13)
  | .vqntNode => nodeVec n .two true true
  | .vpackNode | .vunpackNode => nodeVec n .one (decide (1 < n.etype.epw)) n.rndZero
  | .vmovNode => nodeVec n .one true n.rndZero
  | .viotaNode => nodeVec n .one true true
  | .vshufNode => nodeVec n .two true n.satOnly
  | .vredsumNode | .vscanNode => nodeVec n .one true true
  | .vredmaxNode | .vredminNode => nodeVec n .one true n.rndZero
  | .vdotNode => nodeVec n .two true true
  | .vexpNode | .vlog2Node | .vrcpNode | .vrsqrtNode | .vsqrtNode | .vsigNode | .vtanhNode
  | .vsinNode | .vcosNode => nodeVec n .one n.etype.isSfu true
  -- class 6 nodes (R196)
  | .mshapeNode => nodeMtx n [.one] (n.etype == .i32 && n.rnd == 0) ((n.lit32.extractLsb' 3 17).toNat == 0)
  | .mmaNode | .mmazNode | .mmasNode | .mmaxNode =>
      nodeMtx n [.two, .three] (n.etype == .i32 && n.rnd == 0) (n.mmaLit false)
  | .mzeroNode => nodeMtx n [.one] (n.etype == .i32 && n.rnd == 0) (n.mmaLit false)
  | .moutNode => nodeMtx n [.two, .three] true (n.mmaLit true)
  | .mtrnNode => nodeMtx n [.two] (n.etype == .i32 && n.rnd == 0) (n.litBelow 3)
  | .mfetchNode =>
      nodeMtx n [.two] (n.etype == .i32 && n.rnd == 0)
        ((n.lit32.extractLsb' 0 8).toNat != 0 && (n.lit32.extractLsb' 8 4).toNat == 0)
  -- class 7 (R219)
  | .steer | .gate => nodeTok n [.two] false (n.tagFree && n.result && n.lit32 == 0)
  | .merge => nodeTok n [.three, .two] false (n.tagFree && n.result && n.lit32 == 0)
  | .wave => nodeTok n [.one] false
      (n.act == .inc && n.result && (n.lit32.extractLsb' 16 16).toNat == 0 && (n.lit32.extractLsb' 0 2).toNat == 0)
  | .loopexit => nodeTok n [.one] false
      (n.act == .exit && n.result && (n.lit32.extractLsb' 16 16).toNat == 0 && (n.lit32.extractLsb' 0 2).toNat == 0)
  | .loopent => nodeTok n [.two] false
      (n.act == .enter && n.result && decide (1 ≤ n.lit32.toNat ∧ n.lit32.toNat ≤ 64))
  | .callt => nodeTok n [.one, .two] false
      (n.act == .call && n.result && n.litBelow 16 && (n.lit32.extractLsb' 0 2).toNat != 3)
  | .rett => nodeTok n [.one] false (n.act == .ret && !n.result && n.lit32 == 0)
  | .freectx => nodeTok n [.one] false
      (n.act == .keep && n.run == .keep && !n.result && n.lit32 == 0)
  | .repeatTok => nodeTok n [.two] true (n.act == .keep && n.result && (n.lit || n.lit32 == 0))
  | .joinTok => nodeTok n [.two, .three, .one] false (n.tagFree && n.result &&
      (if n.arity == .one then decide (2 ≤ n.lit32.toNat ∧ n.lit32.toNat ≤ 65535) else n.lit32 == 0))
  | .constTok => nodeTok n [.one] false (n.tagFree && n.result)
  | .dup => nodeTok n [.one] false
      (n.tagFree && n.result && destOk (n.lit32.extractLsb' 0 16) && destOk (n.lit32.extractLsb' 16 16))
  | .tagget => nodeTok n [.one] false (n.tagFree && n.result && decide (n.lit32.toNat ≤ 6))
  | .tagset => nodeTok n [.two] false (n.act == .keep && n.result && decide (n.lit32.toNat ≤ 6))
  | .sendTok => nodeTok n [.one, .two] false
      (n.tagFree && !n.result && (n.lit32.extractLsb' 8 8).toNat == 0 && (n.lit32.extractLsb' 16 2).toNat != 3)
  | .recv => nodeTok n [.one] false
      (n.tagFree && n.result && (n.lit32.extractLsb' 28 4).toNat == 0 &&
        decide (2 ≤ (n.lit32.extractLsb' 24 4).toNat ∧ (n.lit32.extractLsb' 24 4).toNat ≤ 12))
  | .eos => nodeTok n [.one] false (n.act == .keep && n.run == .keep && n.result && n.lit32 == 0)
  | .runpack => nodeTok n [.one] false
      (n.act == .keep && n.run == .keep && n.result && [2, 4, 8, 16, 32].contains n.lit32.toNat)
  | .runsplit => nodeTok n [.one] false
      (n.act == .keep && n.run == .keep && n.result && [1, 2, 4, 8, 16].contains n.lit32.toNat)
  -- class 8 nodes (R266)
  | .ldw => nodeMem n [.one, .two] true n.waveOk true
  | .stw => nodeMem n [.two, .three] true n.waveOk false
  | .ldx => nodeMem n [.one, .two] true (n.lit32 == 0) true
  | .stx => nodeMem n [.two, .three] true (n.lit32 == 0) false
  | .isreadNode => nodeMem n [.one, .two] n.rndZero (n.lit32 == 0) true
  | .iswriteNode => nodeMem n [.two, .three] n.rndZero (n.lit32 == 0) false
  | .isclrNode => nodeMem n [.two] n.rndZero (n.lit32 == 0) false
  -- class 9 nodes (R301)
  | .copyNode => n.plain && n.result && n.arity != .one && !n.lit && n.etype == .i32 && !n.rnd.getLsbD 0
  | .gatherNode | .scatterNode =>
      n.plain && n.result && n.arity == .three && !n.lit && n.etype == .i32 && n.rnd == 0 && n.litBelow 20
  -- class 10 nodes (R341, R354)
  | .aaddNode | .aandNode | .aorNode | .axorNode | .aswapNode | .aminNode | .amaxNode =>
      nodeAtm n (n.arity != .one) (n.etype == .i32 || n.etype == .u32) n.rndZero
  | .afaddNode =>
      nodeAtm n (if n.repro then n.arity == .three else n.arity == .two) (n.etype == .fp32) n.rndZero
  | .acasNode => nodeAtm n (n.arity == .three) (n.etype == .i32 || n.etype == .u32) n.rndZero
  | .arednNode =>
      nodeAtm n (if n.repro && n.rnd == 1 then n.arity == .three else n.arity != .one)
        (if n.rnd == 1 then n.etype == .fp32 else n.etype == .i32 || n.etype == .u32)
        (decide (n.rnd.toNat ≤ 6)) && !n.litOrder.getLsbD 0
  | .acomb =>
      n.result && nodeAtm n (n.arity == .two)
        (n.etype == .i32 || n.etype == .u32 || (n.etype == .fp32 && decide (n.rnd.toNat ≤ 2)))
        (decide (n.rnd.toNat ≤ 5)) && n.litOrder == 0 && n.litScope == 0
  -- class 11 nodes (R332)
  | .fenceNode => nodeSyn n .one [1, 2, 3] ((n.lit32.extractLsb' 8 24).toNat == 0)
  | .widenNode => nodeSyn n .one [2, 3] ((n.lit32.extractLsb' 8 24).toNat == 0)
  | .barNode => nodeSyn n .two [0, 1, 2, 3]
      ((n.lit32.extractLsb' 28 4).toNat == 0 && (n.lit32.extractLsb' 8 16).toNat == 0 &&
        decide ((n.lit32.extractLsb' 24 3).toNat ≤ 5))
  -- TDEC (R390)
  | .tdecNode => n.plain && n.arity == .two && n.etype == .i32 && n.rnd == 0 && (n.lit || n.lit32 == 0)
  | .tdecSelfNode => n.plain && n.arity == .one && !n.lit && n.etype == .i32 && n.rnd == 1 && n.lit32 == 0
  -- COMMIT (R415)
  | .commit => n.plain && n.arity == .two && !n.lit && n.etype == .i32 && n.rnd == 0 && n.litBelow 3
  -- TRACE, MARK (R475)
  | .traceNode => n.plain && n.arity == .one && !n.lit && n.etype == .i32 && n.rnd == 0 && n.lit32 == 0
  | .markNode => n.plain && n.arity == .one && !n.lit && n.etype == .i32 && n.rnd == 0
  | _ => false

/-! ## Bundles -/

/-- A decoded bundle: slot A under its guard, and slot B under its guard unless it is empty (R46-R48). -/
structure Bundle where
  grdA : BitVec 3
  a : Instr
  b : Option (BitVec 3 × Instr)
  deriving DecidableEq, Repr, Inhabited

/-- Why a bundle or a record is refused, in the order of R70 and R72. -/
inductive DecodeError where
  /-- H is 10 or 11 (R70 row 1). -/
  | reservedHeader
  /-- The opcode is of class 0, reserved, or lacks carrier A (R70 row 2). -/
  | opcodeA
  /-- An A-X opcode in a pair, or an extension value refused (R70 row 3). -/
  | extension
  /-- A-R in a long bundle with a nonzero extension (R70 row 4). -/
  | longExtension
  /-- f undefined or an unused register field nonzero (R70 row 5). -/
  | fieldsA
  /-- Slot B refused (R70 row 6). -/
  | slotB
  /-- Fewer bytes than the bundle or slot needs. -/
  | short
  /-- The record's opcode lacks carrier N (R72). -/
  | opcodeN
  /-- ARITY, TAGOP or ETYPE hold a reserved code (R72). -/
  | reservedCode
  /-- MATTR differs from what the opcode needs (R67, R72). -/
  | mattr
  /-- Slot bytes 12 to 15 nonzero (R72). -/
  | slotTail
  /-- The record's fields break its entry (R72). -/
  | recordFields
  deriving DecidableEq, Repr, Inhabited

def isOk {ε α : Type} : Except ε α → Bool
  | .ok _ => true
  | .error _ => false

/-- Opcodes whose entries need slot B empty: class 12, the carrier-A opcodes of class 13 and 0x384 to 0x38A
(R70 row 6, R387, R399, R444). -/
def needsEmptyB (opc : BitVec 10) : Bool :=
  decide ((0x300 ≤ opc.toNat ∧ opc.toNat < 0x380) ∨ (0x384 ≤ opc.toNat ∧ opc.toNat ≤ 0x38A))

/-- The A-R fields of bundle bits [48:28] (R51). -/
def arFields (w : Word) : AR :=
  { d := w.extractLsb' 44 5, a := w.extractLsb' 39 5, b := w.extractLsb' 34 5, f := w.extractLsb' 28 6 }

/-- The immediate of R52 as the 39-bit value of the long form. -/
def aiImm (long : Bool) (w : Word) : BitVec 39 :=
  if long then (w.extractLsb' 0 28) ++ (w.extractLsb' 28 11) else (w.extractLsb' 28 11).signExtend 39

/-- Slot A of a bundle (R45-R56; R70 rows 2 to 5). -/
def decodeSlotA (long : Bool) (w : Word) : Except DecodeError Instr :=
  match slotAForm (w.extractLsb' 52 10) with
  | none => .error .opcodeA
  | some (.ar mk) =>
      if long && (w.extractLsb' 0 28) != 0 then .error .longExtension
      else
        let i := mk (arFields w)
        if i.fieldsOk then .ok i else .error .fieldsA
  | some (.are mk) =>
      let r := arFields w
      let i := mk { d := r.d, a := r.a, b := r.b, f := r.f, e := if long then w.extractLsb' 0 28 else 0 }
      if i.fieldsOk then .ok i else .error .fieldsA
  | some (.ai mk) =>
      let i := mk { d := w.extractLsb' 44 5, a := w.extractLsb' 39 5, imm := aiImm long w }
      if i.fieldsOk then .ok i else .error .fieldsA
  | some (.ax mk) =>
      if !long || (w.extractLsb' 0 19) != 0 then .error .extension
      else
        let r := arFields w
        let i := mk { d := r.d, a := r.a, b := r.b, f := r.f, scope := w.extractLsb' 23 5,
                      order := w.extractLsb' 21 2, repro := w.getLsbD 20, nocomb := w.getLsbD 19 }
        if i.fieldsOk then .ok i else .error .fieldsA

/-- Slot B of a pair bundle (R48, R57; R70 row 6). -/
def decodeSlotB (w : Word) : Except DecodeError (Option (BitVec 3 × Instr)) :=
  if w.extractLsb' 0 28 = 0 then .ok none
  else if needsEmptyB (w.extractLsb' 52 10) then .error .slotB
  else
    match slotBForm (w.extractLsb' 18 10) with
    | none => .error .slotB
    | some mk =>
        let i := mk { d := w.extractLsb' 10 5, a := w.extractLsb' 5 5, b := w.extractLsb' 0 5 }
        if i.fieldsOk then .ok (some (w.extractLsb' 15 3, i)) else .error .slotB

/-- The decoder of bundles: the rows of R70 that the bundle's own bits decide, in their order. -/
def decodeBundle (w : Word) : Except DecodeError Bundle :=
  if w.extractLsb' 62 2 = 0 then
    match decodeSlotA false w with
    | .error e => .error e
    | .ok a =>
        match decodeSlotB w with
        | .error e => .error e
        | .ok b => .ok { grdA := w.extractLsb' 49 3, a := a, b := b }
  else if w.extractLsb' 62 2 = 1 then
    match decodeSlotA true w with
    | .error e => .error e
    | .ok a => .ok { grdA := w.extractLsb' 49 3, a := a, b := none }
  else .error .reservedHeader

/-! ## Node slots -/

/-- A node record: its operation and its fields (R62). -/
structure NodeRecord where
  op : Instr
  r : NRec
  deriving DecidableEq, Repr, Inhabited

/-- MATTR is 1 on LDW, STW, LDX, STX, the ATM opcodes and FENCE, WIDEN, BAR, and 0 on all others (R67). -/
def needsMattr (opc : BitVec 10) : Bool :=
  decide ((0x204 ≤ opc.toNat ∧ opc.toNat ≤ 0x207) ∨ (0x280 ≤ opc.toNat ∧ opc.toNat ≤ 0x28A)) ||
    opc == 0x2C0 || opc == 0x2C4 || opc == 0x2C5

/-- The fields of a record (R62) where its codes are not reserved. -/
def recordFields (r : BitVec 128) : Option NRec :=
  match Arity.ofCode (r.extractLsb' 84 2), TagAct.ofCode (r.extractLsb' 48 3), RunOp.ofCode (r.extractLsb' 43 2),
      ElemType.ofCode (r.extractLsb' 39 4) with
  | some arity, some act, some run, some ty =>
      some { arity := arity, lit := r.getLsbD 83, dsta := r.extractLsb' 67 16, dstb := r.extractLsb' 51 16,
             act := act, k := r.extractLsb' 45 3, run := run, etype := ty, rnd := r.extractLsb' 36 3,
             fch := r.getLsbD 35, repro := r.getLsbD 34, trc := r.getLsbD 32, lit32 := r.extractLsb' 0 32 }
  | _, _, _, _ => none

/-- The decoder of node slots: the rows of R72 that the record's own bits decide. -/
def decodeSlot (r : BitVec 128) : Except DecodeError NodeRecord :=
  match nodeForm (r.extractLsb' 86 10) (r.extractLsb' 36 3) with
  | none => .error .opcodeN
  | some i =>
      match recordFields r with
      | none => .error .reservedCode
      | some n =>
          if r.getLsbD 33 != needsMattr (r.extractLsb' 86 10) then .error .mattr
          else if r.extractLsb' 96 32 != 0 then .error .slotTail
          else if nodeFieldsOk i n then .ok { op := i, r := n } else .error .recordFields

/-! ## The encoder -/

/-- Slot A's 34 bits of an A-R form (R46, R51). -/
def slotABits (opc : BitVec 10) (grd : BitVec 3) (o : AR) : BitVec 34 :=
  opc ++ grd ++ o.d ++ o.a ++ o.b ++ o.f

/-- The immediate fits the pair form (R52). -/
def aiShort (imm : BitVec 39) : Bool := (imm.extractLsb' 0 11).signExtend 39 == imm

/-- The bundle of slot A alone: the pair form where it can, else the long form. -/
def encodeA (grd : BitVec 3) (i : Instr) : Option Word :=
  match i.enc with
  | .ar opc o => some (0#2 ++ slotABits opc grd o ++ 0#28)
  | .are opc o =>
      some ((if o.e = 0 then 0#2 else 1#2) ++ slotABits opc grd { d := o.d, a := o.a, b := o.b, f := o.f } ++ o.e)
  | .ai opc o =>
      if aiShort o.imm then
        some (0#2 ++ opc ++ grd ++ o.d ++ o.a ++ o.imm.extractLsb' 0 11 ++ 0#28)
      else some (1#2 ++ opc ++ grd ++ o.d ++ o.a ++ o.imm.extractLsb' 0 11 ++ o.imm.extractLsb' 11 28)
  | .ax opc o =>
      some (1#2 ++ slotABits opc grd { d := o.d, a := o.a, b := o.b, f := o.f } ++ o.scope ++ o.order ++
        BitVec.ofBool o.repro ++ BitVec.ofBool o.nocomb ++ 0#19)
  | _ => none

/-- Slot B's 28 bits (R46). -/
def encodeB (grd : BitVec 3) (i : Instr) : Option (BitVec 28) :=
  match i.enc with
  | .bo opc o => some (opc ++ grd ++ o.d ++ o.a ++ o.b)
  | _ => none

/-- The bundle word of a decoded bundle; slot B joins only a pair form. -/
def encodeBundle (x : Bundle) : Option Word :=
  match encodeA x.grdA x.a with
  | none => none
  | some w =>
      match x.b with
      | none => some w
      | some (g, i) =>
          match encodeB g i with
          | none => none
          | some lo => if w.extractLsb' 62 2 = 0 then some (w.extractLsb' 28 36 ++ lo) else none

/-- The node slot of a record (R44, R62). -/
def encodeSlot (x : NodeRecord) : Option (BitVec 128) :=
  let n := x.r
  match x.op.enc with
  | .node opc =>
      some (0#32 ++ opc ++ n.arity.code ++ BitVec.ofBool n.lit ++ n.dsta ++ n.dstb ++ n.act.code ++ n.k ++
        n.run.code ++ n.etype.code ++ n.rnd ++ BitVec.ofBool n.fch ++ BitVec.ofBool n.repro ++
        BitVec.ofBool (needsMattr opc) ++ BitVec.ofBool n.trc ++ n.lit32)
  | _ => none

/-- The bundle of a bundle instruction alone: an unguarded slot A with slot B empty, or a slot B beside NOP;
none for a node operation, whose slot needs its record (`encodeSlot`), and for a machine event. -/
def encode (i : Instr) : Option Word :=
  match i.enc with
  | .bo _ _ => (encodeB 0 i).map fun lo => 0x08A000000#36 ++ lo
  | _ => encodeA 0 i

/-! ## Bytes -/

/-- Bytes stored little-endian as a number (R2, R44). -/
def bytesToNat : List Byte → Nat
  | [] => 0
  | b :: bs => b.toNat + 256 * bytesToNat bs

/-- The n bytes of a number, lowest first. -/
def natToBytes : Nat → Nat → List Byte
  | 0, _ => []
  | n + 1, v => BitVec.ofNat 8 v :: natToBytes n (v / 256)

/-- The instruction of a decoded bundle when asked for ONE: slot A, or slot B where slot A is NOP. -/
def Bundle.single (x : Bundle) : Instr :=
  match x.a, x.b with
  | .nop _, some (_, i) => i
  | a, _ => a

/-- The decoder on bytes: 8 bytes are a bundle, 16 a node slot. -/
def decodeBytes (bs : List Byte) : Except DecodeError Instr :=
  if bs.length = 8 then
    match decodeBundle (BitVec.ofNat 64 (bytesToNat bs)) with
    | .ok x => .ok x.single
    | .error e => .error e
  else if bs.length = 16 then
    match decodeSlot (BitVec.ofNat 128 (bytesToNat bs)) with
    | .ok x => .ok x.op
    | .error e => .error e
  else .error .short

/-- The host's reading of one table row: at most 64 bits are a bundle, more are a node slot. -/
def decodeTableWord (nbits w : Nat) : Option Instr :=
  match decodeBytes (natToBytes (if nbits ≤ 64 then 8 else 16) (w % 2 ^ nbits)) with
  | .ok i => some i
  | .error _ => none

end Sys2Proof
end

