-- ==== Sys2Proof/Machine/Numbers.lean ====
section
/-! DEFINITION. Number formats, exact values and rounding (04_numbers.md, R98-R108). An exact value is a
dyadic number, an infinity or NaN; a result that is no dyadic number (a quotient, a root) is carried with a
low sticky bit below every bit that rounding looks at. -/

namespace Sys2Proof.Machine

/-- The floating-point types of R98. -/
inductive FType where
  | fp64 | fp32 | fp16 | bf16 | e4m3 | e5m2 | e3m2 | e2m3 | e2m1
  deriving DecidableEq, Repr, Inhabited

/-- Exponent bits (R98). -/
def FType.ebits : FType → Nat
  | .fp64 => 11 | .fp32 => 8 | .fp16 => 5 | .bf16 => 8 | .e4m3 => 4 | .e5m2 => 5 | .e3m2 => 3 | .e2m3 => 2
  | .e2m1 => 2

/-- Fraction bits (R98). -/
def FType.mbits : FType → Nat
  | .fp64 => 52 | .fp32 => 23 | .fp16 => 10 | .bf16 => 7 | .e4m3 => 3 | .e5m2 => 2 | .e3m2 => 2 | .e2m3 => 3
  | .e2m1 => 1

/-- Exponent bias (R98). -/
def FType.bias : FType → Nat
  | .fp64 => 1023 | .fp32 => 127 | .fp16 => 15 | .bf16 => 127 | .e4m3 => 7 | .e5m2 => 15 | .e3m2 => 3
  | .e2m3 => 1 | .e2m1 => 1

/-- The all-ones exponent holds infinity and NaN (R98). -/
def FType.ieee : FType → Bool
  | .fp64 | .fp32 | .fp16 | .bf16 | .e5m2 => true
  | _ => false

/-- The type has a NaN (R98, R100). -/
def FType.hasNaN : FType → Bool
  | .e3m2 | .e2m3 | .e2m1 => false
  | _ => true

/-- The types flush-to-zero acts on (R108). -/
def FType.flushes : FType → Bool
  | .fp64 | .fp32 | .fp16 | .bf16 => true
  | _ => false

def FType.width (t : FType) : Nat := 1 + t.ebits + t.mbits

def FType.emin (t : FType) : Int := 1 - (t.bias : Int)

/-- Canonical NaN (R100). -/
def FType.nanBits : FType → Nat
  | .fp64 => 0x7FF8000000000000 | .fp32 => 0x7FC00000 | .fp16 => 0x7E00 | .bf16 => 0x7FC0 | .e4m3 => 0x7F
  | .e5m2 => 0x7E | _ => 0

/-- The encoding of the largest finite value without its sign (R98). -/
def FType.maxBits (t : FType) : Nat :=
  match t with
  | .e4m3 => 0x7E
  | _ => if t.ieee then (2 ^ t.ebits - 1) * 2 ^ t.mbits - 1 else 2 ^ (t.ebits + t.mbits) - 1

/-- The encoding of +infinity, where the type has one (R98). -/
def FType.infBits (t : FType) : Nat := (2 ^ t.ebits - 1) * 2 ^ t.mbits

/-- An exact extended real: NaN, an infinity, or (-1)^neg * m * 2^e. -/
inductive XReal where
  | nan
  | inf (neg : Bool)
  | fin (neg : Bool) (m : Nat) (e : Int)
  deriving DecidableEq, Repr, Inhabited

/-- The exception classes of R109, as a mask in the order of EXCMODE.FLAGS (R110): bit 0 invalid, 1 divide-by-zero,
2 overflow, 3 underflow, 4 inexact, 5 integer divide-by-zero. -/
abbrev Raised := BitVec 6

def raisedNone : Raised := 0
def raisedInv : Raised := 1
def raisedDz : Raised := 2
def raisedOvf : Raised := 4
def raisedUnf : Raised := 8
def raisedInx : Raised := 16
def raisedIdz : Raised := 32

/-- The rounding modes of R60. -/
inductive RMode where
  | rne | rtz | rup | rdn
  deriving DecidableEq, Repr, Inhabited

def RMode.ofCode (c : BitVec 2) : RMode :=
  if c = 0 then .rne else if c = 1 then .rtz else if c = 2 then .rup else .rdn

/-- A rounded encoding and the classes its rounding raised. -/
structure Rounded where
  bits : Nat
  raised : Raised
  deriving DecidableEq, Repr, Inhabited

/-- The value an encoding stands for (R98). -/
def FType.decode (t : FType) (b : Nat) : XReal :=
  let neg := b.testBit (t.ebits + t.mbits)
  let f := b % 2 ^ t.mbits
  let e := b / 2 ^ t.mbits % 2 ^ t.ebits
  if t.ieee && e = 2 ^ t.ebits - 1 then (if f = 0 then .inf neg else .nan)
  else if t = .e4m3 && e = 15 && f = 7 then .nan
  else if e = 0 then .fin neg f (t.emin - t.mbits)
  else .fin neg (2 ^ t.mbits + f) ((e : Int) - t.bias - t.mbits)

/-- A subnormal encoding (R98). -/
def FType.subnormal (t : FType) (b : Nat) : Bool :=
  b / 2 ^ t.mbits % 2 ^ t.ebits == 0 && b % 2 ^ t.mbits != 0

/-- An operand as read: a subnormal of the four large types is zero of its sign under flush-to-zero (R108). -/
def FType.read (t : FType) (ftz : Bool) (b : Nat) : XReal :=
  if ftz && t.flushes && t.subnormal b then .fin (b.testBit (t.ebits + t.mbits)) 0 0 else t.decode b

/-- floor(log2 (m * 2^e)) for m not zero. -/
def dyadicLog2 (m : Nat) (e : Int) : Int := (Nat.log2 m : Int) + e

/-- m * 2^e in units of 2^qe: the integer part, and whether something is left of it (0 nothing, 1 below a half,
2 a half, 3 above). -/
def dyadicSplit (m : Nat) (e qe : Int) : Nat × Nat :=
  if qe ≤ e then (m * 2 ^ (e - qe).toNat, 0)
  else
    let k := (qe - e).toNat
    let r := m % 2 ^ k
    (m / 2 ^ k, if r = 0 then 0 else if 2 * r < 2 ^ k then 1 else if 2 * r = 2 ^ k then 2 else 3)

/-- The integer a rounding mode picks (R103). -/
def roundInt (mode : RMode) (neg : Bool) (q : Nat) (rest : Nat) : Nat :=
  match mode with
  | .rne => if rest = 3 || (rest = 2 && q % 2 = 1) then q + 1 else q
  | .rtz => q
  | .rup => if !neg && rest ≠ 0 then q + 1 else q
  | .rdn => if neg && rest ≠ 0 then q + 1 else q

/-- m1 * 2^e1 < m2 * 2^e2. -/
def dyadicLt (m1 : Nat) (e1 : Int) (m2 : Nat) (e2 : Int) : Bool :=
  if e1 ≤ e2 then decide (m1 < m2 * 2 ^ (e2 - e1).toNat) else decide (m1 * 2 ^ (e1 - e2).toNat < m2)

/-- The encoding of n * 2^qe, which the type holds exactly, without its sign; `ex` is the exponent R103 used. -/
def FType.encodeAbs (t : FType) (n : Nat) (ex : Int) : Nat :=
  -- n counts units of 2^(ex - mbits); a carry out of the fraction moves to the next exponent by itself
  if n < 2 ^ t.mbits then n else n + ((ex - t.emin).toNat) * 2 ^ t.mbits

/-- The overflow result of R104. -/
def FType.overflow (t : FType) (mode : RMode) (sat neg : Bool) : Nat :=
  let away := mode = .rne || (mode = .rup && !neg) || (mode = .rdn && neg)
  let sgn := if neg then 2 ^ (t.ebits + t.mbits) else 0
  if sat || !away then t.maxBits + sgn
  else if t.ieee then t.infBits + sgn
  else if t = .e4m3 then t.nanBits
  else t.maxBits + sgn

/-- The result of an exactly infinite value (R103, R106). -/
def FType.ofInf (t : FType) (sat neg : Bool) : Rounded :=
  let sgn := if neg then 2 ^ (t.ebits + t.mbits) else 0
  if t.ieee then ⟨(if sat then t.maxBits else t.infBits) + sgn, 0⟩
  else if t = .e4m3 then (if sat then ⟨t.maxBits + sgn, 0⟩ else ⟨t.nanBits, raisedInv⟩)
  else ⟨t.maxBits + sgn, if sat then 0 else raisedInv⟩

/-- round(v, T, mode, sat) of R103, with the flush of R108. -/
def FType.round (t : FType) (mode : RMode) (sat ftz : Bool) (v : XReal) : Rounded :=
  match v with
  | .nan => if t.hasNaN then ⟨t.nanBits, 0⟩ else ⟨0, raisedInv⟩
  | .inf neg => t.ofInf sat neg
  | .fin neg m e =>
      let sgn := if neg then 2 ^ (t.ebits + t.mbits) else 0
      if m = 0 then ⟨sgn, 0⟩
      else
        let lg := dyadicLog2 m e
        let ex := max lg t.emin
        let (q, rest) := dyadicSplit m e (ex - t.mbits)
        let n := roundInt mode neg q rest
        -- above the largest finite value
        let (mxm, mxe) := match t.decode t.maxBits with
          | .fin _ mm me => (mm, me)
          | _ => (0, 0)
        if dyadicLt mxm mxe n (ex - t.mbits) then ⟨t.overflow mode sat neg, raisedOvf ||| raisedInx⟩
        else
          let inx := rest ≠ 0
          let (uq, ur) := dyadicSplit m e (lg - t.mbits)
          let tiny := dyadicLt (roundInt mode neg uq ur) (lg - t.mbits) 1 t.emin
          let r0 : Raised := (if inx then raisedInx else 0) ||| (if inx && tiny then raisedUnf else 0)
          if ftz && t.flushes && n ≠ 0 && n < 2 ^ t.mbits then ⟨sgn, r0 ||| raisedUnf ||| raisedInx⟩
          else ⟨t.encodeAbs n ex + sgn, r0⟩

/-! ## Exact arithmetic with the exceptions of R109 -/

/-- An exact value and the classes its operation raised before rounding. -/
structure Exact where
  v : XReal
  raised : Raised
  deriving DecidableEq, Repr, Inhabited

def XReal.neg : XReal → XReal
  | .nan => .nan
  | .inf n => .inf !n
  | .fin n m e => .fin (!n) m e

def XReal.isNaN : XReal → Bool
  | .nan => true
  | _ => false

def XReal.isZero : XReal → Bool
  | .fin _ 0 _ => true
  | _ => false

/-- The signed integer (-1)^neg * m * 2^(e - lo). -/
def signedAt (neg : Bool) (m : Nat) (e lo : Int) : Int :=
  let k : Int := (m * 2 ^ (e - lo).toNat : Nat)
  if neg then -k else k

/-- Exact sum; a zero sum of opposite signs is +0, under RDN -0 (R100). -/
def xadd (mode : RMode) (x y : XReal) : Exact :=
  match x, y with
  | .nan, _ | _, .nan => ⟨.nan, 0⟩
  | .inf a, .inf b => if a = b then ⟨.inf a, 0⟩ else ⟨.nan, raisedInv⟩
  | .inf a, .fin _ _ _ => ⟨.inf a, 0⟩
  | .fin _ _ _, .inf b => ⟨.inf b, 0⟩
  | .fin a m e, .fin b n f =>
      if m = 0 && n = 0 then ⟨.fin (if a = b then a else mode = .rdn) 0 0, 0⟩
      else if m = 0 then ⟨.fin b n f, 0⟩
      else if n = 0 then ⟨.fin a m e, 0⟩
      else
        let lo := min e f
        let z := signedAt a m e lo + signedAt b n f lo
        if z = 0 then ⟨.fin (mode = .rdn) 0 0, 0⟩ else ⟨.fin (decide (z < 0)) z.natAbs lo, 0⟩

/-- Exact product; 0 times infinity is invalid (R109). -/
def xmul (x y : XReal) : Exact :=
  match x, y with
  | .nan, _ | _, .nan => ⟨.nan, 0⟩
  | .inf a, .inf b => ⟨.inf (a != b), 0⟩
  | .inf a, .fin b m _ => if m = 0 then ⟨.nan, raisedInv⟩ else ⟨.inf (a != b), 0⟩
  | .fin a m _, .inf b => if m = 0 then ⟨.nan, raisedInv⟩ else ⟨.inf (a != b), 0⟩
  | .fin a m e, .fin b n f => ⟨.fin (a != b) (m * n) (e + f), 0⟩

/-- Exact x * y + z; invalid of the product counts whatever the addend (R109). -/
def xfma (mode : RMode) (x y z : XReal) : Exact :=
  let p := xmul x y
  let r := xadd mode p.v z
  ⟨r.v, p.raised ||| r.raised⟩

/-- m / n with 80 quotient bits more than the operands' difference and a sticky bit. -/
def quotientSticky (m n : Nat) (e f : Int) : Nat × Int :=
  let k := 80 + Nat.log2 n
  let q := m * 2 ^ k / n
  let r := m * 2 ^ k % n
  (2 * q + (if r = 0 then 0 else 1), e - f - k - 1)

/-- Exact quotient (R109). -/
def xdiv (x y : XReal) : Exact :=
  match x, y with
  | .nan, _ | _, .nan => ⟨.nan, 0⟩
  | .inf _, .inf _ => ⟨.nan, raisedInv⟩
  | .inf a, .fin b _ _ => ⟨.inf (a != b), 0⟩
  | .fin a _ _, .inf b => ⟨.fin (a != b) 0 0, 0⟩
  | .fin a m e, .fin b n f =>
      if n = 0 then (if m = 0 then ⟨.nan, raisedInv⟩ else ⟨.inf (a != b), raisedDz⟩)
      else
        let (q, g) := quotientSticky m n e f
        ⟨.fin (a != b) q g, 0⟩

/-- Integer square root, bit by bit from bit `fuel` down. -/
def isqrtGo : Nat → Nat → Nat → Nat
  | 0, _, acc => acc
  | k + 1, n, acc =>
      let c := acc + 2 ^ k
      isqrtGo k n (if c * c ≤ n then c else acc)

def isqrt (n : Nat) : Nat := isqrtGo (Nat.log2 n / 2 + 1) n 0

/-- Exact square root with a sticky bit; below -0 it is invalid (R109, R149). -/
def xsqrt (x : XReal) : Exact :=
  match x with
  | .nan => ⟨.nan, 0⟩
  | .inf n => if n then ⟨.nan, raisedInv⟩ else ⟨.inf false, 0⟩
  | .fin n m e =>
      if m = 0 then ⟨.fin n 0 0, 0⟩
      else if n then ⟨.nan, raisedInv⟩
      else
        -- an even exponent, and 160 more bits
        let e' := if e % 2 = 0 then e else e - 1
        let m' := (if e % 2 = 0 then m else 2 * m) * 2 ^ 160
        let r := isqrt m'
        ⟨.fin false (2 * r + (if r * r = m' then 0 else 1)) (e' / 2 - 80 - 1), 0⟩

/-- Ordered comparison of two values that are no NaN: x < y. Zeros are equal. -/
def xlt (x y : XReal) : Bool :=
  match x, y with
  | .nan, _ | _, .nan => false
  | .inf a, .inf b => a && !b
  | .inf a, .fin _ _ _ => a
  | .fin _ _ _, .inf b => !b
  | .fin a m e, .fin b n f =>
      let lo := min e f
      decide (signedAt a m e lo < signedAt b n f lo)

def xeq (x y : XReal) : Bool := !x.isNaN && !y.isNaN && !xlt x y && !xlt y x

/-- -0 ordered below +0 (R150, R168): is x the lesser? -/
def xltTotal (x y : XReal) : Bool :=
  xlt x y || (xeq x y && (match x, y with
    | .fin true 0 _, .fin false 0 _ => true
    | _, _ => false))

/-! ## Integers -/

/-- The exact real of an integer. -/
def xint (z : Int) : XReal := .fin (decide (z < 0)) z.natAbs 0

/-- A real rounded to an integer under a mode (R107); NaN and infinity have none. -/
def xroundInt (mode : RMode) (v : XReal) : Option (Int × Bool) :=
  match v with
  | .fin n m e =>
      let (q, rest) := dyadicSplit m e 0
      let r := roundInt mode n q rest
      some (if n then -(r : Int) else r, rest ≠ 0)
  | _ => none

/-- Saturation to [lo, hi]. -/
def clampInt (lo hi z : Int) : Int := if z < lo then lo else if hi < z then hi else z

/-- Conversion of a real to an integer range (R107): the value and the classes raised. -/
def toIntSat (mode : RMode) (lo hi : Int) (v : XReal) : Int × Raised :=
  match v with
  | .nan => (0, raisedInv)
  | .inf n => (if n then lo else hi, raisedInv)
  | .fin _ _ _ =>
      match xroundInt mode v with
      | none => (0, raisedInv)
      | some (z, inx) => if z < lo ∨ hi < z then (clampInt lo hi z, raisedInv) else (z, if inx then raisedInx else 0)

/-- The low n bits of an integer. -/
def wrapInt (n : Nat) (z : Int) : Nat := (z % (2 ^ n : Nat)).toNat

/-- An n-bit pattern as a signed integer. -/
def asSigned (n b : Nat) : Int := if b % 2 ^ n < 2 ^ (n - 1) then (b % 2 ^ n : Nat) else (b % 2 ^ n : Nat) - (2 ^ n : Nat)

/-! ## Element types (R68) -/

def elemFType : ElemType → Option FType
  | .fp32 => some .fp32 | .bf16 => some .bf16 | .fp16 => some .fp16 | .e4m3 => some .e4m3 | .e5m2 => some .e5m2
  | .e3m2 => some .e3m2 | .e2m3 => some .e2m3 | .e2m1 => some .e2m1
  | _ => none

end Sys2Proof.Machine
end

