-- ==== Sys2Proof/WellFormed.lean ====
section
/-! DEFINITION. Well-formed instructions, bundles and node records: the terms that an encoding of 02_formats.md
stands for (R45-R57, R62-R72). -/

namespace Sys2Proof

/-- The instruction fills slot A. -/
def Instr.inSlotA (i : Instr) : Bool :=
  match i.enc with
  | .ar _ _ | .are _ _ | .ai _ _ | .ax _ _ => true
  | _ => false

/-- The instruction fills slot B. -/
def Instr.inSlotB (i : Instr) : Bool :=
  match i.enc with
  | .bo _ _ => true
  | _ => false

/-- The instruction is a node operation. -/
def Instr.isNode (i : Instr) : Bool :=
  match i.enc with
  | .node _ => true
  | _ => false

/-- The instruction is a machine event: it has no encoding. -/
def Instr.isEvent (i : Instr) : Bool :=
  match i.enc with
  | .none => true
  | _ => false

/-- An instruction of a bundle is well-formed when its entry accepts its fields (R56, R70). -/
def Instr.wf (i : Instr) : Bool := i.fieldsOk

/-- The opcode of an instruction, zero for an event. -/
def Instr.opc (i : Instr) : BitVec 10 :=
  match i.enc with
  | .ar c _ | .are c _ | .ai c _ | .ax c _ | .bo c _ | .node c => c
  | .none => 0

/-- The pair form holds slot A: no extension is needed and the form is not A-X (R45, R53-R55). -/
def Instr.fitsPair (i : Instr) : Bool :=
  match i.enc with
  | .ar _ _ => true
  | .are _ o => o.e == 0
  | .ai _ o => aiShort o.imm
  | _ => false

/-- A well-formed bundle (R45-R57, R70 rows 1 to 6). -/
def Bundle.wf (x : Bundle) : Bool :=
  x.a.inSlotA && x.a.wf &&
    (match x.b with
      | none => true
      | some (_, i) => i.inSlotB && i.wf && x.a.fitsPair && !needsEmptyB x.a.opc)

/-- The RND field agrees with the operation where the opcode has two rows of the table (TDEC, R390). -/
def NodeRecord.rndOk (x : NodeRecord) : Bool :=
  match x.op with
  | .tdecNode => !x.r.rnd.getLsbD 0
  | .tdecSelfNode => x.r.rnd.getLsbD 0
  | _ => true

/-- A well-formed node record (R62-R68, R72). -/
def NodeRecord.wf (x : NodeRecord) : Bool := x.op.isNode && nodeFieldsOk x.op x.r && x.rndOk

end Sys2Proof
end

