-- ==== Sys2Proof/Machine/State.lean ====
section
/-! DEFINITION. The state of the part as plain data, its reset value, the faults and refusals of the model.
Everything is held sparsely: a unit that a map does not list has the unit's reset value. Numbering is global:
die D = 16 * module + die, tile T = 256 * D + index, thread 8 * T + t, PE 16 * T + e, node slot
1024 * PE + entry, IO die 2 * module + i, task 262144 * D + index. -/

namespace Sys2Proof.Machine

/-- A sparse map: keys strictly rising. -/
abbrev SMap (α : Type) := List (Nat × α)

/-! ## Tokens -/

/-- One word of a token (R38, R39, R113): its payload, P and N, and whether its link carries 64-bit words; a
narrow word fills the low 32 bits, the others are zero. -/
structure TWord where
  w : Word
  p : Bool
  n : Bool
  wide : Bool
  deriving DecidableEq, Repr, Inhabited

/-- A token (R38, R39): its words run over consecutive F0; an E token has one word, the count (R215). -/
structure Token where
  tag : Word
  dest : BitVec 16
  words : List TWord
  eos : Bool
  deriving DecidableEq, Repr, Inhabited

/-- A token in a PE's input with the source that keeps its order (R198); a piece that was stopped passes its cause once (R462). -/
structure InTok where
  src : Nat
  tok : Token
  pass : Bool := false
  deriving DecidableEq, Repr, Inhabited

/-- One node firing: the entry it fires from, its tag, the port of the arrival that completed it, the taken words
of its ports; an E firing carries E with the count in `l` (R205, R215). `wait` is the sample of R470. -/
structure Firing where
  pe : Nat
  slot : Nat
  tag : Word
  port : Nat
  l : List TWord
  r : List TWord
  c : List TWord
  eos : Bool
  seq : Nat
  wait : Option Nat
  task : Nat
  node : NodeRecord
  deriving DecidableEq, Repr, Inhabited

/-- The level that holds a waiting entry (R201). -/
inductive Level where
  | matching | frame | overflow
  deriving DecidableEq, Repr, Inhabited

/-- What a waiting entry holds (R201, R202). -/
inductive WKind where
  /-- Unmatched words of one port. -/
  | operand
  /-- A WAVE word parked by the window (R224). -/
  | parkedWave
  /-- A loop instance: base, retired bitmap from the base, the exit iteration once closed (R223). -/
  | loop (base : Nat) (retired : List Nat) (exit : Option Nat)
  /-- The linkage of a called context: return tag and destination (R226). -/
  | linkage (retTag : Word) (retDest : BitVec 16)
  /-- A count: words counted, non-null arrivals, the count awaited or the accepted count, its P (R229, R354, R415). -/
  | count (n nonNull : Nat) (acc : Word) (p : Bool)
  /-- A contribution of ACOMB held whole (R355). -/
  | contribution
  /-- Held E tokens, oldest first: port, count and P (R215). -/
  | heldE (es : List (Nat × Nat × Bool))
  /-- The operands of a CALLT that waits for a context, and its place among the tile's waiting calls (R226). -/
  | callWait (f : Firing) (order : Nat)
  /-- The gathered words of a RUNPACK or ACOMB group, by F0 (R233, R355); the E that waits. -/
  | gathered (ws : List (Nat × TWord)) (endAt : Option (Nat × Bool))
  /-- COMMIT's group (R415): the next offset, the accepted count, the words that wait by offset, the E's count and P. -/
  | commit (k a : Nat) (ws : List (Nat × TWord × TWord)) (endAt : Option (Nat × Bool))
  /-- An arrival record: a piece that found the deep-lookup queue full, written unexamined, whether it is an E (R208). -/
  | arrival (eos : Bool)
  deriving DecidableEq, Repr, Inhabited

/-- A waiting entry (R201). -/
structure WEntry where
  kind : WKind
  slot : Nat
  port : Nat
  tag : Word
  words : List TWord
  seq : Nat
  /-- The cycle of its arrival (R470). -/
  cycle : Nat
  level : Level
  set : Nat
  bucket : Nat
  /-- Its way, its slot of the bucket, or its place in the overflow table. -/
  pos : Nat
  task : Nat
  deriving DecidableEq, Repr, Inhabited

/-- A piece in the deep-lookup queue with its arrival number and cycle; `record` is its place in the overflow table where it is an
arrival record (R208). -/
structure DeepPiece where
  set : Nat
  slot : Nat
  tok : Token
  seq : Nat
  task : Nat
  cycle : Nat
  record : Option Nat
  deriving DecidableEq, Repr, Inhabited

/-- An open run of a PE's packer (R213): where it goes, its token so far, the cycle of its last extension. -/
structure Packer where
  tok : Token
  remote : Option Nat
  cycle : Nat
  deriving DecidableEq, Repr, Inhabited

/-- A processing element (R20, R198-R213). -/
structure Pe where
  input : List InTok
  entries : List WEntry
  deep : List DeepPiece
  ready : List Firing
  packers : List Packer
  seq : Nat
  /-- The class being served and the firings it has had this round (R211). -/
  cls : Nat
  given : Nat
  /-- w_c - 1 of the four classes (R212). -/
  weights : List Nat
  fires : Nat
  /-- Ready firings that a watch has stopped: each passes its cause once (R462). -/
  passing : List Firing
  deriving DecidableEq, Repr, Inhabited

/-- An entry of a node store (R20, R62, R73-R75, R436). -/
structure NodeSlot where
  raw : BitVec 128
  task : Nat
  va : Nat
  blocked : Bool
  /-- The record that blocked it, zero for an element left empty at launch (R75, R76). -/
  bad : BitVec 128
  trapped : Bool
  discarded : Bool
  held : List Firing
  deriving DecidableEq, Repr, Inhabited

/-! ## Engine commands -/

/-- A command in an engine queue (R22, R276): who issued it, its number, the operation and the values of its
operand registers at issue; a matrix command keeps the shape word of its issue (R183). -/
structure EngCmd where
  th : Option Nat
  num : Nat
  op : Instr
  d : Word
  a : Word
  b : Word
  shape : Word
  /-- EXCMODE of the thread when the command entered the queue (R161), the issuing bundle's address (R158), and
  the registers an entry snapshots at issue (R417). -/
  exc : Word
  pc : Word
  aux : List Word
  task : Nat
  fir : Firing
  id : Nat
  deriving DecidableEq, Repr, Inhabited

/-! ## Sequencer threads -/

/-- A physical register a pending result writes (R121, R122). -/
inductive PReg where
  | none
  | g (i : Nat)
  | h (j : Nat)
  deriving DecidableEq, Repr, Inhabited

/-- A WAITF in progress (R147). -/
structure Wait where
  addr : Nat
  f : BitVec 6
  y : Word
  dest : PReg
  start : Nat
  timeout : Nat
  deriving DecidableEq, Repr, Inhabited

/-- The snapshot of a scope entry that an operation keeps (R310): its index, the image of a programmable entry and the
modules of its partition list (R308, R309). -/
structure ScopeSnap where
  idx : Nat
  image : List Byte
  mods : List Nat
  deriving DecidableEq, Repr, Inhabited

/-- A deferred fault that waits for row 1 of R119 (R132). -/
structure Deferred where
  code : Nat
  va : Word
  /-- The parked request that ERET resubmits; none where nothing is parked (R350, R317). -/
  req : Option Nat
  deriving DecidableEq, Repr, Inhabited

/-- A sequencer thread (R21, R122-R132, R276-R281, R403). -/
structure Thread where
  g : SMap Word
  h : SMap Word
  p : BitVec 8
  pc : Word
  running : Bool
  hnd : Bool
  uih : Bool
  pend : BitVec 32
  hpend : BitVec 8
  ldout : Nat
  round : Word
  excmode : Word
  trapcause : Word
  trappc : Word
  trapval : Word
  trapvec : Word
  trapscr : Word
  uivec : Word
  uistat : Word
  uitgt : SMap Word
  tlDone : SMap Word
  tlIssued : SMap Word
  tlOut : List (Nat × Word)
  err : SMap Word
  vocab : Word
  padlo : Word
  padhi : Word
  sxlmin : Word
  sxlmax : Word
  /-- The task whose allotment holds the thread. -/
  task : Option Nat
  wait : Option Wait
  deferred : List Deferred
  /-- The parked request of the deferred trap being handled (R133). -/
  taken : List Nat
  /-- Class 8 to 11 bundles wait until these requests are performed or, where marked, answered (R328, R342). -/
  fence : List (Nat × Bool)
  /-- The scope of a FENCE that waits, and whether it acquires once it need not wait (R312, R328). -/
  acquire : Option (ScopeSnap × Bool)
  /-- A line whose loads wait for a CFLUSH (R263), and the requests it waits for. -/
  flush : List (Nat × List Nat)
  preempt : Bool
  acked : Bool
  queues : SMap (List EngCmd)
  lastIssue : Nat
  order : Nat
  /-- A bundle that passes its debug cause once on resume (R462). -/
  pass : Bool
  /-- Its bundle is parked by a bank quota and has been traced (R247). -/
  bankPark : Bool
  deriving DecidableEq, Repr, Inhabited

/-- The reset values of a thread: those of R122-R129 and R403; where the spec gives none, zero (log 2). -/
def Thread.reset : Thread :=
  { g := [], h := [], p := 0, pc := 0, running := false, hnd := false, uih := false, pend := 0, hpend := 0,
    ldout := 0, round := 0, excmode := 0x0405, trapcause := 0, trappc := 0, trapval := 0, trapvec := 0,
    trapscr := 0, uivec := 0, uistat := 0, uitgt := [], tlDone := [], tlIssued := [], tlOut := [], err := [],
    vocab := 0xFFFFFFFF, padlo := 0, padhi := 0, sxlmin := 1, sxlmax := 64, task := none, wait := none,
    deferred := [], taken := [], fence := [], acquire := none, flush := [], preempt := false, acked := false, queues := [],
    lastIssue := 0, order := 0, pass := false, bankPark := false }

def Pe.reset : Pe :=
  { input := [], entries := [], deep := [], ready := [], packers := [], seq := 0, cls := 0, given := 0,
    weights := [], fires := 0, passing := [] }

/-! ## Memory requests -/

/-- Who waits for a request's answer. -/
inductive Who where
  /-- Nobody: a posted access. -/
  | none
  /-- A thread; the reply writes the register (R121). -/
  | thread (th : Nat) (dest : PReg) (counts : Bool)
  /-- RNGDRAW's register pair (R399). -/
  | threadPair (th : Nat) (d1 d2 : PReg)
  /-- A node firing: the reply becomes its result token (R267, R341). -/
  | node (f : Firing) (wave : Bool)
  /-- A combining switch, for the requesters of a bobbin (R346). -/
  | bobbin (b : Nat)
  /-- A command of a copy or gather engine of a tile (R270). -/
  | engine (tile id : Nat)
  deriving DecidableEq, Repr, Inhabited

/-- The atomic operations of class 10 (R338). -/
inductive AOp where
  | add | fadd | min | max | and | or | xor | swap | cas
  deriving DecidableEq, Repr, Inhabited

/-- An atomic request's operands (R338, R339): the operation, signedness, 64-bit width, v and the compare value e;
`ret` when it returns the old value; the REPRO key and group count (R351). -/
structure AtomArgs where
  op : AOp
  sg : Bool
  wide : Bool
  v : Word
  e : Word
  ret : Bool
  repro : Bool
  nocomb : Bool
  count : Nat
  key : List Nat
  deriving DecidableEq, Repr, Inhabited

/-- What a request asks for. -/
inductive ReqOp where
  | load (size : Nat) (sext : Bool)
  | store (size : Nat) (v : Word)
  | isread
  | iswrite (v : Word)
  | isclr (n avail : Nat)
  | pref
  | atomic (x : AtomArgs)
  | bar (n : Nat) (ph : Option (Nat × Nat))
  | barwait (p : Word)
  /-- An engine's read of n bytes into its chunk at an offset, or its write of bytes (R270). -/
  | eread (num off n : Nat)
  | ewrite (num : Nat) (bs : List Byte)
  | draw (seqPos drawKey : Word)
  /-- HISTRD's read of a profile word, with the counter's snapshot (R476). -/
  | histrd (c : Nat)
  | sxprop (slot : Nat) (w : Word) (regs : List Word)
  /-- An evaluated SXPROP: the pool address and the bytes that its reply brings (R405). -/
  | sxwords (a : Nat) (bs : List Byte)
  /-- TLBINV: its form and ASID (R446). -/
  | inval (form asid : Nat)
  | unit
  deriving DecidableEq, Repr, Inhabited

/-- Where a request stands. -/
inductive Stage where
  /-- In the admission queue, without a slot (R246, R247). -/
  | held
  /-- It holds a slot and its address is being translated (R244). -/
  | walk
  /-- Its packet is on its way (R290). -/
  | transit
  /-- At its region, not yet applied (R249). -/
  | region
  /-- Queued at its region: a deferred reader, a held barrier request, a REPRO contribution (R257, R321, R351). -/
  | queued
  /-- Refused for want of room; it is sent again at the cycle (R257, R321, R352, R406, R419). -/
  | refused (until_ : Nat)
  /-- A SCOPE_MISS reply is on its way (R314). -/
  | miss
  /-- A reply of class FLT to a combined request is on its way, with its code (R348). -/
  | flt (code : Nat)
  /-- Its answer is on its way, with its P. -/
  | reply (v : Word) (p : Bool)
  /-- Parked by a fault (R258, R259). -/
  | parked
  /-- Joined to another request's bobbin (R346). -/
  | joined
  /-- The packet of its answer was malformed and is discarded (R290). -/
  | lost
  deriving DecidableEq, Repr, Inhabited

/-- One outstanding request (R246-R259). -/
structure Req where
  id : Nat
  who : Who
  tile : Nat
  task : Nat
  asid : Nat
  op : ReqOp
  va : Word
  pool : Bool
  pa : Nat
  /-- The cache bank that serves it (R241). -/
  bank : Option Nat
  stage : Stage
  /-- It holds one of the tile's slots, and its number (R246, R316). -/
  slot : Bool
  slotNo : Nat
  /-- The scope snapshot, ORDER, and the requests its release waits for (R310, R342). -/
  snap : ScopeSnap
  after : List Nat
  order : Nat
  /-- The cycle its slot was taken (R290) and its issuer's order (R250, R259). -/
  cycle : Nat
  seq : Nat
  /-- Its place among the readers queued at a word, from 1, and its deferred-reader record (R255, R257). -/
  qpos : Nat
  recNo : Nat
  /-- The address of the bundle that issued it (R316). -/
  pc : Word
  /-- A parked request's place in its thread's program: the thread's order when its deferred trap was taken, 0 until then
  (R132, R250). -/
  since : Nat
  /-- REPLAY has resubmitted it: its wave number is done once it is performed (R253). -/
  again : Bool
  /-- The answer of a unit that has acted, for the resubmission of a request whose watchdog expired (R290). -/
  kept : Option Word := none
  deriving DecidableEq, Repr, Inhabited

/-! ## Packets -/

/-- A fault record on its way to a log (R425). -/
structure FaultRec where
  code : Nat
  die : Nat
  io : Bool
  tileByte : Nat
  unit : Nat
  flags : Nat
  node : Nat
  tag : Word
  task : Word
  cycle : Nat
  op0 : Word
  op1 : Word
  addr : Word
  deriving DecidableEq, Repr, Inhabited

/-- A trace record on its way to the ring (R467). -/
structure TraceRec where
  tile : Nat
  bytes : List Byte
  deriving DecidableEq, Repr, Inhabited

/-- What a packet carries (R30). -/
inductive PBody where
  | req (id : Nat)
  /-- A SEND token: its source tile, its target tile (R231). -/
  | token (from_ tile : Nat) (t : Token)
  | fault (r : FaultRec)
  | trace (r : TraceRec)
  | decrement (index amount : Nat)
  | data (kind : Nat) (args : List Nat)
  /-- The reply to a request, a write acknowledgement to a tile from a physical address and for a slot, the reply of class FLT to
  a request (R288, R289, R314, R348). -/
  | rsp (id : Nat)
  | ack (tile home slot : Nat)
  | flt (id : Nat)
  /-- Beats of a circuit between modules, and the credits that return (R287). -/
  | beats (circuit : Nat) (bs : List (BitVec 128))
  | credit (circuit n : Nat)
  deriving DecidableEq, Repr, Inhabited

/-- A link on which flits of a packet lie in the input buffer (R291): its two ends, and for each flit, the first to leave first,
whether it took a reserved place of its class. -/
structure Hop where
  prev : Nat
  at_ : Nat
  flits : List Bool
  deriving DecidableEq, Repr, Inhabited

/-- A packet (R30, R288-R295): its class and LEN; the place where its tail is or where its leg began, and where it goes (compute die
D as D, IO die n as 2^20 + n); the flits that have not left that place, and the links that its flits are on, its head first;
whether a link has corrupted it; its UALink port and number while it is in flight between IO dies. Of the switch port where its
head is queued (R345, R347): the cycle in which the port accepted it, the input port, whether it still is the switch of its cluster,
whether a join of it was refused there. -/
structure Packet where
  id : Nat
  cls : Nat
  len : Nat
  src : Nat
  at_ : Nat
  dst : Nat
  left : Nat
  worm : List Hop
  bad : Bool
  num : Option (Nat × Nat)
  came : Nat
  inp : Nat
  sw : Bool
  alone : Bool
  body : PBody
  deriving DecidableEq, Repr, Inhabited

/-! ## Tasks -/

/-- A scope-table entry 11 to 31 of a task on a tile (R305-R311). -/
structure ScopeEntry where
  live : Bool
  gen : Nat
  updating : Bool
  image : List Byte
  mods : List Nat
  deriving DecidableEq, Repr, Inhabited

/-- A held scope miss (R315, R317): the request, and its record's number once published. -/
structure Miss where
  req : Nat
  rcd : Option Nat
  deriving DecidableEq, Repr, Inhabited

/-- A task's state on one tile of its region (R182, R305, R315, R437). -/
structure TaskTile where
  /-- SHAPE0-7 by number; bit 63 is VALID. -/
  shapes : SMap Word
  scopes : SMap ScopeEntry
  missring : Word
  misses : List Miss
  /-- Records of the miss ring taken so far (R317). -/
  missHead : Nat
  ntrapctl : Word
  /-- The tile has signalled done (R379). -/
  done : Bool
  nodeBase : Nat
  /-- Lowest thread allotted and how many (R377). -/
  thrBase : Nat
  thrCount : Nat
  /-- First granule allotted (R377). -/
  granBase : Nat
  /-- The scope table of R305, 0 to 15. -/
  table : Nat
  ovfBase : Nat
  deriving DecidableEq, Repr, Inhabited

def TaskTile.reset : TaskTile :=
  { shapes := [], scopes := [], missring := 0, misses := [], missHead := 0, ntrapctl := 0, done := false, nodeBase := 0,
    thrBase := 0, thrCount := 0, granBase := 0, table := 0, ovfBase := 0 }

/-- A stream of a configuration (R93, R283, R319, R383): offsets of its ends, width, addresses, scopes; for a
graph-level stream its name, which end is this task's, and whether the other is on another die or module. -/
structure StreamDecl where
  fx : Nat
  fy : Nat
  tx : Nat
  ty : Nat
  width : Nat
  at_ : Option (BitVec 16)
  into_ : Option (BitVec 16)
  fromScope : Option Nat
  toScope : Option Nat
  graph : Option (Nat × Bool)
  pod : Bool
  deriving DecidableEq, Repr, Inhabited

/-- The fabric configuration of a task type beside its node image: roles of memory tiles (x, y, kind 0 buffer, 1
FIFO, 2 cache) and streams (R27, R92, R93). -/
structure FabricCfg where
  roles : List (Nat × Nat × Nat)
  streams : List StreamDecl
  deriving DecidableEq, Repr, Inhabited

/-- What the dispatcher holds of a reserved or started task beside its record (R371, R377-R381, R439). -/
structure TaskRun where
  /-- The type entry it was reserved with (R366). -/
  type : List Word
  asid : Nat
  plist : Nat
  /-- The cycle in which it joined its queue (R371, R372). -/
  since : Nat
  ctx : Nat
  tiles : SMap TaskTile
  /-- Operand prefetches not yet landed, parked ones and those that failed (R372, R373). -/
  prefetch : List Nat
  prefParked : List Nat
  /-- Energy it has returned (R448). -/
  returned : Nat
  stopping : Bool
  failed : Option Nat
  /-- Pre-emption in progress: none, or the save's or restore's area and phase (R439-R443). -/
  saving : Bool
  /-- A restore is replaying its ready firings (R234, R443). -/
  replaying : Bool
  /-- Its roles and streams (R92, R93). -/
  fabric : FabricCfg
  deriving DecidableEq, Repr, Inhabited

/-- A task record (R361); its state codes are those of R364. -/
structure TaskRec where
  hdr : Word
  succ : List (BitVec 24)
  opd : List HWord
  arg0 : Word
  arg1 : Word
  deriving DecidableEq, Repr, Inhabited

/-- A slot of task memory (R360). -/
inductive TaskSlot where
  | record (r : TaskRec)
  | cont (ws : List Word)
  deriving DecidableEq, Repr, Inhabited

/-- An instance-table entry (R368); `journal` is the command that made it (R382). -/
structure Inst where
  ending : Bool
  asid : Nat
  plist : Nat
  bufs : List Word
  live : Nat
  failed : Bool
  status : Word
  journal : Option (Nat × Nat)
  deriving DecidableEq, Repr, Inhabited

/-! ## Tiles -/

/-- A wave the wave sequencer tracks (R252-R254): its tag, task, the numbers done (with WSUCC and null), and the
operations that wait. -/
structure Wave where
  tag : Word
  task : Nat
  last : Option Nat
  done : List (Nat × Nat × Bool)
  waiting : List Firing
  admitted : Bool
  deriving DecidableEq, Repr, Inhabited

/-- A beat of a stream, 128 bits (R29, R284). -/
abbrev Beat := BitVec 128

/-- A stream port of a tile (R283-R287, R302, R438): inbound port j has key j, outbound port j key 16 + j. -/
structure Port where
  task : Nat
  circuit : Option Nat
  /-- The graph-level stream the port belongs to (R383). -/
  graph : Option Nat
  /-- Capture or delivery address; none at a sequencer end and on memory tiles (R283). -/
  addr : Option (BitVec 16)
  /-- The ring CHOPEN bound it to (R302): the thread, the ring word, the records transferred. -/
  ring : Option (Nat × Word × Nat)
  /-- Words of the token at the head already written to the ring. -/
  part : Nat
  /-- Credits an outbound port holds (R285). -/
  credits : Nat
  /-- Beats that wait to be sent, or that the inbound port holds. -/
  beats : List Beat
  deliv : Nat
  stop : Bool
  fifo : List Beat
  deriving DecidableEq, Repr, Inhabited

/-- A stream circuit (R29, R283): its ends as tile and port number, beats and credits in flight. -/
structure Circuit where
  src : Nat × Nat
  dst : Nat × Nat
  width : Nat
  wire : List Beat
  creds : Nat
  /-- The links it crosses (R292); it waits for its beats in flight before it takes another route. -/
  route : List Nat
  moving : Bool
  /-- It has lost its link (R293). -/
  broken : Bool
  deriving DecidableEq, Repr, Inhabited

/-- What follows a release once nothing is left to wait for: the acquire and the word of a fence (R332), a decrement
(R390), a tile's done signal (R379, R390), a proposal, a doorbell. -/
inductive FenceAct where
  | pass
  | decrement (die idx amount : Nat)
  | done
  /-- A batching proposal and the request that waits for its status (R413). -/
  | proposal (req : Nat) (delta : List Byte)
  /-- A doorbell: its number, its value, its issuer (R449). -/
  | doorbell (bell : Nat) (v who : Word)
  /-- A node's atomic or barrier request that waits for its release (R342). -/
  | scoped (req : Nat)
  /-- The loads before a node's acquiring request, which the later accesses of its context wait for (R324). -/
  | order
  deriving DecidableEq, Repr, Inhabited

/-- A release that waits (R324, R332, R390): the node's firing or the thread, the requests, fired wave operations and engine
commands before it, its scope, what follows. -/
structure NodeFence where
  fir : Firing
  th : Option Nat
  act : FenceAct
  reqs : List Nat
  /-- Wave operations before it that have fired and were not yet released (R253, R324). -/
  firs : List Firing
  cmds : List Nat
  snap : ScopeSnap
  deriving DecidableEq, Repr, Inhabited

/-- A held translation (R243, R245): its page's VA and size, the leaf's PA and rights. -/
structure TlbEntry where
  asid : Nat
  va : Nat
  size : Nat
  pa : Nat
  rd : Bool
  wr : Bool
  rc : Bool
  deriving DecidableEq, Repr, Inhabited

/-- A place an engine reads or writes: a pool address of a tile or a global VA. -/
structure Loc where
  pool : Bool
  tile : Nat
  a : Nat
  deriving DecidableEq, Repr, Inhabited

/-- A chunk (R272): n bytes from one place to others; `bad` is the address of a misaligned element (R300). -/
structure Chunk where
  src : Loc
  dsts : List Loc
  n : Nat
  bad : Option Nat
  deriving DecidableEq, Repr, Inhabited

/-- A translated piece of a chunk: in a tile's pool at `a`, or at most 128 bytes at the physical address `a` (R270); its VA,
its offset in the chunk. -/
structure EngPiece where
  pool : Bool
  tile : Nat
  a : Nat
  va : Nat
  n : Nat
  off : Nat
  deriving DecidableEq, Repr, Inhabited

/-- A chunk that has passed its checks: its number, what has still to be read and to be written, its bytes, and why a read of it
failed. -/
structure EngMove where
  num : Nat
  reads : List EngPiece
  writes : List EngPiece
  data : List Byte
  bad : Option (Nat × Nat)
  deriving DecidableEq, Repr, Inhabited

/-- A command in progress at a copy or gather engine (R270, R272): the chunks not yet begun and the number of the first, those
begun, why it stops (chunk, code, address), whether the bank quota holds it and it has been traced, whether it is over, and the
bytes of words of which only the first part has come: they wait to be written with the rest of their word (R271). -/
structure EngJob where
  cmd : EngCmd
  xs : List Chunk
  next : Nat
  moves : List EngMove
  stop : Option (Nat × Nat × Nat)
  held : Bool
  over_ : Bool
  tails : List (EngPiece × List Byte)
  deriving DecidableEq, Repr, Inhabited

/-- The order in which node firings of a tile reach a node-source queue of an engine (R179, R269): those that found it full, in
firing order, with whether a part of their run has entered; the cycle and the PE of the last that came. -/
structure Places where
  held : List (Firing × Bool)
  cycle : Nat
  pe : Nat
  deriving DecidableEq, Repr, Inhabited

def Places.reset : Places := { held := [], cycle := 0, pe := 0 }

/-- A tile (R24-R27, R156, R178, R238, R269, R434, R435, R463). -/
structure Tile where
  poolpart : Word
  owners : SMap Nat
  mrole : Nat
  fill : Option Nat
  testctl : Word
  testsum : Word
  repair : SMap Word
  /-- Live contexts and the task that holds each; ids whose FLOW_STATE record is written (R216, R217). -/
  ctx : SMap Nat
  ctxRec : List Nat
  /-- The instance of the task that held an id last (R218). -/
  ctxLast : SMap Word
  /-- The vector engine: the thread served last, the command it runs (R156). -/
  vecLast : Nat
  vecRun : Option EngCmd
  /-- The matrix engine: node source queue, sequencer source queue, who is served next, operations done but not
  complete (R178, R179). -/
  mtxNode : List EngCmd
  mtxSeq : List EngCmd
  mtxSeqNext : Bool
  mtxRun : List EngCmd
  mtxLast : Nat
  /-- The places before the node-source queues of the copy (0), matrix (2) and gather (3) engine. -/
  places : SMap Places
  /-- The copy and gather engines (R269, R270). -/
  copyNode : List EngCmd
  copySeqNext : Bool
  copyLast : Nat
  gathNode : List EngCmd
  gathSeqNext : Bool
  gathLast : Nat
  engRun : List EngJob
  /-- Parked engine commands of nodes (R274); `aux` holds the chunks done, and 1 once REPLAY has let it go on. -/
  engParked : List EngCmd
  waves : List Wave
  fences : List NodeFence
  /-- Marked scope entries that are not yet acknowledged: task and entry (R311). -/
  marks : List (Nat × Nat)
  /-- Lines of a cache bank, by physical line address, the most recently used last (R241). -/
  cache : List (Nat × List Byte)
  /-- The micro-TLB, 64 entries, the last used last (R245). -/
  tlb : List TlbEntry
  ports : SMap Port
  /-- Debug registers by their offset (R463). -/
  dbg : SMap Word
  /-- Trace sequence number and LOSS (R467). -/
  cseq : Nat
  loss : Bool
  deriving DecidableEq, Repr, Inhabited

def Tile.reset : Tile :=
  { poolpart := 0, owners := [], mrole := 0, fill := none, testctl := 0, testsum := 0, repair := [], ctx := [],
    ctxRec := [], ctxLast := [], vecLast := 7, vecRun := none, mtxNode := [], mtxSeq := [], mtxSeqNext := false, mtxRun := [],
    mtxLast := 7, places := [], copyNode := [], copySeqNext := false, copyLast := 7, gathNode := [], gathSeqNext := false,
    gathLast := 7, engRun := [], engParked := [], waves := [], fences := [], marks := [], cache := [], tlb := [], ports := [], dbg := [], cseq := 0, loss := false }

/-- A tile's block of a save area (R442), as what its bytes stand for: offset from the anchor, kind (0 compute, 1 buffer, 2 token FIFO, 3
cache bank), node records by PE and
number, waiting entries, deep pieces, ready firings, weights and firing counts by PE, ports, memory by pool or SRAM
address, state codes and poisoned words by word, threads by number from the base, the task's state there, context ids,
parked requests, waves, parked engine commands. -/
structure SavedTile where
  off : Nat × Nat
  kind : Nat
  nodes : List (Nat × Nat × NodeSlot)
  pes : List Pe
  ports : SMap Port
  mem : List (Nat × Byte)
  sstate : List (Nat × Nat)
  ecc : List Nat
  threads : List Thread
  tile : TaskTile
  ctx : List Nat
  reqs : List Req
  waves : List Wave
  cmds : List EngCmd
  deriving DecidableEq, Repr, Inhabited

/-- A saved task (R442): what the bytes of its area stand for. -/
structure Saved where
  inst : Word
  task : TaskRec
  type : List Word
  classS : Bool
  run : TaskRun
  tiles : List SavedTile
  deriving DecidableEq, Repr, Inhabited

/-! ## Dies -/

/-- An AREA placement: offset in the die's DRAM and length (R426, R402, R449, R456). -/
structure Area where
  base : Nat
  len : Nat
  deriving DecidableEq, Repr, Inhabited

/-- An open pricking slot (R401): its arena lies at an offset of the die's DRAM (R402); `rebuild` names the SXLOAD that
rebuilds its index (R409). -/
structure PSlot where
  arena : Nat
  rebuild : Option (Nat × List Byte)
  asid : Nat
  cap : Nat
  w : Nat
  base : Nat
  count : Nat
  hist : List HWord
  held : List (Nat × HWord)
  mlen : Nat
  mpos : Nat
  lastn : Nat
  lastcut : Bool
  deriving DecidableEq, Repr, Inhabited

/-- An update of a scope entry at the task's dispatcher (R311): who issued it, what it installs (none kills), whether
the installs have been sent, and the tiles that have still to acknowledge. -/
structure ScopeUpd where
  task : Nat
  entry : Nat
  th : Nat
  dest : PReg
  set : Option (List Byte × List Nat)
  begun : Bool
  installing : Bool
  waits : List Nat
  gen : Nat
  deriving DecidableEq, Repr, Inhabited

/-- A save in progress (R440, R441): the task, its phase (0 accepted, 1 threads stopping, 2 a class S save whose threads
have acknowledged), where its area lies and whose address space that is, the cycle of its first step, the journal entry
that asked. -/
structure SaveJob where
  task : Nat
  phase : Nat
  die : Nat
  asid : Nat
  area : Nat
  start : Nat
  journal : Option (Nat × Nat)
  deriving DecidableEq, Repr, Inhabited

/-- A restore in progress (R443): the task, the area, the new anchor. -/
structure LoadJob where
  task : Nat
  die : Nat
  asid : Nat
  area : Nat
  ax : Nat
  ay : Nat
  journal : Option (Nat × Nat)
  deriving DecidableEq, Repr, Inhabited

/-- What the coordinator has in flight (R413): 0 a proposal that has not left, 1 a proposal sent, 2 a proposal that every
replica has prepared, 3 a commit sent; its iteration and delta, the request that waits, replicas that have still to
answer, reasons given, the cycle it was sent. -/
structure BtTxn where
  phase : Nat
  iter : Nat
  delta : List Byte
  req : Nat
  waits : List Nat
  reasons : List (Nat × Nat)
  start : Nat
  deriving DecidableEq, Repr, Inhabited

/-- A compute die (R15, R19, R360-R377, R401-R419, R426, R449, R459-R471). -/
structure Die where
  cycle : Nat
  roots : SMap (Nat × Bool)
  tlb : List TlbEntry
  tasks : SMap TaskSlot
  types : SMap (List Word)
  insts : SMap Inst
  pending : SMap (List Nat)
  ready : SMap (List Nat)
  runs : SMap TaskRun
  /-- MS.EBUDGET.BUDGET and MS.EREMAIN.REMAIN; none is the fused budget (R376). -/
  budget : Option Nat
  remain : Option Nat
  /-- The head that has the window alone: its priority, and its index until it leaves its queue (R375). -/
  exq : Option (Nat × Option Nat)
  /-- Heads held for energy in this window, windows held in a row by index, the number of the window (R375). -/
  heldNow : List Nat
  window : Nat
  updates : List ScopeUpd
  heldWin : SMap Nat
  fltlost : Nat
  fltloss : Bool
  log : Option Area
  overflow : Option Area
  arena : Option Area
  doorbell : Option Area
  pslots : SMap PSlot
  keys : SMap (List Byte)
  btgrp : Nat
  iter : Nat
  btab : SMap (List Byte)
  /-- The dies of the replica set by replica index (R410). -/
  btset : List Nat
  btPrepared : Option (Nat × List Byte)
  btTxn : Option BtTxn
  trbase : Word
  trsize : Word
  trtail : Word
  trhead : Word
  trlost : Word
  frozen : List Nat
  /-- The cycle since which some cluster of the die is frozen (R461; model's own). -/
  froze : Nat
  /-- Of each frozen cluster: the cycle of its cause, and the place of that cause in the order of R462. -/
  frozeAt : SMap (Nat × Nat)
  sbaddr : Word
  sbstat : Word
  /-- The slot and word 0 of a node record whose word 1 is still to be written (R471). -/
  sbhold : Option (Nat × Word)
  /-- What the last read of SBDATA answered. -/
  sbdata : Word
  saves : List SaveJob
  loads : List LoadJob
  tripped : Bool
  /-- The current governor's limit in ampere and the trip point in degrees, as the firmware has lowered them (R459). -/
  governor : Nat
  tripPoint : Nat
  /-- Graph-level streams whose consumer has completed before their producer starts (R383). -/
  gone : List Nat
  deriving DecidableEq, Repr, Inhabited

def Die.reset : Die :=
  { cycle := 0, roots := [], tlb := [], tasks := [], types := [], insts := [], pending := [],
    ready := [], runs := [], budget := none, remain := none, exq := none, heldNow := [], window := 0, updates := [], heldWin := [], fltlost := 0, fltloss := false,
    log := none, overflow := none, arena := none, doorbell := none, pslots := [], keys := [], 
    btgrp := 0, iter := 0, btab := [], btset := [], btPrepared := none, btTxn := none, trbase := 0, trsize := 0, trtail := 0,
    trhead := 0, trlost := 0, frozen := [], froze := 0, frozeAt := [], sbaddr := 0, sbstat := 0, sbhold := none, sbdata := 0, saves := [], loads := [], tripped := false,
    governor := 1875, tripPoint := 110, gone := [] }

/-! ## Combining switches and reproducible groups -/

/-- An identity and operand of a bobbin (R346): the request, its operand, the cycle in which the port accepted it, its input port. -/
structure Identity where
  id : Nat
  v : Word
  came : Nat
  port : Nat
  deriving DecidableEq, Repr, Inhabited

/-- A bobbin of a combining switch (R345-R349): its level (0 cluster, 1 die, 2 IO die), place and output port, the
combined request, the requesters in serial order, and what its ECC has lost. -/
structure Bobbin where
  level : Nat
  loc : Nat
  port : Nat
  creq : Nat
  reqs : List Identity
  lost : Bool
  lostIds : List Nat
  deriving DecidableEq, Repr, Inhabited

/-- A contribution held for a reproducible group (R351): region, location, count, key, value, the AFADD that waits for
its reply, the region's die and tile byte, the cycle of its arrival. -/
structure Contrib where
  region : Nat × Nat
  pa : Nat
  n : Nat
  key : List Nat
  v : Word
  wide : Bool
  req : Option Nat
  cycle : Nat
  deriving DecidableEq, Repr, Inhabited

/-! ## Modules and IO dies -/

/-- A journal entry that has been accepted and has not finished (R454-R457): the copy of its 128 bytes, its state, and
what its command waits for. -/
structure JEntry where
  bytes : List Byte
  state : Nat
  aux : List Nat
  deriving DecidableEq, Repr, Inhabited

/-- A module: its journal, partition, keys and firmware (R309, R451-R458). -/
structure Module where
  head : Nat
  done : Nat
  entries : SMap JEntry
  plists : SMap (List Nat)
  filter : List Nat
  accels : List Nat
  epoch : Nat
  ownerKey : Option (List Byte)
  measure : List Byte
  mlog : List (List Byte)
  firmware : SMap Nat
  reports : List (List Nat)
  powered : Bool
  deriving DecidableEq, Repr, Inhabited

def Module.reset : Module :=
  { head := 0, done := 0, entries := [], plists := [], filter := [], accels := [], epoch := 0, ownerKey := none,
    measure := List.replicate 32 0, mlog := [], firmware := [], reports := [], powered := true }

/-- An IO die (R12, R294, R295, R453): UALink ports by their state (1 live), packets numbered so far by port and receiving IO
die, chunks received, DMA windows. -/
structure Io where
  ports : SMap Nat
  sent : SMap Nat
  chunks : List (Nat × Nat × Nat × List Byte)
  windows : SMap (Nat × Nat)
  deriving DecidableEq, Repr, Inhabited

def Io.reset : Io := { ports := [], sent := [], chunks := [], windows := [] }

/-! ## The whole part -/

/-- Who is moving: the thread whose bundle issues and that bundle, or the firing that runs (model's own). -/
structure Cur where
  th : Nat
  pc : Word
  word : Word
  slotB : Bool
  /-- The descriptors slot B reads: register values as they stood before the bundle (R49). -/
  desc : Option (Word × Word × Word)
  trapped : Bool
  held : Bool
  fir : Firing
  deriving DecidableEq, Repr, Inhabited

/-- Who moves in a step (model's own): a thread in a cycle it owns, a PE that fires a ready node, a machine event,
or a store by the world outside the compute dies. -/
inductive Turn where
  | thread (th : Nat)
  | fire (pe : Nat)
  | event (i : Instr)
  | outside (addr : Nat) (data : List Byte)
  deriving DecidableEq, Repr, Inhabited

/-- The state of the part. -/
structure State where
  tick : Nat
  agenda : List Turn
  cur : Cur
  nextId : Nat
  mem : List Host.Cell
  /-- State codes of 64-bit words of buffer tiles by memory key / 8; 3, PLAIN, where not listed (R255). -/
  sstate : SMap Nat
  /-- Poisoned 64-bit words by memory key / 8 (R429). -/
  ecc : List Nat
  /-- Defective pool cells by memory key: the bits stuck at 1 and those stuck at 0 (R502). -/
  stuck : SMap (Byte × Byte)
  threads : SMap Thread
  pes : SMap Pe
  nodes : SMap NodeSlot
  tiles : SMap Tile
  dies : SMap Die
  modules : SMap Module
  ios : SMap Io
  bobbins : SMap Bobbin
  contribs : List Contrib
  circuits : SMap Circuit
  /-- What the save areas written so far stand for (log 13). -/
  images : List Saved
  /-- Withdrawn links; flits of input buffer retired by link and direction (R292). -/
  withdrawn : List Nat
  retired : SMap Nat
  reqs : List Req
  net : List Packet
  deriving DecidableEq, Repr, Inhabited

/-- The model's faults. No step of the part stops the machine: every trap, record and refusal of the spec is a next
state, so nothing raises this. -/
inductive Fault where
  /-- Raised by nobody; safe. -/
  | machineCheck
  deriving DecidableEq, Repr, Inhabited

/-- The model's refusals. -/
inductive Refusal where
  /-- Raised by an arm of `exec` whose instruction has no meaning yet; safe, the machine stops. -/
  | notModelled (mnemonic : String)
  deriving DecidableEq, Repr, Inhabited

def Cur.reset : Cur :=
  { th := 0, pc := 0, word := 0, slotB := false, desc := none, trapped := false, held := false, fir := default }

/-- The part right after reset: no task runs, every register has its reset value, memory lists nothing. -/
def State.reset : State :=
  { tick := 0, agenda := [], cur := Cur.reset, nextId := 0, mem := [], sstate := [], ecc := [], stuck := [], threads := [], pes := [], nodes := [],
    tiles := [], dies := [], modules := [], ios := [], bobbins := [], contribs := [], circuits := [], images := [], withdrawn := [], retired := [], reqs := [], net := [] }

end Sys2Proof.Machine
end

