-- ==== Sys2Proof/Config.lean ====
section
/-! DEFINITION. What an implementation fixes and the free values: constants without a body, so that no proof
sees a value of them. Each is applied to the step counter or to the operands it depends on. -/

namespace Sys2Proof.Config

/-- Who moves next when the agenda is empty (log 4): any mover at any step. -/
opaque freeTurn : Nat → Machine.Turn

/-- Cycles that pass on a die before a step (log 6). -/
opaque elapse : Nat → Nat → Nat

/-- A free number of a step: which held translation, victim, slot or byte (log 4). The second argument tells
several free numbers of one step apart. -/
opaque freeNat : Nat → Nat → Nat

/-- How a record's bytes 32 to 39 name a pricking slot, a position and an id (R404, log 14). -/
opaque sxNames (slot q v : Nat) : Nat

/-- The roles and streams that the configuration loader finds for a task type (log 9): the step counter, the die, the
type number. -/
opaque fabric : Nat → Nat → Nat → Machine.FabricCfg

/-- The links of a route that the circuit router chooses for a circuit (log 9): the step counter, the circuit. -/
opaque circuitRoute : Nat → Nat → List Nat

/-- The fused maximum energy budget of a die in nJ per window (R376). -/
opaque fuse : Nat → Nat

/-- An argument of a journal command other than INST, whose entry's layout the spec does not give (log 15): the command's
code, the bytes of its entry, which argument. -/
opaque journalArg : Nat → List Byte → Nat → Nat

/-- The fused digest of the vendor's key slot (R451). -/
opaque vendorKey : List Byte

/-- The signature of a module's fused attestation key on some bytes (R452). -/
opaque attestation : Nat → List Byte → List Byte

/-- The last fused firmware versions by type (R451). -/
opaque fuseVersion : Nat → Nat

/-- The result bits of a special function where 700 fraction bits do not decide its rounding (log 7): function code
and operand bits. -/
opaque hardSfu : Nat → Nat → Nat

/-- What a non-Jequa accelerator's memory answers (log 10): the step counter, the address. -/
opaque peerByte : Nat → Nat → Byte

end Sys2Proof.Config
end

