-- ==== Sys2Proof/Machine/Ops.lean ====
section
/-! DEFINITION. The named operations over the state: sparse maps, memory, threads and their registers, fault
records, taking a trap and returning from one (05_scalar_class.md R122, R130-R133). -/

namespace Sys2Proof.Machine

/-- What a step answers. -/
abbrev Out := Host.Outcome State Fault Refusal

/-! ## Sparse maps -/

/-- The value at a key, or the default. -/
def mapGet {α : Type} (d : α) : SMap α → Nat → α
  | [], _ => d
  | (k, v) :: m, n => if k = n then v else mapGet d m n

def mapFind? {α : Type} : SMap α → Nat → Option α
  | [], _ => none
  | (k, v) :: m, n => if k = n then some v else mapFind? m n

/-- Put a value at a key, the keys staying sorted. -/
def mapPut {α : Type} (n : Nat) (v : α) : SMap α → SMap α
  | [] => [(n, v)]
  | (k, w) :: m => if n < k then (n, v) :: (k, w) :: m else if n = k then (n, v) :: m else (k, w) :: mapPut n v m

def mapDel {α : Type} (n : Nat) (m : SMap α) : SMap α := m.filter fun x => x.1 ≠ n

/-- Put a word, an entry equal to the default being dropped, so that equal contents are equal data. -/
def wordPut (n : Nat) (v : Word) (m : SMap Word) : SMap Word :=
  if v = 0 then mapDel n m else mapPut n v m

/-! ## Memory -/

/-- The byte an unlisted address reads as (log 1). -/
def unlisted : Byte := 0

/-- The byte at an address. -/
def memRead : List Host.Cell → Nat → Byte
  | [], _ => unlisted
  | (k, b) :: m, a => if k = a then b else memRead m a

/-- The list without the address. -/
def memErase (a : Nat) : List Host.Cell → List Host.Cell
  | [] => []
  | (k, b) :: m => if k = a then m else if a < k then (k, b) :: m else (k, b) :: memErase a m

/-- The list with the byte at the address, its place in the order kept. -/
def memInsert (a : Nat) (v : Byte) : List Host.Cell → List Host.Cell
  | [] => [(a, v)]
  | (k, b) :: m => if a < k then (a, v) :: (k, b) :: m else if a = k then (a, v) :: m else (k, b) :: memInsert a v m

/-- Write one byte; the form stays canonical. -/
def memWrite (a : Nat) (v : Byte) (m : List Host.Cell) : List Host.Cell :=
  if v = unlisted then memErase a m else memInsert a v m

/-- The canonical form: addresses strictly rising, no byte equal to the unlisted one. -/
def memWf : List Host.Cell → Bool
  | [] => true
  | [(_, b)] => b != unlisted
  | (k, b) :: (k', b') :: m => b != unlisted && decide (k < k') && memWf ((k', b') :: m)

/-- Write bytes at consecutive addresses. -/
def memWriteAll (a : Nat) : List Byte → List Host.Cell → List Host.Cell
  | [], m => m
  | b :: bs, m => memWriteAll (a + 1) bs (memWrite a b m)

/-- n bytes from an address. -/
def memReadAll (m : List Host.Cell) (a n : Nat) : List Byte := (List.range n).map fun i => memRead m (a + i)

def State.readByte (s : State) (a : Nat) : Byte := memRead s.mem a

/-- n bytes as a little-endian number (R2). -/
def State.readNat (s : State) (a n : Nat) : Nat := bytesToNat (memReadAll s.mem a n)

def State.readWord (s : State) (a : Nat) : Word := BitVec.ofNat 64 (s.readNat a 8)

/-- A store of a whole word clears its poison (R429). -/
def State.clearEcc (s : State) (key n : Nat) : State :=
  { s with ecc := s.ecc.filter fun w => !(decide (key ≤ 8 * w) && decide (8 * w + 8 ≤ key + n)) }

/-- Write bytes: memory, and the poison of the words wholly written (R429). -/
def State.writeBytes (s : State) (a : Nat) (bs : List Byte) : State :=
  ({ s with mem := memWriteAll a bs s.mem } : State).clearEcc a bs.length

/-- Write the low n bytes of a number. -/
def State.writeNat (s : State) (a n v : Nat) : State := s.writeBytes a (natToBytes n v)

/-! ## Places (R13, R16, R17, R236, R237) -/

def dieOfTile (t : Nat) : Nat := t / 256
def tileIdx (t : Nat) : Nat := t % 256
def tileX (t : Nat) : Nat := t % 16
def tileY (t : Nat) : Nat := t % 256 / 16

/-- A memory tile: x + y is odd (R16). -/
def isMemTile (t : Nat) : Bool := (tileX t + tileY t) % 2 == 1

/-- Cluster number (R17). -/
def clusterOf (t : Nat) : Nat := 4 * (tileY t / 4) + tileX t / 4

def moduleOfDie (d : Nat) : Nat := d / 16
def tileOfThread (th : Nat) : Nat := th / 8
def numOfThread (th : Nat) : Nat := th % 8
def tileOfPe (pe : Nat) : Nat := pe / 16

/-- The tiles edge-adjacent to one (R18). -/
def adjacent (t : Nat) : List Nat :=
  let b := t - tileIdx t
  (if 0 < tileX t then [t - 1] else []) ++ (if tileX t < 15 then [t + 1] else []) ++
    (if 0 < tileY t then [b + tileIdx t - 16] else []) ++ (if tileY t < 15 then [b + tileIdx t + 16] else [])

/-- Memory key of byte a of a tile's own SRAM: the aperture window of its index (R236; log 3). -/
def sramKey (t a : Nat) : Nat := dieOfTile t * 2 ^ 40 + 0xF000000000 + tileIdx t * 0x400000 + a

/-! ## Units of the state -/

def State.thread (s : State) (th : Nat) : Thread := mapGet Thread.reset s.threads th
def State.setThread (s : State) (th : Nat) (t : Thread) : State := { s with threads := mapPut th t s.threads }
def State.modThread (s : State) (th : Nat) (f : Thread → Thread) : State := s.setThread th (f (s.thread th))

def State.pe (s : State) (p : Nat) : Pe := mapGet Pe.reset s.pes p
def State.setPe (s : State) (p : Nat) (x : Pe) : State := { s with pes := mapPut p x s.pes }
def State.modPe (s : State) (p : Nat) (f : Pe → Pe) : State := s.setPe p (f (s.pe p))

def State.tile (s : State) (t : Nat) : Tile := mapGet Tile.reset s.tiles t
def State.setTile (s : State) (t : Nat) (x : Tile) : State := { s with tiles := mapPut t x s.tiles }
def State.modTile (s : State) (t : Nat) (f : Tile → Tile) : State := s.setTile t (f (s.tile t))

/-- Cycles that die d's own clock has counted in the first n steps; no two dies count alike (R15, log 6). -/
def countOf (d : Nat) : Nat → Nat
  | 0 => 0
  | n + 1 => countOf d n + Config.elapse n d

/-- A die; one that nothing has touched still counts its cycles. -/
def State.die (s : State) (d : Nat) : Die := mapGet { Die.reset with cycle := countOf d s.tick } s.dies d
def State.setDie (s : State) (d : Nat) (x : Die) : State := { s with dies := mapPut d x s.dies }
def State.modDie (s : State) (d : Nat) (f : Die → Die) : State := s.setDie d (f (s.die d))

/-- The die cycle a tile sees (R15, R126). -/
def State.cycleOf (s : State) (t : Nat) : Nat := (s.die (dieOfTile t)).cycle

/-- A fresh identity. -/
def State.fresh (s : State) : State := { s with nextId := s.nextId + 1 }

/-! ## Repaired pool rows (R237, R435) -/

/-- The valid repair entry of lowest s that names a row of a bank. -/
def repairSpare (rep : SMap Word) (bank row : Nat) : Option Nat :=
  (List.range 4).find? fun k =>
    let v := mapGet 0 rep (4 * bank + k)
    v.getLsbD 10 && (v.extractLsb' 0 10).toNat == row

/-- The memory key a pool byte is served from. -/
def poolKey (s : State) (t a : Nat) : Nat :=
  if isMemTile t then sramKey t a
  else
    match repairSpare (s.tile t).repair (a / 64 % 32) (a / 2048) with
    | none => sramKey t a
    | some k => sramKey t (0x200000 + (a / 64 % 32 * 4 + k) * 64 + a % 64)

/-- What a cell gives of the byte stored in it: its defective bits read as they are stuck (R502, R505). -/
def State.stuckByte (s : State) (key : Nat) (b : Byte) : Byte :=
  let x := mapGet (0, 0) s.stuck key
  (b ||| x.1) &&& ~~~x.2

/-- Memory key of a byte of a row of a pool bank; the rows from 1,024 are the bank's spares (R237, R435). -/
def cellKey (t bank row i : Nat) : Nat :=
  let b := bank % 32
  if row < 1024 then sramKey t (row * 2048 + b * 64 + i % 64) else sramKey t (0x200000 + (b * 4 + row % 4) * 64 + i % 64)

/-- Every cell that reads otherwise than zero, with what it reads as (R502). -/
def State.cells (s : State) : List (Nat × Byte) :=
  (s.mem.map fun c => (c.1, s.stuckByte c.1 c.2)) ++
    (s.stuck.filter fun x => memRead s.mem x.1 == unlisted).map fun x => (x.1, s.stuckByte x.1 unlisted)

def State.poolByte (s : State) (t a : Nat) : Byte := s.stuckByte (poolKey s t a) (s.readByte (poolKey s t a))

/-- n pool bytes. -/
def State.poolBytes (s : State) (t a n : Nat) : List Byte := (List.range n).map fun i => s.poolByte t (a + i)

def State.poolNat (s : State) (t a n : Nat) : Nat := bytesToNat (s.poolBytes t a n)

/-- The pool address that a memory key of a tile serves now. -/
def State.poolAddr? (s : State) (t key : Nat) : Option Nat :=
  let off := key - sramKey t 0
  let rep := (s.tile t).repair
  if key < sramKey t 0 ∨ 0x400000 ≤ off then none
  else if isMemTile t then some off
  else if off < 0x200000 then if (repairSpare rep (off / 64 % 32) (off / 2048)).isNone then some off else none
  else
    let i := (off - 0x200000) / 64
    let row := ((mapGet 0 rep i).extractLsb' 0 10).toNat
    if i < 128 ∧ repairSpare rep (i / 4) row = some (i % 4) then some (row * 2048 + i / 4 * 64 + off % 64) else none

/-- Whole words of a pool range are written: their poison is gone (R429). -/
def State.poolClear (s : State) (t a n : Nat) : State :=
  { s with ecc := s.ecc.filter fun (w : Nat) => match s.poolAddr? t (8 * w) with
      | some x => !decide (a ≤ x ∧ x + 8 ≤ a + n)
      | none => true }

/-- Write pool bytes, each where its row is served. -/
def poolWriteGo (t a : Nat) : List Byte → State → State
  | [], s => s
  | b :: bs, s => poolWriteGo t (a + 1) bs { s with mem := memWrite (poolKey s t a) b s.mem }

/-- Write pool bytes: memory, and the poison of the words wholly written (R429). -/
def State.poolWrite (s : State) (t a : Nat) (bs : List Byte) : State := (poolWriteGo t a bs s).poolClear t a bs.length

def State.poolWriteNat (s : State) (t a n v : Nat) : State := s.poolWrite t a (natToBytes n v)

/-! ## Structure words and poisoned words (R255, R256, R429) -/

def sEmpty : Nat := 0
def sFull : Nat := 1
def sDeferred : Nat := 2
def sPlain : Nat := 3

/-- The state of the 64-bit word that holds a memory key. -/
def State.wordState (s : State) (key : Nat) : Nat := mapGet sPlain s.sstate (key / 8)

def State.setWordState (s : State) (key st : Nat) : State :=
  { s with sstate := if st = sPlain then mapDel (key / 8) s.sstate else mapPut (key / 8) st s.sstate }

/-- The words a range of keys touches. -/
def wordsOf (key n : Nat) : List Nat := (List.range ((key + n - 1) / 8 - key / 8 + 1)).map fun i => key / 8 + i

/-- An ordinary read of a byte: an EMPTY or DEFERRED word reads zero (R256). -/
def State.plainByte (s : State) (key : Nat) : Byte :=
  if s.wordState key = sPlain ∨ s.wordState key = sFull then s.stuckByte key (s.readByte key) else 0

/-- An ordinary write touches PLAIN words alone; any other word refuses it (R256). -/
def State.writable (s : State) (key n : Nat) : Bool := (wordsOf key n).all fun w => mapGet sPlain s.sstate w == sPlain

/-- A read of the range meets a poisoned word (R429). -/
def State.poisoned (s : State) (key n : Nat) : Bool := (wordsOf key n).any s.ecc.contains

/-- An ordinary pool read of n bytes as a number. -/
def State.poolLoad (s : State) (t a n : Nat) : Nat :=
  bytesToNat ((List.range n).map fun i => s.plainByte (poolKey s t (a + i)))

def State.poolPoisoned (s : State) (t a n : Nat) : Bool := (wordsOf a n).any fun w => s.ecc.contains (poolKey s t (8 * w) / 8)

/-! ## Tasks of threads and tiles -/

/-- The die a task key belongs to, and its index there. -/
def dieOfTask (k : Nat) : Nat := k / 262144
def idxOfTask (k : Nat) : Nat := k % 262144

def State.run? (s : State) (k : Nat) : Option TaskRun := mapFind? (s.die (dieOfTask k)).runs (idxOfTask k)

def State.modRun (s : State) (k : Nat) (f : TaskRun → TaskRun) : State :=
  s.modDie (dieOfTask k) fun d =>
    match mapFind? d.runs (idxOfTask k) with
    | none => d
    | some r => { d with runs := mapPut (idxOfTask k) (f r) d.runs }

/-- A task's state on a tile. -/
def State.taskTile (s : State) (k t : Nat) : TaskTile :=
  match s.run? k with
  | none => TaskTile.reset
  | some r => mapGet TaskTile.reset r.tiles t

def State.modTaskTile (s : State) (k t : Nat) (f : TaskTile → TaskTile) : State :=
  s.modRun k fun r => { r with tiles := mapPut t (f (mapGet TaskTile.reset r.tiles t)) r.tiles }

/-- Header fields (R361). -/
def TaskRec.ttype (r : TaskRec) : Nat := (r.hdr.extractLsb' 0 12).toNat
def TaskRec.state (r : TaskRec) : Nat := (r.hdr.extractLsb' 12 3).toNat
def TaskRec.ncont (r : TaskRec) : Nat := (r.hdr.extractLsb' 15 3).toNat
def TaskRec.ax (r : TaskRec) : Nat := (r.hdr.extractLsb' 18 4).toNat
def TaskRec.ay (r : TaskRec) : Nat := (r.hdr.extractLsb' 22 4).toNat
def TaskRec.rw (r : TaskRec) : Nat := (r.hdr.extractLsb' 26 4).toNat
def TaskRec.rh (r : TaskRec) : Nat := (r.hdr.extractLsb' 30 4).toNat
def TaskRec.count (r : TaskRec) : Nat := (r.hdr.extractLsb' 34 16).toNat
def TaskRec.nsucc (r : TaskRec) : Nat := (r.hdr.extractLsb' 50 4).toNat
def TaskRec.inst (r : TaskRec) : Nat := (r.hdr.extractLsb' 54 10).toNat

/-- The record at a task key, when the slot holds one that is not FREE. -/
def State.record? (s : State) (k : Nat) : Option TaskRec :=
  match mapFind? (s.die (dieOfTask k)).tasks (idxOfTask k) with
  | some (.record r) => if r.state = 0 then none else some r
  | _ => none

/-- A bit field of a word replaced. -/
def setField (w : Word) (lo n v : Nat) : Word :=
  let mask : Word := BitVec.ofNat 64 ((2 ^ n - 1) * 2 ^ lo)
  (w &&& ~~~mask) ||| (BitVec.ofNat 64 (v % 2 ^ n * 2 ^ lo))

/-- A task's instance id (R365). -/
def State.instanceId (s : State) (k : Nat) : Word :=
  let inst := match s.record? k with
    | some r => r.inst
    | none => 0
  let d := dieOfTask k
  BitVec.ofNat 64 (idxOfTask k + d % 16 * 2 ^ 18 + moduleOfDie d * 2 ^ 22 + inst * 2 ^ 32)

/-- Type-entry fields (R366); word j of the entry is bytes 8j to 8j+7. -/
def typeField (e : List Word) (j lo n : Nat) : Nat := ((e.getD j 0).extractLsb' lo n).toNat

def typeNodeVa (e : List Word) : Nat := typeField e 0 0 56
def typeSeqVa (e : List Word) : Nat := typeField e 1 0 56
def typeMseqVa (e : List Word) : Nat := typeField e 2 0 56
def typeNodes (e : List Word) : Nat := typeField e 3 0 11
def typeFrame (e : List Word) : Nat := typeField e 3 11 6
def typeScratch (e : List Word) : Nat := typeField e 3 17 6
def typeAcc (e : List Word) : Nat := typeField e 3 23 6
def typeThreads (e : List Word) : Nat := typeField e 3 29 4
def typeMthreads (e : List Word) : Nat := typeField e 3 33 3
def typePrio (e : List Word) : Nat := typeField e 3 36 3
def typeClassS (e : List Word) : Bool := (e.getD 3 0).getLsbD 39
def typeFtz (e : List Word) : Bool := (e.getD 3 0).getLsbD 40
def typeExc (e : List Word) : Nat := typeField e 3 41 12
def typeOvf (e : List Word) : Nat := typeField e 3 53 8
def typeValid (e : List Word) : Bool := (e.getD 3 0).getLsbD 63
def typeEnergy (e : List Word) : Nat := typeField e 4 0 32
def typeSeqLen (e : List Word) : Nat := typeField e 4 32 16
def typeMseqLen (e : List Word) : Nat := typeField e 4 48 16

/-- Width of tag field Fj (R366, R37); 0 where absent. -/
def typeTagWidth (e : List Word) (j : Nat) : Nat := if j < 6 then typeField e 5 (5 * j) 5 else 0

/-- Lowest bit of tag field Fj (R37). -/
def typeTagLow (e : List Word) (j : Nat) : Nat := ((List.range j).map (typeTagWidth e)).sum

def State.taskType (s : State) (k : Nat) : List Word :=
  match s.run? k with
  | some r => r.type
  | none => []

/-- The tiles of a task's region (R361); none where it leaves the grid. -/
def State.region (s : State) (k : Nat) : List Nat :=
  match s.record? k with
  | none => []
  | some r =>
      if 15 < r.ax + r.rw ∨ 15 < r.ay + r.rh then []
      else
      (List.range (r.rh + 1)).flatMap fun y =>
        (List.range (r.rw + 1)).map fun x => dieOfTask k * 256 + (r.ay + y) * 16 + (r.ax + x)

/-- A pool range of a compute tile lies in the SCRATCH and ACC granules of a task; of a memory tile, in its SRAM
while it is an addressed buffer (R238, R239). `accOnly` asks for ACC granules. -/
def poolOk (s : State) (task : Option Nat) (t a n : Nat) (accOnly : Bool) : Bool :=
  let ti := s.tile t
  if isMemTile t then decide (a + n ≤ 0x400000) && ti.mrole == 0
  else
    decide (a + n ≤ 0x200000) && (List.range ((a + n - 1) / 0x10000 - a / 0x10000 + 1)).all fun i =>
      let g := a / 0x10000 + i
      let use := (ti.poolpart.extractLsb' (2 * g) 2).toNat
      (use == 3 || (use == 2 && !accOnly)) && mapFind? ti.owners g == task

/-- The first byte of a range that fails `poolOk`; the range's start where none does. -/
def poolFirstBad (s : State) (task : Option Nat) (t a n : Nat) : Nat :=
  (((List.range n).find? fun i => !poolOk s task t (a + i) 1 false).map (a + ·)).getD a

/-- A tile accepts no request while its role's fill runs (R240). -/
def State.filling (s : State) (t : Nat) : Bool := (s.tile t).fill.isSome

/-- A range of a compute tile's pool lies wholly in SCRATCH granules of a task (R315, R437). -/
def scratchOk (s : State) (k t a n : Nat) : Bool :=
  let ti := s.tile t
  !isMemTile t && decide (a + n ≤ 0x200000) && (List.range ((a + n - 1) / 0x10000 - a / 0x10000 + 1)).all fun i =>
    let g := a / 0x10000 + i
    (ti.poolpart.extractLsb' (2 * g) 2).toNat == 2 && mapFind? ti.owners g == some k

/-! ## Registers of a thread (R122) -/

/-- g0 reads zero; in the user-interrupt handler fields 24 to 31 name h0 to h7 (R122). -/
def Thread.reg (t : Thread) (i : RegNo) : Word :=
  if i = 0 then 0
  else if t.uih && decide (24 ≤ i.toNat) then mapGet 0 t.h (i.toNat - 24)
  else mapGet 0 t.g i.toNat

/-- Writes to g0 are discarded (R122). -/
def Thread.setReg (t : Thread) (i : RegNo) (v : Word) : Thread :=
  if i = 0 then t
  else if t.uih && decide (24 ≤ i.toNat) then { t with h := wordPut (i.toNat - 24) v t.h }
  else { t with g := wordPut i.toNat v t.g }

/-- The physical register a field names (R122). -/
def Thread.preg (t : Thread) (i : RegNo) : PReg :=
  if i = 0 then .none
  else if t.uih && decide (24 ≤ i.toNat) then .h (i.toNat - 24)
  else .g i.toNat

/-- A reply writes the physical register (R122). -/
def Thread.setPReg (t : Thread) (r : PReg) (v : Word) : Thread :=
  match r with
  | .none => t
  | .g i => { t with g := wordPut i v t.g }
  | .h j => { t with h := wordPut j v t.h }

def Thread.pending (t : Thread) (r : PReg) : Bool :=
  match r with
  | .none => false
  | .g i => t.pend.getLsbD i
  | .h j => t.hpend.getLsbD j

def Thread.setPending (t : Thread) (r : PReg) (b : Bool) : Thread :=
  match r with
  | .none => t
  | .g i =>
      { t with pend := if b then t.pend ||| BitVec.ofNat 32 (2 ^ i) else t.pend &&& ~~~ BitVec.ofNat 32 (2 ^ i) }
  | .h j =>
      { t with hpend := if b then t.hpend ||| BitVec.ofNat 8 (2 ^ j) else t.hpend &&& ~~~ BitVec.ofNat 8 (2 ^ j) }

/-- A predicate source field; 0 reads 1 (R122). -/
def Thread.pred (t : Thread) (n : Nat) : Bool := n == 0 || t.p.getLsbD n

def Thread.setPred (t : Thread) (n : Nat) (b : Bool) : Thread :=
  { t with p := if b then t.p ||| BitVec.ofNat 8 (2 ^ n) else t.p &&& ~~~ BitVec.ofNat 8 (2 ^ n) }

/-! ## The issuing thread -/

def State.me (s : State) : Thread := s.thread s.cur.th
def State.myTile (s : State) : Nat := tileOfThread s.cur.th
def State.myDie (s : State) : Nat := dieOfTile s.myTile
def State.myTask (s : State) : Option Nat := s.me.task
def State.greg (s : State) (i : RegNo) : Word := s.me.reg i

/-- The address of the next bundle. -/
def State.nextPc (s : State) : Word := s.cur.pc + 8

def State.modMe (s : State) (f : Thread → Thread) : State := s.modThread s.cur.th f

/-- The bundle's slot A is done: the thread goes on at the next bundle. -/
def State.advance (s : State) : State := s.modMe fun t => { t with pc := s.nextPc }

/-- Write a result register and go on. -/
def State.result (s : State) (d : RegNo) (v : Word) : State :=
  s.modMe fun t => { t.setReg d v with pc := s.nextPc }

/-- Write a predicate and go on. -/
def State.resultPred (s : State) (d : RegNo) (b : Bool) : State :=
  s.modMe fun t => { t.setPred d.toNat b with pc := s.nextPc }

/-- The bundle does not issue; the thread presents it again (R22, R50). -/
def State.hold (s : State) : State := { s with cur := { s.cur with held := true } }

/-! ## Packets and fault records -/

def clsRsp : Nat := 1
def clsFlt : Nat := 2
def clsCtl : Nat := 3
def clsReq : Nat := 4
def clsStrm : Nat := 5
def clsDbg : Nat := 6

/-- Bytes in 32-byte steps, as LEN counts them (R288). -/
def lenSteps (n : Nat) : Nat := min 128 ((n + 31) / 32)

/-- LEN of a request and of its reply; the spec gives the payloads of few kinds (log 113). -/
def ReqOp.reqLen : ReqOp → Nat
  | .store _ _ | .iswrite _ | .isclr _ _ | .atomic _ | .bar _ _ | .barwait _ => 1
  | .ewrite _ bs => lenSteps bs.length
  | _ => 0

def ReqOp.rspLen : ReqOp → Nat
  | .eread _ _ n => lenSteps n
  | _ => 1

/-- LEN of a packet (R288, R289). -/
def PBody.len (reqs : List Req) : PBody → Nat
  | .req id => ((reqs.find? fun r => r.id == id).map fun r => r.op.reqLen).getD 0
  | .rsp id => ((reqs.find? fun r => r.id == id).map fun r => r.op.rspLen).getD 1
  | .token _ _ t => lenSteps (16 + (t.words.map fun w => if w.wide then 8 else 4).sum)
  | .fault _ => 2
  | .trace r => lenSteps r.bytes.length
  | .data _ args => lenSteps args.length
  | .beats _ bs => lenSteps (16 * bs.length)
  | .flt _ => 2
  | .decrement _ _ | .ack _ _ _ | .credit _ _ => 0

/-- IO die n, counted through the pod, as a place (R12). -/
def ioLoc (n : Nat) : Nat := 2 ^ 20 + n
def isIo (loc : Nat) : Bool := decide (2 ^ 20 ≤ loc)
def ioNum (loc : Nat) : Nat := loc - 2 ^ 20

/-- The cycle at a place; of an IO die the spec gives no clock, and each step is a cycle of its own there (log 55). -/
def State.clockAt (s : State) (loc : Nat) : Nat := if isIo loc then s.tick else (s.die loc).cycle

/-- An atomic that a switch may combine with others (R345). -/
def ReqOp.combines : ReqOp → Bool
  | .atomic x => (x.op == .add || x.op == .fadd) && x.ret && !x.nocomb
  | _ => false

/-- A tile's input port at the switch of its cluster (log 55). -/
def clusterInput (t : Nat) : Nat := 4 * (tileY t % 4) + tileX t % 4

/-- The tile whose cluster's switch takes a packet first: that of a request that may combine (R31). -/
def PBody.gate (reqs : List Req) : PBody → Option Nat
  | .req id => ((reqs.find? fun r => r.id == id).filter fun r => r.op.combines).map (·.tile)
  | _ => none

/-- Send a packet from a place to a place: all its flits are still to leave (R291). -/
def State.send (s : State) (cls src dst : Nat) (body : PBody) : State :=
  let n := body.len s.reqs
  let gate := body.gate s.reqs
  { s with net := s.net ++ [{ id := s.nextId, cls := cls, len := n, src := src, at_ := src, dst := dst,
                              left := if src = dst then 0 else n + 1, worm := [], bad := false, num := none, came := s.clockAt src,
                              inp := (gate.map clusterInput).getD 0, sw := gate.isSome, alone := false, body := body }],
           nextId := s.nextId + 1 }

/-- A fault record goes to the log of the die where it arose (R426). -/
def State.recordAt (s : State) (die : Nat) (r : FaultRec) : State := s.send clsFlt die die (.fault r)

def State.record (s : State) (r : FaultRec) : State := s.recordAt r.die r


/-- A record of an IO die goes to the log of die 0 or die 15 of its module (R426). -/
def State.recordIo (s : State) (n : Nat) (r : FaultRec) : State :=
  s.send clsFlt (ioLoc n) (n / 2 * 16 + if n % 2 = 0 then 0 else 15) (.fault { r with io := true, die := n })

/-- Byte 3 of a fault record (R425). -/
def tileByte (t : Nat) : Nat := tileX t * 16 + tileY t

def State.taskId? (s : State) (k : Option Nat) : Word :=
  match k with
  | some k => s.instanceId k
  | none => 0

/-- The record of a thread (R130): PE 0xFF, the thread in the flags, pc[15:0] in bytes 6-7, v in bytes 32-39. -/
def State.threadRecord (s : State) (th code : Nat) (pc v : Word) (inHnd : Bool) : FaultRec :=
  let t := tileOfThread th
  { code := code, die := dieOfTile t, io := false, tileByte := tileByte t, unit := 0xFF,
    flags := (if inHnd then 4 else 0) + numOfThread th * 16, node := (pc.extractLsb' 0 16).toNat, tag := 0,
    task := s.taskId? (s.thread th).task, cycle := s.cycleOf t, op0 := v, op1 := 0, addr := pc }

/-! ## Fault codes (R427) -/

def cIllegalOp : Nat := 0x0001
def cIllegalNode : Nat := 0x0002
def cIllegalDesc : Nat := 0x0003
def cPoisonStore : Nat := 0x0018
def cPageFault : Nat := 0x0020
def cAccessFault : Nat := 0x0021
def cScopeStale : Nat := 0x0030
def cScopeMiss : Nat := 0x0031
def cScopeChannel : Nat := 0x0032
def cFrameOverflow : Nat := 0x0040
def cFlowState : Nat := 0x0041
def cStreamLength : Nat := 0x0042
def cAtomicLost : Nat := 0x0050
def cCountMismatch : Nat := 0x0051
def cLinkReserve : Nat := 0x0060
def cPacketBad : Nat := 0x0061
def cReqTimeout : Nat := 0x0062
def cDoubleWrite : Nat := 0x0070
def cTaskBad : Nat := 0x0090
def cTaskCount : Nat := 0x0091
def cSxConflict : Nat := 0x00A0
def cSxRange : Nat := 0x00A1
def cBtState : Nat := 0x00A2
def cRngKey : Nat := 0x00A3
def cBtDiverge : Nat := 0x00A4
def cSwTrap : Nat := 0x00B0
def cCtxBad : Nat := 0x00B1
def cPreempt : Nat := 0x00B2
def cResume : Nat := 0x00B3
def cEccUncorr : Nat := 0x00C0

/-! ## Traps (R130) -/

/-- Stop a thread as TSTOP: HND and UIH cleared (R144). -/
def Thread.stop (t : Thread) : Thread := { t with running := false, hnd := false, uih := false, wait := none }

/-- TRAPCAUSE as trap entry writes it (R128, R130). -/
def trapCauseWord (code : Nat) (defer slotB uih : Bool) (p : BitVec 8) : Word :=
  BitVec.ofNat 64 (code % 65536 + (if defer then 2 ^ 16 else 0) + (if slotB then 2 ^ 17 else 0) +
    (if uih then 2 ^ 18 else 0) + (p.toNat / 2 % 128) * 2 ^ 24)

/-- The thread after trap entry with a handler (R130). -/
def Thread.enterTrap (t : Thread) (code : Nat) (defer slotB : Bool) (pc v : Word) : Thread :=
  { t with trapcause := trapCauseWord code defer slotB t.uih t.p, trappc := pc &&& ~~~(7 : Word), trapval := v,
           hnd := true, uih := false, pc := t.trapvec &&& ~~~(7 : Word), wait := none }

/-- The thread's trap registers after an entry that stops it (R130). -/
def Thread.stopTrap (t : Thread) (code : Nat) (defer slotB : Bool) (pc v : Word) : Thread :=
  { t with trapcause := trapCauseWord code defer slotB t.uih t.p, trappc := pc &&& ~~~(7 : Word),
           trapval := v }.stop

/-- Taking a trap (R130): into the handler, or a record and a stop when HND is 1 or TRAPVEC.EN is 0. -/
def State.takeTrap (s : State) (th code : Nat) (defer slotB : Bool) (pc v : Word) : State :=
  let t := s.thread th
  let s := { s with cur := { s.cur with trapped := true } }
  if t.hnd || !t.trapvec.getLsbD 0 then
    (s.setThread th (t.stopTrap code defer slotB pc v)).record (s.threadRecord th code pc v t.hnd)
  else s.setThread th (t.enterTrap code defer slotB pc v)

/-- A precise trap of the issuing bundle (R131). -/
def State.trap (s : State) (code : Nat) (v : Word) : State := s.takeTrap s.cur.th code false s.cur.slotB s.cur.pc v

/-- The return of ERET (R133), without the resubmission of parked requests. -/
def Thread.leaveTrap (t : Thread) : Thread :=
  { t with pc := t.trappc, p := BitVec.ofNat 8 ((t.trapcause.extractLsb' 24 7).toNat * 2),
           uih := t.trapcause.getLsbD 18, hnd := false }

/-! ## Clocks that stand still, engine queues and error registers -/

/-- The tile's clock stands still: its cluster is frozen or its die is tripped (R459, R460). -/
def State.stopped (s : State) (t : Nat) : Bool :=
  let d := s.die (dieOfTile t)
  d.tripped || d.frozen.contains (clusterOf t)

/-- How far a pre-emption of a task is: 0 none (R440, R441). -/
def State.savePhase (s : State) (k : Nat) : Nat :=
  (((s.die (dieOfTask k)).saves.find? fun j => j.task == k).map (·.phase)).getD 0

/-- A class G freeze wave holds the task: its threads, its ready firings, its inputs (R234, R440). -/
def State.frozenTask (s : State) (k : Nat) : Bool := decide (1 ≤ s.savePhase k) && !typeClassS (s.taskType k)

/-- The task's contexts are closed: it is completing or failing, and what arrives for them is discarded without a record (R217,
R380). -/
def State.closed (s : State) (k : Nat) : Bool := (s.run? k).any fun r => r.stopping

/-- A restore of the task is replaying its ready firings: its inputs and threads wait (R234, R443). -/
def State.replays (s : State) (k : Nat) : Bool :=
  (s.run? k).any (·.replaying) && s.pes.any fun p => p.2.ready.any fun f => f.task == k

/-- A thread's queue of an engine (R22). -/
def Thread.queue (t : Thread) (e : Nat) : List EngCmd := mapGet [] t.queues e

/-- Two entries a queue (R22). -/
def Thread.queueFull (t : Thread) (e : Nat) : Bool := decide (2 ≤ (t.queue e).length)

def Thread.setQueue (t : Thread) (e : Nat) (q : List EngCmd) : Thread :=
  { t with queues := if q.isEmpty then mapDel e t.queues else mapPut e q t.queues }

/-- The error register of an engine: VERR, MERR, CERR, GERR (R159, R187, R273). -/
def Thread.errReg (t : Thread) (e : Nat) : Word := mapGet 0 t.err e

/-- Its VALID bit: the thread's commands on the engine are suppressed. -/
def Thread.errValid (t : Thread) (e : Nat) : Bool := (t.errReg e).getLsbD 16

/-! ## Record fields written as a step's outcome -/

/-- A step always goes on: the machine never stops by itself. -/
def ok (s : State) : Out := .next s

end Sys2Proof.Machine
end

