-- ==== Sys2Proof/Machine/Flags.lean ====
section
/-! DEFINITION. Exception classes and their modes (04_numbers.md R109-R112), rounding fields (R60, R127, R148)
and the sticky flags of a thread (R110, R153). -/

namespace Sys2Proof.Machine

/-- The mode of class c in a 12-bit mode word laid out as EXCMODE[11:0]: 0 IGNORE, 1 POISON, 2 TRAP (R110). -/
def classMode (modes : Nat) (c : Nat) : Nat := modes / 4 ^ c % 4

/-- The classes in the order that decides a trap (R111): invalid, divide-by-zero, integer divide-by-zero, overflow,
underflow, inexact. -/
def trapOrder : List Nat := [0, 1, 5, 2, 3, 4]

/-- The fault code of a class (R109). -/
def classCode (c : Nat) : Nat :=
  match c with
  | 0 => 0x0010 | 1 => 0x0011 | 2 => 0x0012 | 3 => 0x0014 | 4 => 0x0015 | _ => 0x0013

/-- What the raised classes come to under the modes (R111). -/
inductive Verdict where
  | clean
  | poison
  | trap (code : Nat)
  deriving DecidableEq, Repr, Inhabited

/-- R111: the first trapping class traps; else P is set if a raised class is in POISON mode. -/
def judge (modes : Nat) (r : Raised) : Verdict :=
  match trapOrder.find? fun c => r.getLsbD c && classMode modes c == 2 with
  | some c => .trap (classCode c)
  | none => if trapOrder.any fun c => r.getLsbD c && classMode modes c == 1 then .poison else .clean

/-- The modes of a thread: EXCMODE[11:0] (R110). -/
def Thread.modes (t : Thread) : Nat := (t.excmode.extractLsb' 0 12).toNat

/-- EXCMODE.FTZ (R110). -/
def Thread.ftz (t : Thread) : Bool := t.excmode.getLsbD 12

/-- Set the sticky flags of every class raised (R110, R153). -/
def Thread.raise (t : Thread) (r : Raised) : Thread :=
  { t with excmode := t.excmode ||| BitVec.ofNat 64 (r.toNat * 2 ^ 16) }

/-- A slot-A operation that may raise classes (R112, R153): a class in TRAP mode traps with the code, TRAPVAL the
first operand, only FLAGS changed; otherwise FLAGS are set and `done` writes the result. -/
def State.arith (s : State) (r : Raised) (x : Word) (done : State → State) : State :=
  let s := s.modMe (·.raise r)
  match judge s.me.modes r with
  | .trap code => s.trap code x
  | _ => done s

/-- A rounding mode with its SAT. -/
structure RndSat where
  mode : RMode
  sat : Bool
  deriving DecidableEq, Repr, Inhabited

/-- MS.ROUND (R127). -/
def Thread.dynRound (t : Thread) : RndSat := ⟨RMode.ofCode (t.round.extractLsb' 0 2), t.round.getLsbD 2⟩

/-- The rounding of a class-3 f field or of FCVT with its DYN bit (R148, R151): mode in bits 2:1, SAT in bit 0. -/
def Thread.rounding (t : Thread) (dyn : Bool) (f : BitVec 6) : RndSat :=
  if dyn then t.dynRound else ⟨RMode.ofCode (f.extractLsb' 1 2), f.getLsbD 0⟩

/-- The RND field of a node record: mode in [2:1], SAT in [0] (R62). -/
def nodeRnd (r : BitVec 3) : RndSat := ⟨RMode.ofCode (r.extractLsb' 1 2), r.getLsbD 0⟩

/-- The RND field of a descriptor: mode in [1:0], SAT in [2] (R60). -/
def descRnd (r : Nat) : RndSat := ⟨RMode.ofCode (BitVec.ofNat 2 r), r.testBit 2⟩

/-! ## The exception modes of a task (R108, R110) -/

/-- A node's modes come from the task-type entry. -/
def State.taskModes (s : State) (k : Nat) : Nat := typeExc (s.taskType k)

def State.taskFtz (s : State) (k : Nat) : Bool := typeFtz (s.taskType k)

end Sys2Proof.Machine
end

