-- ==== Sys2Proof/Machine/Int.lean ====
section
/-! DEFINITION. Integer instructions on carrier A (05_scalar_class.md R134-R136). -/

namespace Sys2Proof.Machine

/-! ## The operations, on n-bit patterns (R134, R136); both carriers use them -/

/-- Leading zero bits among the low n (R134). -/
def clzBits (n x : Nat) : Nat := if x % 2 ^ n = 0 then n else n - 1 - Nat.log2 (x % 2 ^ n)

/-- Number of 1 bits among the low n (R134). -/
def popBits (n x : Nat) : Nat := ((List.range n).filter fun i => x.testBit i).length

/-- The conditions of SET and PSET: eq, ne, lt, ltu, le, leu (R134). -/
def condHolds (f n x y : Nat) : Bool :=
  match f with
  | 0 => x == y
  | 1 => x != y
  | 2 => decide (asSigned n x < asSigned n y)
  | 3 => decide (x < y)
  | 4 => decide (asSigned n x ≤ asSigned n y)
  | _ => decide (x ≤ y)

/-- MUL .lo, .hi, .hu (R136). -/
def mulBits (f n x y : Nat) : Nat :=
  match f with
  | 0 => wrapInt n ((x : Int) * (y : Int))
  | 1 => wrapInt n ((asSigned n x * asSigned n y) / (2 ^ n : Nat))
  | _ => x * y / 2 ^ n

/-- DIV: quotient toward zero, all ones for a zero divisor (R136). -/
def divBits (f n x y : Nat) : Nat :=
  if y = 0 then 2 ^ n - 1
  else if f = 0 then wrapInt n (Int.tdiv (asSigned n x) (asSigned n y))
  else x / y

/-- REM: the remainder takes the dividend's sign; the dividend for a zero divisor (R136). -/
def remBits (f n x y : Nat) : Nat :=
  if y = 0 then x
  else if f = 0 then wrapInt n (Int.tmod (asSigned n x) (asSigned n y))
  else x % y

/-- Logical or arithmetic right shift (R134). -/
def shrBits (f n x k : Nat) : Nat := if f = 0 then x / 2 ^ k else wrapInt n (asSigned n x / (2 ^ k : Nat))

/-- Rotate left (R134). -/
def rotlBits (n x k : Nat) : Nat := if k = 0 then x else (x * 2 ^ k % 2 ^ n) ||| (x / 2 ^ (n - k))

/-- The field of BFX and BFI: its position and its width, cut at bit n - 1 (R136). -/
def bfPos (n y : Nat) : Nat := y % 64 % n
def bfLen (n y : Nat) : Nat := min (y / 256 % 64 + 1) (n - bfPos n y)

def bfxBits (f n x y : Nat) : Nat :=
  let v := x / 2 ^ bfPos n y % 2 ^ bfLen n y
  if f = 0 then v else wrapInt n (asSigned (bfLen n y) v)

/-- BFI: bits pos+k-1..pos of the old value replaced (R136). -/
def bfiBits (n old x y : Nat) : Nat :=
  let p := bfPos n y
  let k := bfLen n y
  let keep := old % 2 ^ p + old / 2 ^ (p + k) * 2 ^ (p + k)
  (keep + x % 2 ^ k * 2 ^ p) % 2 ^ n

/-! ## The meanings -/

/-- A class-1 result from x = g[a] and y = g[b]; it raises nothing (R134). -/
def intResult (o : AR) (s : State) (f : Nat → Nat → Nat) : Out :=
  ok (s.result o.d (BitVec.ofNat 64 (f (s.greg o.a).toNat (s.greg o.b).toNat)))

/-- ADD (R134). -/
def execAdd (o : AR) (s : State) : Out := ok (s.result o.d (s.greg o.a + s.greg o.b))

/-- SUB (R134). -/
def execSub (o : AR) (s : State) : Out := ok (s.result o.d (s.greg o.a - s.greg o.b))

/-- ADDI (R134): the immediate sign-extended (R52). -/
def execAddi (o : AI) (s : State) : Out := ok (s.result o.d (s.greg o.a + o.imm.signExtend 64))

/-- MUL (R136). -/
def execMul (o : AR) (s : State) : Out := intResult o s (mulBits o.f.toNat 64)

/-- DIV (R136): a zero divisor raises integer divide-by-zero. -/
def execDiv (o : AR) (s : State) : Out :=
  let x := s.greg o.a
  let y := s.greg o.b
  ok (s.arith (if y = 0 then raisedIdz else raisedNone) x fun s =>
    s.result o.d (BitVec.ofNat 64 (divBits o.f.toNat 64 x.toNat y.toNat)))

/-- REM (R136). -/
def execRem (o : AR) (s : State) : Out :=
  let x := s.greg o.a
  let y := s.greg o.b
  ok (s.arith (if y = 0 then raisedIdz else raisedNone) x fun s =>
    s.result o.d (BitVec.ofNat 64 (remBits o.f.toNat 64 x.toNat y.toNat)))

/-- AND (R134). -/
def execAndA (o : AR) (s : State) : Out := ok (s.result o.d (s.greg o.a &&& s.greg o.b))

/-- OR (R134). -/
def execOrA (o : AR) (s : State) : Out := ok (s.result o.d (s.greg o.a ||| s.greg o.b))

/-- XOR (R134). -/
def execXorA (o : AR) (s : State) : Out := ok (s.result o.d (s.greg o.a ^^^ s.greg o.b))

/-- ANDN (R134). -/
def execAndn (o : AR) (s : State) : Out := ok (s.result o.d (s.greg o.a &&& ~~~ s.greg o.b))

/-- SHL by y[5:0] (R134). -/
def execShl (o : AR) (s : State) : Out := ok (s.result o.d (s.greg o.a <<< ((s.greg o.b).toNat % 64)))

/-- SHR .l and .a by y[5:0] (R134). -/
def execShr (o : AR) (s : State) : Out := intResult o s fun x y => shrBits o.f.toNat 64 x (y % 64)

/-- ROTL by y[5:0] (R134). -/
def execRotl (o : AR) (s : State) : Out := intResult o s fun x y => rotlBits 64 x (y % 64)

/-- CLZ (R134). -/
def execClz (o : AR) (s : State) : Out := intResult o s fun x _ => clzBits 64 x

/-- POPC (R134). -/
def execPopc (o : AR) (s : State) : Out := intResult o s fun x _ => popBits 64 x

/-- MIN .s and .u (R134). -/
def execMin (o : AR) (s : State) : Out :=
  intResult o s fun x y => if condHolds (if o.f = 0 then 2 else 3) 64 x y then x else y

/-- MAX .s and .u (R134). -/
def execMax (o : AR) (s : State) : Out :=
  intResult o s fun x y => if condHolds (if o.f = 0 then 2 else 3) 64 x y then y else x

/-- SET (R134). -/
def execSetCond (o : AR) (s : State) : Out :=
  intResult o s fun x y => if condHolds o.f.toNat 64 x y then 1 else 0

/-- SEL by predicate f (R134). -/
def execSel (o : AR) (s : State) : Out :=
  ok (s.result o.d (if s.me.pred o.f.toNat then s.greg o.a else s.greg o.b))

/-- MOVI (R134). -/
def execMovi (o : AI) (s : State) : Out := ok (s.result o.d (o.imm.signExtend 64))

/-- BFX .u and .s (R136). -/
def execBfx (o : AR) (s : State) : Out := intResult o s (bfxBits o.f.toNat 64)

/-- BFI (R136): x' is g[d]. -/
def execBfi (o : AR) (s : State) : Out := intResult o s (bfiBits 64 (s.greg o.d).toNat)

/-- LEA (R134): x + (y << s) + sext(e, 28). -/
def execLea (o : ARE) (s : State) : Out :=
  ok (s.result o.d (s.greg o.a + (s.greg o.b <<< o.f.toNat) + o.e.signExtend 64))

end Sys2Proof.Machine
end

