-- ==== Sys2Proof/Machine/Control.lean ====
section
/-! DEFINITION. Control instructions (05_scalar_class.md R139-R147). -/

namespace Sys2Proof.Machine

/-- The code section of a thread: its VA and its length in bundles, that of `.seq memory` on a memory tile
(R139, R366). -/
def State.codeSection (s : State) (th : Nat) : Nat × Nat :=
  match (s.thread th).task with
  | none => (0, 0)
  | some k =>
      let e := s.taskType k
      if isMemTile (tileOfThread th) then (typeMseqVa e, typeMseqLen e) else (typeSeqVa e, typeSeqLen e)

/-- A bundle address lies in the thread's code section (R140). -/
def State.inCode (s : State) (th : Nat) (pc : Word) : Bool :=
  decide ((s.codeSection th).1 ≤ pc.toNat ∧ pc.toNat + 8 ≤ (s.codeSection th).1 + 8 * (s.codeSection th).2)

/-- A branch target: PC + 8 * imm (R139). -/
def State.target (s : State) (imm : BitVec 39) : Word := s.cur.pc + (imm.signExtend 64 <<< 3)

def State.jump (s : State) (pc : Word) : State := s.modMe fun t => { t with pc := pc }

/-- BR (R141). -/
def execBr (o : AI) (s : State) : Out := ok (s.jump (s.target o.imm))

/-- BRP, BRP.f (R141). -/
def execBrp (o : AI) (s : State) : Out :=
  ok (if s.me.pred o.d.toNat == (o.a == 0) then s.jump (s.target o.imm) else s.advance)

/-- An indirect target that is not a bundle address traps at the branch (R141). -/
def State.indirect (s : State) (t : Word) (link : RegNo) : State :=
  if t.extractLsb' 0 3 ≠ 0 then s.trap cAccessFault t
  else s.modMe fun x => { x.setReg link s.nextPc with pc := t }

/-- BRI (R141). -/
def execBri (o : AR) (s : State) : Out := ok (s.indirect (s.greg o.a) o.d)

/-- CALL (R141): the link register is g31, h7 in the user-interrupt handler. -/
def execCall (o : AI) (s : State) : Out :=
  ok (s.modMe fun x => { x.setReg 31 s.nextPc with pc := s.target o.imm })

/-- RET (R141). -/
def execRet (_o : AR) (s : State) : Out := ok (s.indirect (s.greg 31) 0)

/-- PSET (R142). -/
def execPset (o : AR) (s : State) : Out :=
  ok (s.resultPred o.d (condHolds o.f.toNat 64 (s.greg o.a).toNat (s.greg o.b).toNat))

/-- The PLOGIC operations: and, or, xor, not, andn (R142). -/
def plogicOp (f : Nat) (a b : Bool) : Bool :=
  match f with
  | 0 => a && b
  | 1 => a || b
  | 2 => a != b
  | 3 => !a
  | _ => a && !b

/-- PLOGIC (R142). -/
def execPlogic (o : AR) (s : State) : Out :=
  ok (s.resultPred o.d (plogicOp o.f.toNat (s.me.pred o.a.toNat) (s.me.pred o.b.toNat)))

/-- The threads allotted to the issuer's task on its tile, lowest first (R377). -/
def State.allotted (s : State) (k t : Nat) : List Nat :=
  let x := s.taskTile k t
  (List.range x.thrCount).map fun i => 8 * t + x.thrBase + i

/-- TSTART (R143): the lowest allotted thread that is stopped starts; it issues 8 cycles later at the earliest. -/
def execTstart (o : AI) (s : State) : Out :=
  let pc := s.target o.imm
  if !s.inCode s.cur.th pc then ok (s.trap cAccessFault pc)
  else
    let stopped := match s.myTask with
      | none => none
      | some k => (s.allotted k s.myTile).find? fun th => !(s.thread th).running
    match stopped with
    | none => ok (s.result o.d 0xFFFFFFFFFFFFFFFF)
    | some th =>
        let v := s.greg o.a
        let c := s.cycleOf s.myTile
        let s := s.modThread th fun t =>
          { t with g := wordPut 1 v t.g, pc := pc, hnd := false, uih := false, running := true, lastIssue := c + 7 }
        ok (s.result o.d (BitVec.ofNat 64 (numOfThread th)))

/-- TSTOP (R144): the thread stops after its bundle; its registers stay. -/
def execTstop (_o : AR) (s : State) : Out := ok (s.advance.modMe Thread.stop)

/-- TID (R145). -/
def execTid (o : AR) (s : State) : Out :=
  let t := s.myTile
  let d := s.myDie
  ok (s.result o.d (BitVec.ofNat 64 (moduleOfDie d * 2 ^ 20 + d % 16 * 2 ^ 16 + tileIdx t * 2 ^ 8 + numOfThread s.cur.th)))

/-- NOP (R146). -/
def execNop (_o : AR) (s : State) : Out := ok s.advance

/-! ## WAITF (R147) -/

/-- Bytes of the awaited word: f[3]. -/
def waitSize (f : BitVec 6) : Nat := if f.getLsbD 3 then 8 else 4

/-- The condition of WAITF on the word w against y. -/
def waitHolds (f : BitVec 6) (w y : Nat) : Bool :=
  let y := y % 2 ^ (8 * waitSize f)
  match (f.extractLsb' 0 3).toNat with
  | 0 => w == y
  | 1 => w != y
  | 2 => decide (w < y)
  | 3 => decide (y ≤ w)
  | 4 => Nat.land w y != 0
  | _ => Nat.land w y == 0

/-- The awaited word is poisoned: WAITF reads it as a load does and traps precisely (R429; DEDUCED, log 109). -/
def State.waitPoison (s : State) (th : Nat) (w : Wait) : Bool := s.poolPoisoned (tileOfThread th) w.addr (waitSize w.f)

/-- The condition holds of the pool word as it stands; a tile whose role's fill runs answers nothing (R240). -/
def State.waitReady (s : State) (th : Nat) (w : Wait) : Bool :=
  !s.filling (tileOfThread th) && waitHolds w.f (s.poolLoad (tileOfThread th) w.addr (waitSize w.f)) w.y.toNat

/-- The timeout has passed (R147). -/
def State.waitOver (s : State) (th : Nat) (w : Wait) : Bool :=
  decide (w.timeout ≤ s.cycleOf (tileOfThread th) - w.start)

/-- WAITF finishes with a value; the next bundle issues at the next owned cycle. -/
def State.waitFinish (s : State) (w : Wait) (v : Word) : State :=
  s.modMe fun t => { t.setPReg w.dest v with wait := none, pc := s.nextPc }

/-- WAITF (R147): checked at issue, tested at the issue cycle; while it waits, PC stays its own address. -/
def execWaitf (o : ARE) (s : State) : Out :=
  let a := s.greg o.a
  let n := waitSize o.f
  if a.toNat % n ≠ 0 ∨ !poolOk s s.myTask s.myTile a.toNat n false then ok (s.trap cAccessFault a)
  else
    let w : Wait := { addr := a.toNat, f := o.f, y := s.greg o.b, dest := s.me.preg o.d,
                      start := s.cycleOf s.myTile, timeout := o.e.toNat }
    if s.filling s.myTile then ok s.hold
    else if s.waitPoison s.cur.th w then ok (s.trap cEccUncorr a)
    else if s.waitReady s.cur.th w then ok (s.waitFinish w 1)
    else if s.waitOver s.cur.th w then ok (s.waitFinish w 0)
    else ok (s.modMe fun t => { t with wait := some w })

/-- WAITF_SATISFIED (R147): a later owned cycle finds the condition met, or the word poisoned (R429). -/
def execWaitfSatisfied (s : State) : Out :=
  match s.me.wait with
  | none => ok s
  | some w =>
      if s.waitPoison s.cur.th w then ok (s.trap cEccUncorr (BitVec.ofNat 64 w.addr))
      else if s.waitReady s.cur.th w then ok (s.waitFinish w 1)
      else ok s

/-- WAITF_TIMEOUT (R147): the condition fails and the timeout has passed. -/
def execWaitfTimeout (s : State) : Out :=
  match s.me.wait with
  | none => ok s
  | some w => if !s.waitReady s.cur.th w && s.waitOver s.cur.th w then ok (s.waitFinish w 0) else ok s

/-! ## Rows 1 to 3 of R119 -/

/-- DEFERRED_TRAP_ENTRY (R119 row 1, R132): the oldest deferred fault is taken; the request stays parked and ERET
resubmits it. -/
def execDeferredTrapEntry (s : State) : Out :=
  match s.me.deferred with
  | [] => ok s
  | f :: rest =>
      let n := s.me.order
      let s := { s with reqs := s.reqs.map fun (r : Req) => if f.req = some r.id then { r with since := n } else r }
      let s := s.modMe fun t => { t with deferred := rest, taken := f.req.toList }
      ok (s.takeTrap s.cur.th f.code true false s.me.pc f.va)

/-- PREEMPT_INTERRUPT_TAKE (R119 row 2, R441): trap entry with CODE PREEMPT and TRAPVAL 0. -/
def execPreemptInterruptTake (s : State) : Out :=
  if s.me.preempt && !s.me.hnd then
    let s := s.modMe fun t => { t with preempt := false }
    ok (s.takeTrap s.cur.th cPreempt false false s.me.pc 0)
  else ok s

end Sys2Proof.Machine
end

