-- ==== Sys2Proof/Machine/Trace.lean ====
section
/-! DEFINITION. Fault records as bytes, trace records, the debug comparators and the cluster freeze
(15_system_class.md R425; 16_debug_class.md R460-R467). -/

namespace Sys2Proof.Machine

/-! ## Fault records (R425) -/

/-- The 64 bytes of a fault record with its sequence number and LOSS. -/
def faultBytes (r : FaultRec) (seq : Nat) (loss : Bool) : List Byte :=
  natToBytes 2 r.code ++ [BitVec.ofNat 8 (if r.io then 16 + r.die % 2 else r.die % 16), BitVec.ofNat 8 r.tileByte,
    BitVec.ofNat 8 r.unit, BitVec.ofNat 8 (r.flags + if loss then 128 else 0)] ++ natToBytes 2 r.node ++
    natToBytes 8 r.tag.toNat ++ natToBytes 8 r.task.toNat ++ natToBytes 8 (if r.io then 0 else r.cycle) ++
    natToBytes 8 r.op0.toNat ++ natToBytes 8 r.op1.toNat ++ natToBytes 8 r.addr.toNat ++ natToBytes 8 seq

/-! ## Trace records (R467, R468) -/

/-- A tile's debug register by its offset (R463). -/
def State.dbg (s : State) (t off : Nat) : Word := mapGet 0 (s.tile t).dbg off

def State.setDbg (s : State) (t off : Nat) (v : Word) : State := s.modTile t fun x => { x with dbg := wordPut off v x.dbg }

def kFire : Nat := 1
def kTrace : Nat := 2
def kMark : Nat := 3
def kStop : Nat := 4
def kBankPark : Nat := 0x80

/-- A trace record of a tile: written when TREN is 1; CSEQ counts it, LOSS is carried once (R467, R468). -/
def State.traceRec (s : State) (t kind : Nat) (tag : Word) (node unit flags value : Nat) : State :=
  if !(s.dbg t 0).getLsbD 2 then s
  else
    let x := s.tile t
    let bs := natToBytes 8 tag.toNat ++ natToBytes 2 node ++ [BitVec.ofNat 8 (dieOfTile t % 16), BitVec.ofNat 8 (tileByte t),
      BitVec.ofNat 8 unit, BitVec.ofNat 8 (flags + if x.loss then 64 else 0)] ++ natToBytes 2 kind ++
      natToBytes 8 (s.cycleOf t) ++ natToBytes 4 value ++ natToBytes 4 x.cseq
    let s := s.modTile t fun x => { x with cseq := (x.cseq + 1) % 2 ^ 32, loss := false }
    s.send clsDbg (dieOfTile t) (dieOfTile t) (.trace { tile := t, bytes := bs })

/-! ## The cluster freeze (R460, R462, R466) -/

/-- The causes in DBGSTAT order: BKPT 1, watch 2, token stop 3, ostler 4 (R463). -/
def dbgStatWord (cause : Nat) (thr unit tile code : Nat) : Word :=
  BitVec.ofNat 64 (1 + cause * 2 + thr % 8 * 2 ^ 5 + unit % 16 * 2 ^ 8 + tileIdx tile * 2 ^ 12 + code % 2 ^ 16 * 2 ^ 20)

/-- The tiles of a tile's cluster (R17). -/
def clusterTiles (t : Nat) : List Nat :=
  ((List.range 256).map fun i => dieOfTile t * 256 + i).filter fun u => clusterOf u == clusterOf t

/-- The cluster freezes: every tile of it shows the cause; `key` is its place in the order of R462. -/
def State.freeze (s : State) (t cause thr unit code key : Nat) : State :=
  let w := dbgStatWord cause thr unit t code
  let s := s.modDie (dieOfTile t) fun d =>
    { d with frozen := d.frozen ++ [clusterOf t], froze := if d.frozen.isEmpty then d.cycle else d.froze,
             frozeAt := mapPut (clusterOf t) (d.cycle, key) d.frozeAt }
  (clusterTiles t).foldl (fun s u => s.setDbg u 8 w) s

/-- What a STOP record names beside its cause: tag, node or bundle address, unit, flags. -/
structure StopAt where
  tag : Word
  node : Nat
  unit : Nat
  flags : Nat
  deriving DecidableEq, Repr, Inhabited

/-- The place of a cause among those of one cycle (R462): token stop, watch, BKPT, ostler, then by tile, PE and thread. -/
def causeKey (cause t thr unit : Nat) : Nat :=
  (((match cause with
    | 3 => 0
    | 2 => 1
    | 1 => 2
    | _ => 3) * 256 + tileIdx t) * 256 + unit % 256) * 8 + thr % 8

/-- A cause on a tile: with BKEN it freezes the cluster and the agent stands before it; otherwise it writes a STOP
record (R460, R466). `cmp` is the comparator of a watch or token stop. -/
def State.cause (s : State) (t cause thr unit code cmp : Nat) (at_ : StopAt) : Bool × State :=
  if (s.dbg t 0).getLsbD 0 then (true, s.freeze t cause thr unit code (causeKey cause t thr at_.unit))
  else (false, s.traceRec t kStop at_.tag at_.node at_.unit at_.flags (cause + cmp * 16))

/-- N, E and P of a STOP record: of any word of the token or firing (R467). -/
def stopFlags (ws : List TWord) (eos : Bool) : Nat :=
  (if ws.any (·.n) then 8 else 0) + (if eos then 16 else 0) + if ws.any (·.p) then 32 else 0

/-- Every clock of a cluster stops within 24 cycles of the cause (R460), and until then another of its agents may raise a cause of
its own: it stands before it, and MORE tells of it; of causes of one cycle DBGSTAT names the first in the order of R462. Otherwise
the agent stands where the clock has found it (log 40). `go` is what the agent would do on a running cluster. -/
def State.lateCause (s : State) (t : Nat) (go : State → Out) : Out :=
  let d := s.die (dieOfTile t)
  let c := clusterOf t
  match mapFind? d.frozeAt c with
  | none => ok s
  | some (cycle, key) =>
      if d.tripped ∨ !d.frozen.contains c ∨ cycle + 24 < d.cycle then ok s
      else
        match go (s.modDie (dieOfTile t) fun d => { d with frozen := d.frozen.filter fun x => x != c }) with
        | .next u =>
            let e := u.die (dieOfTile t)
            match mapFind? e.frozeAt c with
            | some (cycle2, key2) =>
                if !e.frozen.contains c ∨ cycle + 24 < cycle2 then ok s
                else
                  let first := cycle2 == cycle && decide (key2 < key)
                  let w := (if first then u.dbg t 8 else s.dbg t 8) ||| 0x10
                  let u := u.modDie (dieOfTile t) fun e =>
                    { e with froze := d.froze, frozeAt := mapPut c (if first then (cycle2, key2) else (cycle, key)) e.frozeAt }
                  ok ((clusterTiles t).foldl (fun s x => s.setDbg x 8 w) u)
            | none => ok s
        | _ => ok s

/-! ## Watch comparators (R464) -/

/-- The first armed comparator of a tile that an access of a space matches: kind bit 0 read, bit 1 write. -/
def State.watchMatch (s : State) (t asid kind : Nat) (pool : Bool) (va size : Nat) : Option Nat :=
  (List.range 4).find? fun n =>
    let a := (s.dbg t (0x40 + 16 * n)).toNat
    let c := s.dbg t (0x48 + 16 * n)
    let len := 2 ^ (c.extractLsb' 3 6).toNat
    Nat.land (c.extractLsb' 0 2).toNat kind != 0 && c.getLsbD 2 == pool && a % len == 0 &&
      decide (va < a + len) && decide (a < va + size) &&
      ((c.extractLsb' 9 12).toNat == 0 || (c.extractLsb' 9 12).toNat == asid)

/-- The stop point of the issuing thread. -/
def State.threadStop (s : State) : StopAt :=
  { tag := 0, node := (s.cur.pc.extractLsb' 0 16).toNat, unit := 0xFF, flags := numOfThread s.cur.th }

/-- A sequencer access that issues goes through the comparators of its tile (R460, R462, R464): the bundle that hits one
stands before its cause with no effect, and passes it once after the resume. -/
def State.watched (s : State) (asid kind : Nat) (pool : Bool) (va size : Nat) (go : State → State) : State :=
  let r := go s
  if r.cur.held || r.cur.trapped then r
  else
    match (if s.me.pass then none else s.watchMatch s.myTile asid kind pool va size) with
    | none => r
    | some n =>
        match s.cause s.myTile 2 (numOfThread s.cur.th) n 0 n s.threadStop with
        | (true, s) => (s.modMe fun t => { t with pass := true }).hold
        | (false, s) => go s

end Sys2Proof.Machine
end

