-- ==== Sys2Proof/Machine/Streams.lean ====
section
/-! DEFINITION. Stream circuits: tokens as beats, ports, credits (10_remote_memory_class.md R283-R287, R293). -/

namespace Sys2Proof.Machine

/-! ## Tokens as beats (R284) -/

/-- The bits of a list, lowest first. -/
def flagBits : List Bool → Nat
  | [] => 0
  | b :: bs => (if b then 1 else 0) + 2 * flagBits bs

/-- The 32-bit words a token's payload takes: two for a 64-bit scalar. -/
def payloadWords (t : Token) : List Nat :=
  t.words.flatMap fun x => if x.wide then [x.w.toNat % 2 ^ 32, x.w.toNat / 2 ^ 32] else [x.w.toNat % 2 ^ 32]

/-- Four words a beat, unused words zero. -/
def dataBeats : List Nat → List Beat
  | [] => []
  | [a] => [BitVec.ofNat 128 a]
  | [a, b] => [BitVec.ofNat 128 (a + b * 2 ^ 32)]
  | [a, b, c] => [BitVec.ofNat 128 (a + b * 2 ^ 32 + c * 2 ^ 64)]
  | a :: b :: c :: d :: rest => BitVec.ofNat 128 (a + b * 2 ^ 32 + c * 2 ^ 64 + d * 2 ^ 96) :: dataBeats rest

/-- The header beat with the delivery address. -/
def headBeat (t : Token) (dest : BitVec 16) : Beat :=
  BitVec.ofNat 128 (t.tag.toNat + dest.toNat * 2 ^ 64 + (t.words.length - 1) % 32 * 2 ^ 80 +
    (if t.words.any (·.n) then 2 ^ 85 else 0) + (if t.eos then 2 ^ 86 else 0) + (if t.words.any (·.wide) then 2 ^ 87 else 0) +
    flagBits (t.words.map (·.p)) % 2 ^ 32 * 2 ^ 88)

def beatsOf (t : Token) (dest : BitVec 16) : List Beat := headBeat t dest :: dataBeats (payloadWords t)

def beatW64 (h : Beat) : Bool := h.getLsbD 87
def beatRun (h : Beat) : Nat := (h.extractLsb' 80 5).toNat + 1

/-- Data beats behind a header. -/
def beatData (h : Beat) : Nat := if beatW64 h then 1 else (beatRun h + 3) / 4

/-- Words of data beats. -/
def beatWords (bs : List Beat) : List Nat :=
  bs.flatMap fun b => (List.range 4).map fun i => (b.extractLsb' (32 * i) 32).toNat

/-- The token of a header and its data beats. -/
def tokenOf (h : Beat) (bs : List Beat) : Token :=
  let ws := beatWords bs
  let n := h.getLsbD 85
  let words : List TWord :=
    if beatW64 h then [{ w := BitVec.ofNat 64 (ws.getD 0 0 + ws.getD 1 0 * 2 ^ 32), p := h.getLsbD 88, n := n, wide := true }]
    else (List.range (beatRun h)).map fun i =>
      { w := BitVec.ofNat 64 (ws.getD i 0), p := h.getLsbD (88 + i), n := n, wide := false }
  { tag := (h.extractLsb' 0 64), dest := h.extractLsb' 64 16, words := words, eos := h.getLsbD 86 }

/-- The complete token at the head of a list of beats, and the beats behind it. -/
def firstToken (bs : List Beat) : Option (Token × List Beat) :=
  match bs with
  | [] => none
  | h :: rest => if beatData h ≤ rest.length then some (tokenOf h (rest.take (beatData h)), rest.drop (beatData h)) else none

/-- Stamp a delivery address into every header of a list of beats; the number is the data beats before the next
header. -/
def restamp (d : BitVec 16) : Nat → List Beat → List Beat
  | _, [] => []
  | 0, h :: bs =>
      ((h &&& ~~~ BitVec.ofNat 128 (0xFFFF * 2 ^ 64)) ||| BitVec.ofNat 128 (d.toNat * 2 ^ 64)) :: restamp d (beatData h) bs
  | n + 1, b :: bs => b :: restamp d n bs

/-! ## Ports and circuits -/

def Port.fresh : Port :=
  { task := 0, circuit := none, graph := none, addr := none, ring := none, part := 0, credits := 0, beats := [],
    deliv := 0, stop := false, fifo := [] }

def State.port? (s : State) (t key : Nat) : Option Port := mapFind? (s.tile t).ports key

/-- Beats queued for inbound port j of a token-FIFO tile: those of the token that outbound port j is sending are among them until
they leave (R286, R438). -/
def State.fifoHeld (s : State) (t j : Nat) : Nat :=
  ((s.port? t j).map fun p => p.fifo.length).getD 0 +
    if (s.tile t).mrole == 1 && isMemTile t then ((s.port? t (16 + j)).map fun p => p.beats.length).getD 0 else 0

def State.setPort (s : State) (t key : Nat) (p : Port) : State := s.modTile t fun x => { x with ports := mapPut key p x.ports }

def State.circuit? (s : State) (c : Nat) : Option Circuit := mapFind? s.circuits c

def State.modCircuit (s : State) (c : Nat) (f : Circuit → Circuit) : State :=
  match mapFind? s.circuits c with
  | none => s
  | some x => { s with circuits := mapPut c (f x) s.circuits }

/-- The module of a tile. -/
def tileModule (t : Nat) : Nat := t / 256 / 16

/-- Beats leave for the far end of a circuit: over the stream network, or between modules from the IO die as STRM packets of up to
4,096 bytes (R287). -/
def State.sendBeats (s : State) (c : Nat) (x : Circuit) (bs : List Beat) : State :=
  let m := tileModule x.src.1
  let dm := tileModule x.dst.1
  if m = dm then s.modCircuit c fun x => { x with wire := x.wire ++ bs }
  else if bs.isEmpty then s
  else s.send clsStrm (ioLoc (2 * m + dm % 2)) (x.dst.1 / 256) (.beats c bs)

/-- Credits leave for the producer's end of a circuit; between modules as a CTL packet of KIND 5 (R287, R289). -/
def State.sendCredits (s : State) (c : Nat) (x : Circuit) (n : Nat) : State :=
  if tileModule x.src.1 = tileModule x.dst.1 then s.modCircuit c fun x => { x with creds := x.creds + n }
  else if n = 0 then s
  else s.send clsCtl (x.dst.1 / 256) (x.src.1 / 256) (.credit c n)

/-- Beats of a circuit are on their way (R380, R383). -/
def State.beatsOut (s : State) (c : Nat) (x : Circuit) : Bool :=
  !x.wire.isEmpty || s.net.any fun p => match p.body with
    | .beats d _ => d == c
    | _ => false

/-- An outbound port sends beat by beat, one credit each (R285), at most 64 at once; a port whose circuit lost its link discards them
(R293). -/
def State.portSend (s : State) (t key : Nat) : State :=
  match s.port? t key with
  | none => s
  | some p =>
      match p.circuit with
      | none => s
      | some c =>
          match s.circuit? c with
          | none => s
          | some x =>
              if x.broken then s.setPort t key { p with beats := [] }
              else if x.moving then s
              else
                let n := min p.credits p.beats.length
                (s.setPort t key { p with beats := p.beats.drop n, credits := p.credits - n }).sendBeats c x (p.beats.take n)

/-- The delivery address of the far end of a port's circuit. -/
def State.farAddr (s : State) (p : Port) : BitVec 16 :=
  match p.circuit with
  | none => 0
  | some c =>
      match s.circuit? c with
      | none => 0
      | some x => ((s.port? x.dst.1 x.dst.2).bind (·.addr)).getD 0

/-- A token enters an outbound port, the delivery address stamped (R283). -/
def State.portToken (s : State) (t key : Nat) (tok : Token) : State :=
  match s.port? t key with
  | none => s
  | some p => (s.setPort t key { p with beats := p.beats ++ beatsOf tok (s.farAddr p) }).portSend t key

/-- The outbound port that captures a task's destination on a tile. -/
def State.captured (s : State) (t k : Nat) (dest : BitVec 16) : Option Nat :=
  ((s.tile t).ports.find? fun x => decide (16 ≤ x.1) && x.2.task == k && x.2.addr == some dest).map (·.1)

/-- The capturing port holds beats, so a firing that would enter it waits (R285). -/
def State.portHeld (s : State) (t k : Nat) (dest : BitVec 16) : Bool :=
  match s.captured t k dest with
  | none => false
  | some key => ((s.port? t key).map fun p => !p.beats.isEmpty).getD false

end Sys2Proof.Machine
end

