-- ==== Sys2Proof/Machine/Fabric.lean ====
section
/-! DEFINITION. The dataflow fabric: tag layouts, waiting entries and their placement, matching, result tokens,
contexts (08_token_class.md R198-R218, 02_formats.md R63-R66, 15_system_class.md R436, R437). -/

namespace Sys2Proof.Machine

/-! ## Tags (R37) -/

/-- Width and lowest bit of Fj in a task's layout. -/
def State.fieldAt (s : State) (k j : Nat) : Nat × Nat := (typeTagWidth (s.taskType k) j, typeTagLow (s.taskType k) j)

def getTag (wl : Nat × Nat) (t : Word) : Nat := t.toNat / 2 ^ wl.2 % 2 ^ wl.1

def putTag (wl : Nat × Nat) (t : Word) (v : Nat) : Word := setField t wl.2 wl.1 v

def State.f0 (s : State) (k : Nat) (t : Word) : Nat := getTag (s.fieldAt k 0) t

/-- A tag with F0 replaced, modulo 2^w0. -/
def State.withF0 (s : State) (k : Nat) (t : Word) (v : Nat) : Word := putTag (s.fieldAt k 0) t v

/-- A tag with F0 zero: what all words of a run share. -/
def State.keyOf (s : State) (k : Nat) (t : Word) : Word := s.withF0 k t 0

def ctxOf (t : Word) : Nat := (t.extractLsb' 48 16).toNat

/-! ## Elements -/

/-- The absolute entry of a node number of a task on a PE (R44). -/
def State.nodeKey (s : State) (k pe rel : Nat) : Nat := pe * 1024 + (s.taskTile k (tileOfPe pe)).nodeBase + rel

/-- The node number, relative to the task's range, of an entry (R44). -/
def State.relNode (s : State) (k slot : Nat) : Nat := slot % 1024 - (s.taskTile k (tileOfPe (slot / 1024))).nodeBase

/-- The node address of R64 of an entry, its port zero. -/
def State.nodeAddr (s : State) (k slot : Nat) : Nat := slot / 1024 % 16 * 4096 + s.relNode k slot * 4

def State.element? (s : State) (slot : Nat) : Option NodeSlot := mapFind? s.nodes slot

def State.modElement (s : State) (slot : Nat) (f : NodeSlot → NodeSlot) : State :=
  match mapFind? s.nodes slot with
  | none => s
  | some x => { s with nodes := mapPut slot (f x) s.nodes }

/-- The record an element holds, when it can fire. -/
def NodeSlot.rcd (x : NodeSlot) : Option NodeRecord :=
  if x.blocked then none
  else
    match decodeSlot x.raw with
    | .ok r => some r
    | .error _ => none

/-- The ports a record awaits (R62, R63): 0 L, 1 R, 2 C. -/
def awaited (n : NRec) : List Nat :=
  match n.arity with
  | .one => [0]
  | .two => if n.lit then [0] else [0, 1]
  | .three => if n.lit then [0, 2] else [0, 1, 2]

/-- The record's node fires each word alone, without matching: it awaits L alone, or is a LOOPENT (R200, R223). -/
def direct (x : NodeRecord) : Bool := awaited x.r == [0] || x.op == .loopent

/-! ## Records of firings (R112, R209, R218) -/

/-- A fault record of a PE. -/
def State.peRecord (s : State) (pe k rel code : Nat) (tag op0 op1 addr : Word) (flags : Nat) : State :=
  let t := tileOfPe pe
  s.record { code := code, die := dieOfTile t, io := false, tileByte := tileByte t, unit := pe % 16, flags := flags,
             node := rel, tag := tag, task := s.instanceId k, cycle := s.cycleOf t, op0 := op0, op1 := op1,
             addr := addr }

def firstWord (ws : List TWord) : Word :=
  match ws with
  | [] => 0
  | x :: _ => x.w

def secondWord (ws : List TWord) : Word :=
  match ws with
  | _ :: x :: _ => x.w
  | _ => 0

/-- The record of a firing: the firing's tag and its operands. -/
def State.fireRecord (s : State) (f : Firing) (code : Nat) (addr : Word) : State :=
  s.peRecord f.pe f.task (s.relNode f.task f.slot) code f.tag (firstWord f.l) (firstWord f.r) addr 0

/-- FLOW_STATE with a reason (R218). -/
def State.flowRecord (s : State) (f : Firing) (reason dropped : Nat) : State :=
  s.peRecord f.pe f.task (s.relNode f.task f.slot) cFlowState f.tag (firstWord (f.l ++ f.r)) (secondWord (f.l ++ f.r))
    (BitVec.ofNat 64 (reason + dropped % 2 ^ 32 * 2 ^ 32)) 0

/-! ## The memory image of a waiting entry (R202) -/

def WKind.code : WKind → Nat
  | .operand | .parkedWave | .contribution | .arrival _ => 1
  | .loop _ _ _ => 2
  | .linkage _ _ => 3
  | .count _ _ _ _ | .heldE _ | .gathered _ _ | .commit _ _ _ _ => 4
  | .callWait _ _ => 5

/-- Bits of a list of Booleans, lowest first. -/
def boolBits : List Bool → Nat
  | [] => 0
  | b :: bs => (if b then 1 else 0) + 2 * boolBits bs

/-- Bytes 152 to 255 of an entry (R202). What the layout names no field for is the model's choice (log 112; DESIGN CHOICE): the
non-null words of a JOIN's or ACOMB's count, the accepted count of a COMMIT and the E of a RUNPACK group lie in 156-163. -/
def WKind.bytes : WKind → List Byte
  | .loop b r x =>
      natToBytes 4 b ++ natToBytes 8 ((r.map fun i => 2 ^ i).sum) ++ natToBytes 4 (if x.isSome then 1 else 0) ++
        natToBytes 4 (x.getD 0)
  | .linkage t d => natToBytes 8 t.toNat ++ natToBytes 2 d.toNat
  | .count n m _ _ => natToBytes 4 n ++ natToBytes 8 m
  | .heldE es => natToBytes 4 es.length ++ (es.take 2).flatMap fun e => natToBytes 4 e.2.1
  | .commit k a _ _ => natToBytes 4 k ++ natToBytes 8 a
  | .gathered ws e => natToBytes 4 ws.length ++ natToBytes 8 ((e.getD (0, false)).1)
  | .callWait f _ => natToBytes 8 f.tag.toNat
  | .operand | .parkedWave | .contribution | .arrival _ => []

/-- Pad with zero bytes to a length. -/
def padTo (n : Nat) (bs : List Byte) : List Byte := bs.take n ++ List.replicate (n - bs.length) 0

/-- The words an entry keeps in its payload area. -/
def WEntry.payload (e : WEntry) : List TWord :=
  match e.kind with
  | .gathered ws _ => ws.map (·.2)
  | .commit _ _ ws _ => ws.map (·.2.1)
  | .callWait f _ => f.l ++ f.r
  | _ => e.words

/-- The port of a destination (R64). -/
def portOf (d : BitVec 16) : Nat := (d.extractLsb' 0 2).toNat

/-- The arrival record of a piece, in its place of the overflow table (R202, R208). -/
def DeepPiece.entry (d : DeepPiece) (pos : Nat) : WEntry :=
  { kind := .arrival d.tok.eos, slot := d.slot, port := portOf d.tok.dest, tag := d.tok.tag, words := d.tok.words, seq := d.seq,
    cycle := d.cycle, level := .overflow, set := d.set, bucket := 0, pos := pos, task := d.task }

/-- The 256 bytes of R202 of an entry of a node's number. -/
def slotBytes (rel pe : Nat) (e : WEntry) : List Byte :=
  let ws := e.payload
  let addr := pe % 16 * 4096 + rel * 4 + e.port
  let flags := (if ws.any (·.n) then 1 else 0) + (match e.kind with | .heldE _ | .arrival true => 2 | _ => 0)
  padTo 256 (padTo 152 (natToBytes 8 e.tag.toNat ++ natToBytes 2 addr ++
    [BitVec.ofNat 8 ((ws.length - 1) % 32 + e.kind.code * 32), BitVec.ofNat 8 flags] ++
    natToBytes 4 (boolBits (ws.map (·.p))) ++
    padTo 128 (ws.flatMap fun x => natToBytes (if x.wide then 8 else 4) x.w.toNat) ++ natToBytes 8 e.seq) ++ e.kind.bytes)

def State.entryBytes (s : State) (pe : Nat) (e : WEntry) : List Byte := slotBytes (s.relNode e.task e.slot) pe e

/-! ## Placement (R203, R204, R207, R209) -/

/-- The exclusive or of the four 16-bit quarters. -/
def fold16 (w : Word) : Nat :=
  (w.extractLsb' 0 16 ^^^ w.extractLsb' 16 16 ^^^ w.extractLsb' 32 16 ^^^ w.extractLsb' 48 16).toNat

/-- FRAME granules of a task on a tile, ascending. -/
def State.frameGranules (s : State) (k t : Nat) : List Nat :=
  (List.range 32).filter fun g =>
    ((s.tile t).poolpart.extractLsb' (2 * g) 2).toNat == 1 && mapFind? (s.tile t).owners g == some k

/-- Matching-store set of a tag and node number (R203). -/
def State.setOf (s : State) (k : Nat) (tag : Word) (rel : Nat) : Nat :=
  Nat.xor (fold16 (s.withF0 k tag (s.f0 k tag / 32))) rel % 64

/-- Frame bucket (R203); 0 where the task has no FRAME granules. -/
def State.bucketOf (s : State) (k pe : Nat) (tag : Word) (rel : Nat) : Nat :=
  let b := 32 * (s.frameGranules k (tileOfPe pe)).length
  if b = 0 then 0 else Nat.xor (Nat.xor (fold16 (s.withF0 k tag (s.f0 k tag / 32))) rel) (pe % 16 * 1024) % b

/-- The entries of every PE of a tile. -/
def State.tileEntries (s : State) (t : Nat) : List (Nat × WEntry) :=
  (List.range 16).flatMap fun i => (s.pe (16 * t + i)).entries.map fun e => (16 * t + i, e)

/-- The lowest place not taken. -/
def freePlace (n : Nat) (used : List Nat) : Option Nat := (List.range n).find? fun i => !used.contains i

/-- Entries of a task's overflow table on a tile (R204, R366). -/
def State.ovfCap (s : State) (k : Nat) : Nat := typeOvf (s.taskType k) * 256

/-- Places that arrival records take in a task's overflow table on a tile (R208). -/
def State.recordPlaces (s : State) (k t : Nat) : List Nat :=
  (List.range 16).flatMap fun i => ((s.pe (16 * t + i)).deep.filter fun d => d.task == k).filterMap (·.record)

/-- Places of the overflow table in use: entries and arrival records. -/
def State.ovfUsed (s : State) (k t : Nat) : List Nat :=
  ((s.tileEntries t).filter fun x => x.2.task == k && x.2.level == .overflow).map (·.2.pos) ++ s.recordPlaces k t

/-- Where the slot of a placed entry lies in memory: pool bytes of its bucket, or DRAM. -/
def State.entryKey (s : State) (pe : Nat) (e : WEntry) : Option Nat :=
  let t := tileOfPe pe
  match e.level with
  | .matching => none
  | .frame =>
      match (s.frameGranules e.task t)[e.bucket / 32]? with
      | some g => some (poolKey s t (g * 0x10000 + e.bucket % 32 * 2048 + e.pos * 256))
      | none => none
  | .overflow => some (dieOfTile t * 2 ^ 40 + (s.taskTile e.task t).ovfBase + e.pos * 256)

/-- An entry held below the matching store is written to its slot (R202, R207). -/
def State.writeEntry (s : State) (pe : Nat) (e : WEntry) : State :=
  match s.entryKey pe e with
  | some a => s.writeBytes a (s.entryBytes pe e)
  | none => s

/-- The slot of an entry below the matching store holds a poisoned word (R429). -/
def State.entryBad (s : State) (pe : Nat) (e : WEntry) : Bool :=
  match s.entryKey pe e with
  | some a => s.poisoned a 256
  | none => false

/-- The record of a firing that reads a poisoned slot: ECC_UNCORR with the slot's place (R429; log 30). -/
def State.entryEcc (s : State) (pe : Nat) (e : WEntry) : State :=
  s.peRecord pe e.task (s.relNode e.task e.slot) cEccUncorr e.tag (firstWord e.payload) (secondWord e.payload)
    (BitVec.ofNat 64 ((s.entryKey pe e).getD 0)) 0

/-- A freed slot is marked free (R202, kind 000). -/
def State.clearEntry (s : State) (pe : Nat) (e : WEntry) : State :=
  match s.entryKey pe e with
  | some a => s.writeBytes (a + 10) [0]
  | none => s

def State.addEntry (s : State) (pe : Nat) (e : WEntry) : State :=
  (s.modPe pe fun p => { p with entries := p.entries ++ [e] }).writeEntry pe e

/-- FRAME_OVERFLOW (R209): the tag and the words are the piece's, whatever its entry would be keyed by. -/
def State.overflowRecord (s : State) (pe : Nat) (e : WEntry) (tag : Word) (ws : List TWord) : State :=
  s.peRecord pe e.task (s.relNode e.task e.slot) cFrameOverflow tag (firstWord ws) (secondWord ws) 0 0

/-- Place the entry of a piece (R207): a free way, a free slot of its bucket, the overflow table, else FRAME_OVERFLOW;
whether it was placed. -/
def State.placeOf (s : State) (pe : Nat) (e : WEntry) (tag : Word) (ws : List TWord) : Bool × State :=
  let t := tileOfPe pe
  let rel := s.relNode e.task e.slot
  let set := s.setOf e.task e.tag rel
  let b := s.bucketOf e.task pe e.tag rel
  let ways := ((s.pe pe).entries.filter fun x => x.set == set && x.level == .matching).map (·.pos)
  let slots := ((s.tileEntries t).filter fun x => x.2.task == e.task && x.2.level == .frame && x.2.bucket == b).map (·.2.pos)
  let e := { e with set := set, bucket := b }
  match freePlace 8 ways with
  | some i => (true, s.addEntry pe { e with level := .matching, pos := i })
  | none =>
      match (if (s.frameGranules e.task t).isEmpty then none else freePlace 8 slots) with
      | some i => (true, s.addEntry pe { e with level := .frame, pos := i })
      | none =>
          match freePlace (s.ovfCap e.task) (s.ovfUsed e.task t) with
          | some i => (true, s.addEntry pe { e with level := .overflow, pos := i })
          | none => (false, s.overflowRecord pe e tag ws)

/-- Place an entry that holds its piece whole. -/
def State.place (s : State) (pe : Nat) (e : WEntry) : Bool × State := s.placeOf pe e e.tag e.payload

/-- Entries of a set held below the matching store (R204). -/
def Pe.lower (p : Pe) (set : Nat) : Nat := (p.entries.filter fun e => e.set == set && e.level != .matching).length

/-- Remove an entry. -/
def State.dropEntry (s : State) (pe : Nat) (e : WEntry) : State :=
  (s.clearEntry pe e).modPe pe fun p => { p with entries := p.entries.erase e }

/-- Replace an entry in its place. -/
def State.swapEntry (s : State) (pe : Nat) (e e' : WEntry) : State :=
  (s.modPe pe fun p => { p with entries := p.entries.map fun x => if x = e then e' else x }).writeEntry pe e'

/-- The next arrival number of a PE. -/
def State.nextSeq (s : State) (pe : Nat) : State := s.modPe pe fun p => { p with seq := p.seq + 1 }

/-- An entry with nothing placed yet, of the arrival with a number. -/
def State.newEntry (s : State) (pe k slot port seq : Nat) (tag : Word) (kind : WKind) (ws : List TWord) : WEntry :=
  { kind := kind, slot := slot, port := port, tag := tag, words := ws, seq := seq,
    cycle := s.cycleOf (tileOfPe pe), level := .matching, set := 0, bucket := 0, pos := 0, task := k }

/-- The entry of a PE that satisfies a test, earliest first. -/
def Pe.entry? (p : Pe) (q : WEntry → Bool) : Option WEntry :=
  (p.entries.filter q).foldl (fun b e => match b with
    | none => some e
    | some x => if e.seq < x.seq then some e else some x) none

/-! ## Ready firings (R205, R211, R436) -/

/-- The ready list is kept in the order of the completing arrivals, those of one arrival in ascending tag (R211). -/
def insertReady (f : Firing) : List Firing → List Firing
  | [] => [f]
  | g :: gs =>
      if f.seq < g.seq ∨ (f.seq = g.seq ∧ f.tag.toNat < g.tag.toNat) then f :: g :: gs else g :: insertReady f gs

/-- A firing becomes ready; one of a trapped node waits for the resumption (R436). -/
def State.readyFiring (s : State) (f : Firing) : State :=
  match s.element? f.slot with
  | some x => if x.trapped then s.modElement f.slot fun y => { y with held := y.held ++ [f] }
      else s.modPe f.pe fun p => { p with ready := insertReady f p.ready }
  | none => s.modPe f.pe fun p => { p with ready := insertReady f p.ready }

/-- A firing's null flag: its words agree (R205). -/
def Firing.nul (f : Firing) : Bool := (f.l ++ f.r ++ f.c).any (·.n)

/-- The run length of a firing. -/
def Firing.len (f : Firing) : Nat := max f.l.length (max f.r.length f.c.length)

/-! ## Matching (R205, R206) -/

/-- The entry whose word of port q waits at f, earliest arrival first (R206). -/
def State.waiting (s : State) (pe k slot q : Nat) (key : Word) (f : Nat) : Option WEntry :=
  (s.pe pe).entry? fun e =>
    e.kind == .operand && e.slot == slot && e.port == q && s.keyOf k e.tag == key &&
      decide (s.f0 k e.tag ≤ f) && decide (f < s.f0 k e.tag + e.words.length)

/-- A complete word: its F0, the words of ports L, R and C, the earliest arrival cycle, a poisoned slot it was read from. -/
structure Taken where
  f : Nat
  l : TWord
  r : TWord
  c : TWord
  cycle : Nat
  bad : Option WEntry
  deriving DecidableEq, Repr, Inhabited

def Taken.set (x : Taken) (q : Nat) (w : TWord) : Taken :=
  if q = 0 then { x with l := w } else if q = 1 then { x with r := w } else { x with c := w }

def Taken.nul (x : Taken) : Bool := x.l.n || x.r.n || x.c.n

/-- The partner words at f on every port of a list, when all wait. -/
def State.partners (s : State) (pe k slot : Nat) (key : Word) (f : Nat) : List Nat → Option (List (Nat × WEntry))
  | [] => some []
  | q :: qs =>
      match s.waiting pe k slot q key f, s.partners pe k slot key f qs with
      | some e, some r => some ((q, e) :: r)
      | _, _ => none

/-- A waiting word as a firing reads it: with P where its slot is poisoned (R429). -/
def State.wordAt (s : State) (pe k : Nat) (e : WEntry) (f : Nat) : TWord :=
  let w := e.words.getD (f - s.f0 k e.tag) default
  { w with p := w.p || s.entryBad pe e }

/-- A partner's word joins those taken. -/
def State.takePartner (s : State) (pe k f : Nat) (x : Taken) (q : Nat × WEntry) : Taken :=
  { x.set q.1 (s.wordAt pe k q.2 f) with cycle := min x.cycle q.2.cycle, bad := if s.entryBad pe q.2 then x.bad.or (some q.2) else x.bad }

/-- Words of a piece in turn: the complete ones, the waiting words they take, the others. -/
def matchWords (s : State) (pe k slot port cycle : Nat) (key : Word) (qs : List Nat) :
    Nat → List TWord → List Taken × List (WEntry × Nat) × List (Nat × TWord)
  | _, [] => ([], [], [])
  | f, w :: ws =>
      let r := matchWords s pe k slot port cycle key qs (f + 1) ws
      match s.partners pe k slot key f qs with
      | none => (r.1, r.2.1, (f, w) :: r.2.2)
      | some ps =>
          let x : Taken := { f := f, l := default, r := default, c := default, cycle := cycle, bad := none }
          (ps.foldl (s.takePartner pe k f) (x.set port w) :: r.1, ps.map (fun q => (q.2, f)) ++ r.2.1, r.2.2)

/-- Maximal runs of consecutive F0 that agree in a test. -/
def runsOf {α : Type} (fOf : α → Nat) (same : α → α → Bool) : List α → List (List α)
  | [] => []
  | x :: xs =>
      match runsOf fOf same xs with
      | (y :: ys) :: rest => if fOf y == fOf x + 1 && same x y then (x :: y :: ys) :: rest else [x] :: (y :: ys) :: rest
      | rest => [x] :: rest

/-- The ranges of an entry's words left when those at some F0 are taken, as entries. -/
def State.leftRanges (s : State) (k : Nat) (e : WEntry) (fs : List Nat) : List WEntry :=
  let b := s.f0 k e.tag
  let left := ((List.range e.words.length).zip e.words).filter fun x => !fs.contains (b + x.1)
  (runsOf (·.1) (fun _ _ => true) left).map fun p =>
    { e with words := p.map (·.2), tag := s.withF0 k e.tag (b + (p.head?.map (·.1)).getD 0) }

/-- The taken words are removed: what is left of an entry stays in its place, a second range becomes an entry (R205). -/
def State.takeWords (s : State) (pe k : Nat) (tk : List (WEntry × Nat)) : State :=
  let xs := (tk.map (·.1)).eraseDups.map fun e => (e, s.leftRanges k e ((tk.filter fun x => x.1 == e).map (·.2)))
  let s := xs.foldl (fun s x => match x.2 with
    | [] => s.dropEntry pe x.1
    | e :: _ => s.swapEntry pe x.1 e) s
  (xs.flatMap fun x => x.2.drop 1).foldl (fun s e => (s.place pe e).2) s

/-- The literal as a word (R63). -/
def litWord (n : NRec) : TWord := { w := n.lit32.setWidth 64, p := false, n := false, wide := false }

/-- The firing of a part of complete words: ports not awaited hold nothing, the literal stands in for R. -/
def State.partFiring (s : State) (pe k slot port seq cycle : Nat) (key : Word) (x : NodeRecord) (part : List Taken) : Firing :=
  let ports := awaited x.r
  { pe := pe, slot := slot, tag := s.withF0 k key ((part.head?.map (·.f)).getD 0), port := port,
    l := part.map (·.l),
    r := if x.r.lit then part.map fun _ => litWord x.r else if ports.contains 1 then part.map (·.r) else [],
    c := if ports.contains 2 then part.map (·.c) else [], eos := false, seq := seq,
    wait := some (cycle - part.foldl (fun m y => min m y.cycle) cycle),
    task := k, node := x }

/-- Match a piece (R205): fire each part, place what is left; FRAME_OVERFLOW names the piece (R209). A piece at a port that the node
does not await is matched with the awaited ports, and its words go with the firing (log 112; DESIGN CHOICE: the spec names no effect of
such a token). -/
def State.matchPiece (s : State) (pe k slot port seq cycle : Nat) (x : NodeRecord) (t : Token) : State :=
  let qs := (awaited x.r).filter (· ≠ port)
  let key := s.keyOf k t.tag
  let m := matchWords s pe k slot port cycle key qs (s.f0 k t.tag) t.words
  let s := (runsOf Taken.f (fun a b => a.nul == b.nul) m.1).foldl
    (fun s part =>
      let s := match part.findSome? (·.bad) with
        | some e => s.entryEcc pe e
        | none => s
      s.readyFiring (s.partFiring pe k slot port seq cycle key x part)) (s.takeWords pe k m.2.1)
  (runsOf (α := Nat × TWord) (·.1) (fun _ _ => true) m.2.2).foldl (fun s part =>
    let e := s.newEntry pe k slot port seq (s.withF0 k key ((part.head?.map (·.1)).getD 0)) .operand (part.map (·.2))
    (s.placeOf pe { e with cycle := cycle } t.tag t.words).2) s

/-- A node that awaits L alone fires on each piece; LOOPENT fires on the port of arrival (R200, R223). A token at a port that the
node does not await fires it with L empty, and one at port C of a LOOPENT retires (log 112; DESIGN CHOICE: the spec names no effect of
such a token). -/
def directFiring (pe k slot port seq : Nat) (x : NodeRecord) (t : Token) : Firing :=
  { pe := pe, slot := slot, tag := t.tag, port := port,
    l := if port = 0 then t.words else [],
    r := if port = 1 then t.words else if x.r.lit then t.words.map fun _ => litWord x.r else [],
    c := if port = 2 then t.words else [], eos := t.eos, seq := seq, wait := none, task := k, node := x }

/-! ## E tokens (R215) -/

def countWord (n : Nat) (p : Bool) : TWord := { w := BitVec.ofNat 64 n, p := p, n := false, wide := false }

/-- Discard waiting words with F0 at or above m. -/
def State.discardFrom (s : State) (pe k slot : Nat) (key : Word) (m : Nat) : State :=
  ((s.pe pe).entries.filter fun e => e.kind == .operand && e.slot == slot && s.keyOf k e.tag == key).foldl
    (fun s e =>
      let keep := m - s.f0 k e.tag
      if e.words.length ≤ keep then s
      else if keep = 0 then s.dropEntry pe e else s.swapEntry pe e { e with words := e.words.take keep }) s

/-- The first held E of a port. -/
def heldAt (es : List (Nat × Nat × Bool)) (q : Nat) : Option (Nat × Nat × Bool) := es.find? fun e => e.1 == q

/-- Act on one E of every port: the agreed or least count, P where they differ (R215). -/
def State.actE (s : State) (pe k slot seq : Nat) (x : NodeRecord) (key : Word) (hs : List (Nat × Nat × Bool)) : State :=
  let counts := hs.map fun h => h.2.1
  let m := counts.foldl min (counts.headD 0)
  let big := counts.foldl max 0
  let p := hs.any fun h => h.2.2
  let s := if m = big then s
    else (s.discardFrom pe k slot key m).peRecord pe k (s.relNode k slot) cStreamLength key
      (BitVec.ofNat 64 (m + big % 2 ^ 32 * 2 ^ 32)) 0 0 0
  s.readyFiring { pe := pe, slot := slot, tag := key, port := 0, l := [countWord m (p || m != big)], r := [], c := [],
                  eos := true, seq := seq, wait := none, task := k, node := x }

/-- An E token at a node that matches: held until every awaited port has one (R215). -/
def State.arriveE (s : State) (pe k slot port seq : Nat) (x : NodeRecord) (t : Token) : State :=
  let key := s.keyOf k t.tag
  let w := t.words.headD default
  let e1 : Nat × Nat × Bool := (port, w.w.toNat % 2 ^ 32, w.p)
  let isHeld (e : WEntry) : Bool := e.slot == slot && e.tag == key && match e.kind with
    | .heldE _ => true
    | _ => false
  let act (es : List (Nat × Nat × Bool)) : Option (List (Nat × Nat × Bool)) := (awaited x.r).mapM (heldAt es)
  match (s.pe pe).entry? isHeld with
  | none =>
      if (awaited x.r).length ≤ 1 then s.actE pe k slot seq x key [e1]
      else (s.placeOf pe (s.newEntry pe k slot 0 seq key (.heldE [e1]) []) t.tag t.words).2
  | some e =>
      match e.kind with
      | .heldE es =>
          let es := es ++ [e1]
          match act es with
          | none => s.swapEntry pe e { e with kind := .heldE es }
          | some hs =>
              let rest := hs.foldl (fun r h => r.erase h) es
              let s := if rest.isEmpty then s.dropEntry pe e else s.swapEntry pe e { e with kind := .heldE rest }
              s.actE pe k slot seq x key hs
      | _ => s

/-! ## Contexts (R216, R217) -/

/-- The task a context is live for on a tile. -/
def State.ctxTask (s : State) (t ctx : Nat) : Option Nat := mapFind? (s.tile t).ctx ctx

/-- Contexts a task holds on a tile. -/
def State.ctxHeld (s : State) (k t : Nat) : List Nat := ((s.tile t).ctx.filter fun c => c.2 == k).map (·.1)

/-- A task's quota of contexts on a tile (R216). -/
def State.ctxQuota (s : State) (k t : Nat) : Nat := 64 * (s.frameGranules k t).length

/-- The lowest id free on a tile, of 0x0001 to 0xFFFF. -/
def lowestFree (used : SMap Nat) : Nat → Nat → Option Nat
  | 0, _ => none
  | n + 1, i => if (mapFind? used i).isSome then lowestFree used n (i + 1) else some i

def State.freeCtx? (s : State) (k t : Nat) : Option Nat :=
  if s.ctxQuota k t ≤ (s.ctxHeld k t).length then none else lowestFree (s.tile t).ctx 65535 1

/-- Draw a context for a task. -/
def State.drawCtx (s : State) (k t ctx : Nat) : State :=
  s.modTile t fun x => { x with ctx := mapPut ctx k x.ctx, ctxRec := x.ctxRec.erase ctx }

/-- Waiting entries of a context on a tile. -/
def State.ctxEntries (s : State) (t ctx : Nat) : List (Nat × WEntry) := (s.tileEntries t).filter fun x => ctxOf x.2.tag == ctx

/-- Free a context: its entries are discarded. -/
def State.releaseCtx (s : State) (t ctx : Nat) : State :=
  let s := (s.ctxEntries t ctx).foldl (fun s x => s.dropEntry x.1 x.2) s
  let last := (s.ctxTask t ctx).map s.instanceId
  s.modTile t fun x =>
    { x with ctx := mapDel ctx x.ctx, ctxRec := x.ctxRec.erase ctx,
             ctxLast := match last with
               | some w => wordPut ctx w x.ctxLast
               | none => x.ctxLast }

/-! ## Tokens in transit -/

/-- Put a token at a PE's input behind others of its source (R198). -/
def State.toInput (s : State) (pe src : Nat) (t : Token) : State :=
  s.modPe pe fun p => { p with input := p.input ++ [{ src := src, tok := t }] }

/-- A source of its own for a token that carries no order: numbers above every PE. -/
def freeSource (s : State) : Nat := 2 ^ 40 + s.nextId

/-- A SEND token travels as one REQ packet, within its die (R231). -/
def State.sendToken (s : State) (from_ tile : Nat) (t : Token) : State :=
  s.send clsReq (dieOfTile from_) (dieOfTile tile) (.token from_ tile t)

/-- A token leaves a PE: to its mesh, to another tile, or into the stream that captures its link (R283). -/
def State.tokenOut (s : State) (pe : Nat) (remote : Option Nat) (t : Token) : State :=
  match remote with
  | some tile => s.sendToken (tileOfPe pe) tile t
  | none =>
      let tl := tileOfPe pe
      match (s.ctxTask tl (ctxOf t.tag)).bind fun k => s.captured tl k t.dest with
      | some key => s.portToken tl key t
      | none => s.toInput (tl * 16 + (t.dest.extractLsb' 12 4).toNat) pe t

/-! ## The packer (R213) -/

def State.packerAt (s : State) (pe : Nat) (dest : BitVec 16) (remote : Option Nat) : Option Packer :=
  (s.pe pe).packers.find? fun q => q.tok.dest == dest && q.remote == remote

/-- The open run towards a destination is emitted. -/
def State.flushTo (s : State) (pe : Nat) (dest : BitVec 16) (remote : Option Nat) : State :=
  match s.packerAt pe dest remote with
  | none => s
  | some q => (s.modPe pe fun p => { p with packers := p.packers.erase q }).tokenOut pe remote q.tok

/-- A result extends the open run. -/
def State.extends (s : State) (k : Nat) (q : Packer) (t : Token) : Bool :=
  s.keyOf k q.tok.tag == s.keyOf k t.tag &&
    s.f0 k t.tag == (s.f0 k q.tok.tag + q.tok.words.length) % 2 ^ (s.fieldAt k 0).1 &&
    decide (q.tok.words.length + t.words.length ≤ 32) && (q.tok.words.any (·.n)) == (t.words.any (·.n)) &&
    !(q.tok.words.any (·.wide)) && !(t.words.any (·.wide))

/-- Offer a result to the packer: extend, or emit the open run and open one. -/
def State.offer (s : State) (pe k : Nat) (remote : Option Nat) (t : Token) : State :=
  let c := s.cycleOf (tileOfPe pe)
  let put (s : State) (t : Token) : State :=
    let s := s.modPe pe fun p =>
      { p with packers := (p.packers.filter fun q => !(q.tok.dest == t.dest && q.remote == remote)) ++
                 [{ tok := t, remote := remote, cycle := c }] }
    if t.words.length < 32 then s else s.flushTo pe t.dest remote
  match s.packerAt pe t.dest remote with
  | none => put s t
  | some q =>
      if s.extends k q t then put s { q.tok with words := q.tok.words ++ t.words }
      else put (s.flushTo pe t.dest remote) t

/-! ## Result tokens (R64, R65, R213, R215) -/

/-- TAGOP's action on the tag and the run; v is the result's first word (R65). On an E token it acts outside F0
(R215). -/
def State.actTag (s : State) (k : Nat) (n : NRec) (eos : Bool) (tag : Word) (ws : List TWord) : Word × List TWord :=
  let j := n.k.toNat
  let fl := s.fieldAt k j
  let skip := eos && j == 0
  match n.act with
  | .inc => (if skip then tag else putTag fl tag (getTag fl tag + 1), ws)
  | .enter => (if skip then tag else putTag fl tag 0, ws)
  | .exit => (if skip then tag else putTag fl tag 0, if eos then ws else ws.drop (ws.length - 1))
  | .setv => (if skip then tag else putTag fl tag ((firstWord ws).toNat % 2 ^ 32), ws)
  | _ => (tag, ws)

/-- A run as tokens under RUN: one token or its words as scalars (R213). -/
def State.runTokens (s : State) (k : Nat) (run : RunOp) (tag : Word) (dest : BitVec 16) (ws : List TWord) : List Token :=
  match run with
  | .split => (ws.zip (List.range ws.length)).map fun x =>
      { tag := s.withF0 k tag (s.f0 k tag + x.2), dest := dest, words := [x.1], eos := false }
  | _ => [{ tag := tag, dest := dest, words := ws, eos := false }]

/-- Send a result to one destination under RUN; an E leaves as one token behind its data. -/
def State.emitTo (s : State) (f : Firing) (run : RunOp) (eos : Bool) (tag : Word) (ws : List TWord) (dest : BitVec 16)
    (remote : Option Nat) : State :=
  if dest = destNone && remote.isNone then s
  else if eos then
    (s.flushTo f.pe dest remote).tokenOut f.pe remote
      { tag := s.keyOf f.task tag, dest := dest, words := ws.take 1, eos := true }
  else
    match run with
    | .pack => s.offer f.pe f.task remote { tag := tag, dest := dest, words := ws, eos := false }
    | run => (s.runTokens f.task run tag dest ws).foldl (fun s t => s.tokenOut f.pe remote t) s

/-- Emit a result with TAGOP to given destinations. -/
def State.emitAt (s : State) (f : Firing) (eos : Bool) (tag : Word) (ws : List TWord) (dests : List (BitVec 16)) : State :=
  let r := s.actTag f.task f.node.r eos tag ws
  dests.foldl (fun s d => s.emitTo f f.node.r.run eos r.1 r.2 d none) s

/-- Emit a result to DSTA and DSTB. -/
def State.emit (s : State) (f : Firing) (tag : Word) (ws : List TWord) : State :=
  s.emitAt f false tag ws [f.node.r.dsta, f.node.r.dstb]

/-- Emit an E with a count. -/
def State.emitE (s : State) (f : Firing) (tag : Word) (n : Nat) (p : Bool) : State :=
  s.emitAt f true tag [countWord n p] [f.node.r.dsta, f.node.r.dstb]

/-! ## What every firing does -/

/-- Bucket of a wait sample (R470). -/
def histBucket (w : Nat) : Nat :=
  if w < 4 then 0 else min 7 (Nat.log2 w / 2)

/-- An unsigned 64-bit addition performed in memory by the tile (R470). -/
def State.addWord (s : State) (pa v : Nat) : State :=
  s.writeNat pa 8 ((s.readNat pa 8 + v) % 2 ^ 64)

/-- HTRC and FIRE at each firing: a TRC node's FIRE record carries the tag after TAGOP and the first word (R467). -/
def State.traceFire (s : State) (f : Firing) (tag : Word) (ws : List TWord) : State :=
  if f.node.r.trc then
    let r := s.actTag f.task f.node.r f.eos tag ws
    let w := ws.headD default
    let flags := (if w.n then 8 else 0) + (if f.eos then 16 else 0) + (if w.p then 32 else 0)
    s.traceRec (tileOfPe f.pe) kFire r.1 (s.nodeAddr f.task f.slot) (f.pe % 16) flags (w.w.toNat % 2 ^ 32)
  else s

end Sys2Proof.Machine
end

