-- ==== Sys2Proof/Machine/Translate.lean ====
section
/-! DEFINITION. Address translation: the five-level walk, held translations and the backing of a physical offset
(09_local_memory_class.md R236, R242-R245). -/

namespace Sys2Proof.Machine

/-- A walk's end: a fault code, the page, or none yet (a table's region does not answer). -/
inductive WalkEnd where
  | wait
  | fault (code : Nat)
  | page (e : TlbEntry)
  deriving DecidableEq, Repr, Inhabited

/-- Page bits of a leaf at a level; a level-0 leaf with C16 maps 64 KiB (R242, R243). -/
def pageBits (level : Nat) (c16 : Bool) : Nat :=
  match level with
  | 0 => if c16 then 16 else 12
  | 1 => 21
  | _ => 30

/-- Index of a VA at a level (R242). -/
def levelIndex (level va : Nat) : Nat := va / 2 ^ (12 + 9 * level) % (if level = 4 then 256 else 512)

def pteV (e : Word) : Bool := e.getLsbD 0
def pteLeaf (e : Word) : Bool := e.getLsbD 1
def pteC16 (e : Word) : Bool := e.getLsbD 5
def pteReserved (e : Word) : Bool := e.extractLsb' 6 6 != 0 || e.extractLsb' 54 10 != 0
def ptePa (e : Word) : Nat := (e.extractLsb' 12 42).toNat * 4096

/-- The rows of R244 an entry of a level can fail, in order. -/
def pteFault (level : Nat) (e : Word) : Option Nat :=
  if !pteV e then some cPageFault
  else if pteReserved e || (pteLeaf e && decide (3 ≤ level)) || (!pteLeaf e && level == 0) ||
      (pteC16 e && level != 0) || (pteLeaf e && ptePa e % 2 ^ pageBits level (pteC16 e) != 0) then some cAccessFault
  else none

/-- The page a leaf maps (R243). -/
def leafPage (asid level va : Nat) (e : Word) : TlbEntry :=
  let b := pageBits level (pteC16 e)
  { asid := asid, va := va / 2 ^ b * 2 ^ b, size := 2 ^ b, pa := ptePa e, rd := e.getLsbD 2, wr := e.getLsbD 3,
    rc := e.getLsbD 4 }

/-- The regions of R236 and R249 an offset names. -/
inductive Backing where
  | dram (die off : Nat)
  | buffer (tile off : Nat)
  | unbacked
  deriving DecidableEq, Repr, Inhabited

/-- The backing of a physical pod address (R28, R236). -/
def backing (s : State) (pa : Nat) : Backing :=
  let die := pa / 2 ^ 40
  let off := pa % 2 ^ 40
  if off < 0x1000000000 then .dram die off
  else if 0xF000000000 ≤ off ∧ off < 0xF000000000 + 256 * 0x400000 then
    let t := die * 256 + (off - 0xF000000000) / 0x400000
    if isMemTile t && (s.tile t).mrole == 0 then .buffer t ((off - 0xF000000000) % 0x400000) else .unbacked
  else .unbacked

/-- The address is memory of a non-Jequa accelerator, as the partition of a die's module names it (R296). -/
def State.isPeer (s : State) (die pa : Nat) : Bool := (mapGet Module.reset s.modules (moduleOfDie die)).accels.contains (pa / 2 ^ 44)

/-- The DRAM of a die answers: its module's supply is on (R14), and the die has not put it in self-refresh at a thermal trip
(R459). -/
def State.dramUp (s : State) (die : Nat) : Bool :=
  (mapGet Module.reset s.modules (moduleOfDie die)).powered && !(s.die die).tripped

/-- The region of an address takes what comes from beyond the clusters: the units of the die, a root port (R14, R240, R459, R461). -/
def State.homeUp (s : State) (die pa : Nat) : Bool :=
  s.isPeer die pa || match backing s pa with
    | .dram d _ => s.dramUp d
    | .buffer t _ => (s.tile t).fill.isNone && !s.stopped t
    | .unbacked => true

/-- A byte as its home answers it; that of an accelerator's memory is free (log 10). -/
def State.homeByte (s : State) (die key : Nat) : Byte := if s.isPeer die key then Config.peerByte s.tick key else s.plainByte key

/-- Eight bytes as their home region gives them. -/
def State.homeWord (s : State) (die pa : Nat) : Word :=
  BitVec.ofNat 64 (bytesToNat ((List.range 8).map fun i => s.homeByte die (pa + i)))

/-- What the walker reads at a table's byte. -/
inductive TableRead where
  | entry (e : Word)
  | fault
  | wait
  deriving DecidableEq, Repr, Inhabited

/-- The walker reads an entry (R242): a table lies in backed memory (R24, R236), and its region answers. -/
def tableEntry (s : State) (die pa : Nat) : TableRead :=
  if !s.isPeer die pa && backing s pa = .unbacked then .fault
  else if s.homeUp die pa then .entry (s.homeWord die pa)
  else .wait

/-- The page of the level-0 entry read. A 64 KiB page may translate through any of its sixteen entries (R243): `alt` names the
one tried beside the VA's own. -/
def walkLeaf (s : State) (die asid va alt table : Nat) (e : Word) : WalkEnd :=
  if !pteC16 e then .page (leafPage asid 0 va e)
  else
    match tableEntry s die (table + 8 * (levelIndex 0 va / 16 * 16 + alt % 16)) with
    | .entry e2 => .page (leafPage asid 0 va (if (pteFault 0 e2).isNone && pteC16 e2 then e2 else e))
    | _ => .page (leafPage asid 0 va e)

/-- The walk from a table down (R244). -/
def walkGo (s : State) (die asid va alt level table : Nat) : WalkEnd :=
  match tableEntry s die (table + 8 * levelIndex level va) with
  | .fault => .fault cAccessFault
  | .wait => .wait
  | .entry e =>
      match pteFault level e with
      | some c => .fault c
      | none =>
          match level with
          | 0 => walkLeaf s die asid va alt table e
          | l + 1 => if pteLeaf e then .page (leafPage asid (l + 1) va e) else walkGo s die asid va alt l (ptePa e)

/-- A walk on a die from the root of an ASID (R242, R245). -/
def walk (s : State) (die asid : Nat) (va : Word) (alt : Nat) : WalkEnd :=
  if va.extractLsb' 56 8 ≠ 0 then .fault cAccessFault
  else
    match mapFind? (s.die die).roots asid with
    | none => .fault cAccessFault
    | some root => walkGo s die asid va.toNat alt 4 root.1

/-- A held translation covers the VA. -/
def TlbEntry.covers (e : TlbEntry) (asid va : Nat) : Bool :=
  e.asid == asid && decide (e.va ≤ va) && decide (va < e.va + e.size)

/-- The translation used out of those held: a fresh walk, or one of them while TLBINV has not removed it (R245); `pick`
chooses. -/
def lookupHeld (s : State) (held : List TlbEntry) (die asid : Nat) (va : Word) (pick alt : Nat) : WalkEnd :=
  match held.filter (·.covers asid va.toNat) with
  | [] => walk s die asid va alt
  | h :: hs =>
      match (h :: hs)[pick % (hs.length + 2)]? with
      | some e => if va.extractLsb' 56 8 ≠ 0 then .fault cAccessFault else .page e
      | none => walk s die asid va alt

/-- A unit of the die translates through the die's TLB (R245). -/
def lookupPage (s : State) (die asid : Nat) (va : Word) (pick alt : Nat) : WalkEnd :=
  lookupHeld s (s.die die).tlb die asid va pick alt

/-- A tile translates through its micro-TLB and the die's TLB (R245). -/
def lookupTile (s : State) (t asid : Nat) (va : Word) (pick alt : Nat) : WalkEnd :=
  lookupHeld s ((s.tile t).tlb ++ (s.die (dieOfTile t)).tlb) (dieOfTile t) asid va pick alt

/-- A held translation becomes the last used of a TLB of n entries; the one used longest ago leaves (log 37). -/
def tlbPut (n : Nat) (e : TlbEntry) (l : List TlbEntry) : List TlbEntry :=
  let l := l.filter fun x => x != e
  (l ++ [e]).drop (l.length + 1 - n)

/-- Keep a translation in the die's TLB (R245). -/
def State.holdPage (s : State) (die : Nat) (e : TlbEntry) : State := s.modDie die fun d => { d with tlb := tlbPut 16384 e d.tlb }

/-- Keep a translation in a tile's micro-TLB and in the die's TLB (R245). -/
def State.holdTile (s : State) (t : Nat) (e : TlbEntry) : State :=
  (s.modTile t fun x => { x with tlb := tlbPut 64 e x.tlb }).holdPage (dieOfTile t) e

/-- An offset lies in an area. -/
def Area.holds (x : Area) (off : Nat) : Bool := decide (x.base ≤ off ∧ off < x.base + x.len)

/-- The protected areas of a die (R453, R454): the journal's, and those that AREA has set. -/
def State.areas (s : State) (die : Nat) : List Area :=
  let d := s.die die
  (if die % 8 = 0 then [{ base := 0xFFF000000, len := 0x1000000 }] else []) ++
    d.log.toList ++ d.overflow.toList ++ d.arena.toList ++ d.doorbell.toList

/-- A byte lies in a protected area. -/
def State.guarded (s : State) (pa : Nat) : Bool := (s.areas (pa / 2 ^ 40)).any (·.holds (pa % 2 ^ 40))

/-- The first of n bytes that lies in a protected area (R453). -/
def State.guardHit (s : State) (pa n : Nat) : Option Nat :=
  let off := pa % 2 ^ 40
  (((s.areas (pa / 2 ^ 40)).filter fun x => decide (x.base < off + n ∧ off < x.base + x.len)).map fun x => x.base - off).min?

/-- What a tile of another cluster sends to a frozen cluster is held on the links (R461). -/
def State.heldInbound (s : State) (src t : Nat) : Bool :=
  s.stopped t && !(dieOfTile src == dieOfTile t && clusterOf src == clusterOf t)

/-- A region takes an access that comes from a tile: a buffer tile that no fill and no freeze keeps (R240, R461), a DRAM that
answers (R14, R459). -/
def State.regionOpen (s : State) (src : Nat) : Nat × Nat → Bool
  | (0, t) => (s.tile t).fill.isNone && !s.heldInbound src t
  | (_, b) => s.dramUp (b / 256)

/-- A translated access of an agent of a die: the page's rights, then the backing (R244, R296, R453). -/
def checkPage (s : State) (die : Nat) (e : TlbEntry) (va : Nat) (write : Bool) : Except Nat Nat :=
  if write && !e.wr then .error cAccessFault
  else if !write && !e.rd then .error cAccessFault
  else
    let pa := e.pa + (va - e.va)
    if s.isPeer die pa then .ok pa
    else if s.guarded pa then .error cAccessFault
    else
      match backing s pa with
      | .unbacked => .error cAccessFault
      | _ => .ok pa

/-- Translate for a unit of a die at once; the held translation is a free choice of the step. -/
def translate (s : State) (die asid : Nat) (va : Word) (write : Bool) : Except Nat Nat :=
  match lookupPage s die asid va (Config.freeNat s.tick 1) (Config.freeNat s.tick 2) with
  | .wait => .error cReqTimeout
  | .fault c => .error c
  | .page e => checkPage s die e va.toNat write

/-- Translate for a unit of a tile at once: a bundle's fetch, an engine (log 8). -/
def translateAt (s : State) (t asid : Nat) (va : Word) (write : Bool) : Except Nat Nat :=
  match lookupTile s t asid va (Config.freeNat s.tick 1) (Config.freeNat s.tick 2) with
  | .wait => .error cReqTimeout
  | .fault c => .error c
  | .page e => checkPage s (dieOfTile t) e va.toNat write

/-- The region of an access (R249): a pool or a buffer tile by its tile, a DRAM bank group by die and group. -/
def regionOf (pool : Bool) (tile pa : Nat) : Nat × Nat :=
  if pool then (0, tile)
  else if pa % 2 ^ 40 < 0x1000000000 then (1, pa / 2 ^ 40 * 256 + pa / 2 ^ 7 % 256)
  else (0, pa / 2 ^ 40 * 256 + (pa % 2 ^ 40 - 0xF000000000) / 0x400000)

/-- The DRAM bank of a request: die and offset bits [16:7] (R247). -/
def bankOf (pa : Nat) : Nat := pa / 2 ^ 40 * 1024 + pa / 2 ^ 7 % 1024

/-- The cache-bank tiles of a compute tile's neighbourhood, ascending (R18, R241). -/
def cacheTiles (s : State) (t : Nat) : List Nat :=
  ((List.range 256).map fun i => dieOfTile t * 256 + i).filter fun u =>
    (adjacent t).contains u && isMemTile u && (s.tile u).mrole == 2

/-- The ASID of a task (R245, R368). -/
def State.taskAsid (s : State) (k : Nat) : Nat :=
  match s.run? k with
  | some r => r.asid
  | none => 0

/-- A thread is privileged when its task's ASID has PRIV (R432). -/
def State.privileged (s : State) (th : Nat) : Bool :=
  match (s.thread th).task with
  | none => false
  | some k =>
      match mapFind? (s.die (dieOfTile (tileOfThread th))).roots (s.taskAsid k) with
      | some r => r.2
      | none => false

end Sys2Proof.Machine
end

