-- ==== Sys2Proof/Machine/Requests.lean ====
section
/-! DEFINITION. Memory requests: slots, bank quotas, translation, arrival at a region, faults and parking, replies
(09_local_memory_class.md R241, R246-R251, R258, R259; 05_scalar_class.md R121, R132). -/

namespace Sys2Proof.Machine

/-! ## The list of requests -/

def State.req? (s : State) (id : Nat) : Option Req := s.reqs.find? fun r => r.id == id

def State.modReq (s : State) (id : Nat) (f : Req → Req) : State :=
  { s with reqs := s.reqs.map fun r => if r.id = id then f r else r }

def State.dropReq (s : State) (id : Nat) : State := { s with reqs := s.reqs.filter fun r => r.id != id }

/-- A request to a unit of the die, not to memory (R121, R399). -/
def ReqOp.ofUnit : ReqOp → Bool
  | .unit | .inval _ _ | .draw _ _ | .sxprop _ _ _ | .sxwords _ _ => true
  | _ => false

/-- The request's memory is still untouched: it has not been performed; a queued reader counts as performed (R250). -/
def Req.unperformed (r : Req) : Bool :=
  !r.op.ofUnit && match r.stage with
  | .reply _ _ | .lost => false
  | .queued => r.op != .isread
  | _ => true

/-- The thread that issued it. -/
def Req.thread? (r : Req) : Option Nat :=
  match r.who with
  | .thread th _ _ | .threadPair th _ _ => some th
  | _ => none

/-- It reads memory alone (R243). -/
def ReqOp.reads : ReqOp → Bool
  | .load _ _ | .isread | .pref | .histrd _ | .eread _ _ _ => true
  | _ => false

/-- Its slot is free once its region has accepted it (R246, R352). -/
def ReqOp.posts : ReqOp → Bool
  | .store _ _ | .iswrite _ | .isclr _ _ | .ewrite _ _ => true
  | .atomic x => !x.ret
  | _ => false

/-- It may change memory (R324). -/
def ReqOp.changes (x : ReqOp) : Bool :=
  !x.reads && match x with
    | .barwait _ => false
    | _ => true

/-- It names a scope and is checked against it (R314). -/
def ReqOp.scoped : ReqOp → Bool
  | .atomic _ | .bar _ _ | .barwait _ => true
  | _ => false

/-- A structure operation (R256). -/
def ReqOp.structural : ReqOp → Bool
  | .isread | .iswrite _ | .isclr _ _ => true
  | _ => false

/-- The issuer stream whose accesses a region applies in order (R250, R344): a sequencer thread's, the operations of one wave on
one tile (R252), or the writes of one engine command (R299, R300). -/
def Req.stream (r : Req) : Option (Nat × Nat) :=
  match r.who, r.op with
  | .thread th _ _, .load _ _ | .thread th _ _, .store _ _ | .thread th _ _, .isread | .thread th _ _, .iswrite _
  | .thread th _ _, .isclr _ _ | .thread th _ _, .atomic _ | .thread th _ _, .bar _ _ | .thread th _ _, .barwait _ =>
      some (0, th)
  | .node f true, _ => some (1 + tileOfPe f.pe, f.task * 2 ^ 64 + f.tag.toNat)
  | .engine t id, .ewrite _ _ => some (1 + t, 2 ^ 128 + id)
  | _, _ => none

/-! ## Slots and quotas (R246, R247) -/

/-- Slots of a tile that its requests hold. -/
def State.reqSlots (s : State) (t : Nat) : Nat := (s.reqs.filter fun r => r.tile == t && r.slot).length

/-- Slots for requests: all 192 on a memory tile, which has no PE to keep one reserved (R26, R246). -/
def slotCap (t : Nat) : Nat := if isMemTile t then 192 else 176

/-- Operations of waves that are not admitted (R254). -/
def State.waveHeld (s : State) (t : Nat) : Nat := (((s.tile t).waves.filter fun w => !w.admitted).map fun w => w.waiting.length).sum

/-- Those of them that wait in a slot: 16 stay free for the admitted waves (R254); the others wait in the admission queue. -/
def State.waveSlots (s : State) (t : Nat) : Nat := min (s.waveHeld t) (slotCap t - 16 - s.reqSlots t)

/-- Slots of a tile in use. -/
def State.slotsUsed (s : State) (t : Nat) : Nat := s.reqSlots t + s.waveSlots t

/-- The operation of a node (R247). -/
def Req.ofNode (r : Req) : Bool :=
  match r.who with
  | .node _ _ => true
  | _ => false

/-- Node operations in a tile's admission queue (R247); the carries and clears of profile words that wait for a slot are not in
it. -/
def State.queueLen (s : State) (t : Nat) : Nat :=
  (s.reqs.filter fun r => r.tile == t && r.stage == .held && r.ofNode).length + (s.waveHeld t - s.waveSlots t)

/-- The admission queue of 64 holds what it holds in the state (R247). -/
def State.queueFits (s : State) (t : Nat) : Bool := decide (s.queueLen t ≤ 64)

/-! ## The places an engine command names (R195, R299, R300) -/

/-- A bit of F of format AR. -/
def bitOf (o : AR) (i : Nat) : Bool := o.f.getLsbD i

/-- The tiles of an MCAST rectangle. -/
def mcastTiles (t : Nat) (d : Word) : List Nat :=
  let x0 := (d.extractLsb' 24 4).toNat
  let y0 := (d.extractLsb' 28 4).toNat
  let x1 := (d.extractLsb' 32 4).toNat
  let y1 := (d.extractLsb' 36 4).toNat
  (List.range (y1 + 1 - y0)).flatMap fun y => (List.range (x1 + 1 - x0)).map fun x => dieOfTile t * 256 + (y0 + y) * 16 + x0 + x

/-- A VA offset by a signed number of bytes. -/
def vaAdd (a : Nat) (z : Int) : Nat := wrapInt 64 (a + z)

/-- A range cut at multiples of 4,096. -/
def pagePieces (a n : Nat) : List (Nat × Nat) :=
  (List.range ((a + n - 1) / 4096 - a / 4096 + 1)).map fun i =>
    let lo := max a ((a / 4096 + i) * 4096)
    (lo, min (a + n) ((a / 4096 + i + 1) * 4096) - lo)

/-- The tiles MFETCH's mask names: compute tiles of the cluster in ascending index. -/
def mfetchTiles (t mask : Nat) : List Nat :=
  let cs := (clusterTiles t).filter fun u => !isMemTile u
  ((cs.zip (List.range cs.length)).filter fun x => mask.testBit x.2).map (·.1)

/-! ## Where requests go -/

/-- The physical address a fresh walk gives. -/
def State.peekPa (s : State) (die asid : Nat) (va : Word) (write : Bool) : Option Nat :=
  match walk s die asid va 0 with
  | .page e =>
      match checkPage s die e va.toNat write with
      | .ok pa => some pa
      | .error _ => none
  | _ => none

/-- Where a request goes as far as it is known; a pool access has no physical address. -/
def State.reqPa (s : State) (r : Req) : Option Nat :=
  if r.pool then none
  else
    match r.stage with
    | .held | .walk | .parked => s.peekPa (dieOfTile r.tile) r.asid r.va (!r.op.reads)
    | _ => some r.pa

/-- The address is DRAM. -/
def isDram (pa : Nat) : Bool := decide (pa % 2 ^ 40 < 0x1000000000)

/-- Slots of a tile held on a DRAM bank. -/
def State.bankUsed (s : State) (t bank : Nat) : Nat :=
  (s.reqs.filter fun r => r.tile == t && r.slot && match s.reqPa r with
    | some pa => isDram pa && !r.pool && bankOf pa == bank
    | none => false).length

def State.slotFree (s : State) (t : Nat) : Bool := decide (s.slotsUsed t < slotCap t)

/-- A slot of a tile that no request holds (R246): which one is free (log 5). -/
def State.freeSlot (s : State) (t : Nat) : Nat :=
  let used := (s.reqs.filter fun r => r.tile == t && r.slot).map (·.slotNo)
  let free := (List.range 192).filter fun k => !used.contains k
  free.getD (Config.freeNat s.tick (100 + s.reqs.length) % free.length) 0

/-- The bank of an access is below its quota on the tile. -/
def State.bankFree (s : State) (t : Nat) (pa : Option Nat) : Bool :=
  match pa with
  | some pa => !isDram pa || decide (s.bankUsed t (bankOf pa) < 48)
  | none => true

/-- A BANK_PARK trace record (R247, R467). -/
def State.bankPark (s : State) (t : Nat) (tag : Word) (node unit flags : Nat) (pa : Option Nat) : State :=
  match pa with
  | some pa => s.traceRec t kBankPark tag node unit flags (pa / 2 ^ 7 % 1024 + pa / 2 ^ 40 % 16 * 1024)
  | none => s

/-! ## Issue -/

/-- A request of the issuing thread. -/
def State.threadReq (s : State) (op : ReqOp) (va : Word) (dest : PReg) (counts : Bool) : Req :=
  { id := s.nextId, who := .thread s.cur.th dest counts, tile := s.myTile, task := s.myTask.getD 0,
    asid := s.taskAsid (s.myTask.getD 0), op := op, va := va, pool := false, pa := 0, bank := none, stage := .walk,
    slot := true, slotNo := s.freeSlot s.myTile, snap := default, after := [], order := 0, cycle := s.cycleOf s.myTile, seq := s.me.order, qpos := 0, recNo := 0, pc := s.cur.pc,
    since := 0, again := false }

/-- Put a request in and go on: its destination is pending, a load counts (R121). -/
def State.sendReq (s : State) (r : Req) (dest : PReg) (counts : Bool) : State :=
  let s := { s with reqs := s.reqs ++ [r], nextId := s.nextId + 1 }
  s.modMe fun t =>
    { (if counts then t.setPending dest true else t) with
      ldout := if counts then t.ldout + 1 else t.ldout, order := t.order + 1, bankPark := false, pc := s.nextPc }

/-- The bundle is parked by a quota: traced once (R247). -/
def State.parkBundle (s : State) (pa : Option Nat) : State :=
  let s := if s.me.bankPark then s
    else (s.bankPark s.myTile 0 (s.cur.pc.extractLsb' 0 16).toNat 0xFF (numOfThread s.cur.th) pa).modMe fun t =>
      { t with bankPark := true }
  s.hold

/-- A global access of the issuing thread with its checks passed: held by the four-load limit, the slots or the
quota, else issued (R121, R246, R247). -/
def State.issueReq (s : State) (r : Req) (dest : PReg) (counts : Bool) : State :=
  let pa := s.peekPa s.myDie r.asid r.va (!r.op.reads)
  if counts && decide (4 ≤ s.me.ldout) then s.hold
  else if !s.slotFree s.myTile then s.hold
  else if !s.bankFree s.myTile pa then s.parkBundle pa
  else s.sendReq r dest counts

/-- A request of a node's scalar firing: to its walk with a slot, or into the admission queue; one that a bank's quota holds is
traced (R246, R247). -/
def State.nodeReq (s : State) (f : Firing) (wave : Bool) (op : ReqOp) (va : Word) (pool : Bool) (order : Nat) (snap : ScopeSnap) (after : List Nat) : State :=
  let t := tileOfPe f.pe
  let asid := s.taskAsid f.task
  let pa := if pool then none else s.peekPa (dieOfTile t) asid va (!op.reads)
  let go := s.slotFree t && s.bankFree t pa
  let r : Req :=
    { id := s.nextId, who := .node f wave, tile := t, task := f.task, asid := asid, op := op, va := va, pool := pool,
      pa := 0, bank := none, stage := if go then (if pool then .region else .walk) else .held, slot := go,
      slotNo := s.freeSlot t, snap := snap,
      after := after, order := order, cycle := s.cycleOf t, seq := s.nextId, qpos := 0, recNo := 0, pc := s.cur.pc,
      since := 0, again := false }
  let s2 := { s with reqs := s.reqs ++ [r], nextId := s.nextId + 1 }
  if s.bankFree t pa then s2 else s2.bankPark t f.tag (s.nodeAddr f.task f.slot) (f.pe % 16) 0 pa

/-- A posted request of the tile itself, for a profile word: it takes a slot and its bank's share as every other, and waits while
there is none (R25, R246, R470, R476). -/
def State.tileReq (s : State) (r : Req) : State :=
  let go := s.slotFree r.tile && s.bankFree r.tile (s.peekPa (dieOfTile r.tile) r.asid r.va true)
  { s with reqs := s.reqs ++ [{ r with stage := if go then .walk else .held, slot := go, slotNo := s.freeSlot r.tile }],
           nextId := s.nextId + 1 }

/-- REQUEST_ADMIT (R247): the first request of the admission queue that finds a slot and its bank free is admitted. -/
def execRequestAdmit (r : Nat) (s : State) : Out :=
  match s.req? r with
  | none => ok s
  | some q =>
      let first := s.reqs.find? fun x => x.tile == q.tile && x.stage == .held && s.bankFree x.tile (s.reqPa x)
      if q.stage == .held && s.slotFree q.tile && (first.map (·.id)) == some r && !s.stopped q.tile then
        ok (s.modReq r fun x =>
          { x with stage := if x.pool then .region else .walk, slot := true, slotNo := s.freeSlot q.tile, cycle := s.cycleOf q.tile })
      else ok s

/-! ## Results of a node's request (R259, R267) -/

/-- P of a firing's operands, port by port, on its first word. -/
def Firing.anyP (f : Firing) : Bool := (f.l ++ f.r ++ f.c).any (·.p)

/-- P of the ordering operands alone: R of a load, C of a store (R267, R341). -/
def ordP (f : Firing) (op : ReqOp) : Bool :=
  if op.reads then f.r.any (·.p) else f.c.any (·.p)

/-- The result of a node's request as its token. -/
def State.nodeResult (s : State) (f : Firing) (v : Word) (p wide : Bool) : State :=
  if f.node.r.dsta = destNone then s
  else s.emit f f.tag [{ w := if wide then v else v &&& 0xFFFFFFFF, p := p, n := false, wide := wide }]

/-! ## Waves: what is done (R253) -/

/-- The wave of a firing on its tile. -/
def State.wave? (s : State) (f : Firing) : Option Wave :=
  (s.tile (tileOfPe f.pe)).waves.find? fun w => w.tag == f.tag && w.task == f.task

def State.modWave (s : State) (f : Firing) (g : Wave → Wave) : State :=
  s.modTile (tileOfPe f.pe) fun t => { t with waves := t.waves.map fun w => if w.tag = f.tag ∧ w.task = f.task then g w else w }

/-- An operation of a wave is done. -/
def State.waveDone (s : State) (f : Firing) (nul : Bool) : State :=
  s.modWave f fun w =>
    if w.done.any fun d => d.1 == f.node.r.litWown then w
    else { w with done := w.done ++ [(f.node.r.litWown, f.node.r.litWsucc, nul)] }

/-! ## Faults (R132, R258, R259) -/

def parkFlag : Nat := 2

/-- The record that names a request's issuer. -/
def State.issuerRecord (s : State) (r : Req) (code : Nat) (op0 op1 : Word) (flags : Nat) : FaultRec :=
  match r.who with
  | .node f _ =>
      { code := code, die := dieOfTile r.tile, io := false, tileByte := tileByte r.tile, unit := f.pe % 16, flags := flags,
        node := s.relNode f.task f.slot, tag := f.tag, task := s.instanceId r.task, cycle := s.cycleOf r.tile, op0 := op0,
        op1 := op1, addr := r.va }
  | _ =>
      { code := code, die := dieOfTile r.tile, io := false, tileByte := tileByte r.tile, unit := 0xFF,
        flags := flags + (match r.thread? with
          | some th => numOfThread th * 16
          | none => 0),
        node := 0, tag := 0, task := s.instanceId r.task, cycle := s.cycleOf r.tile, op0 := op0, op1 := op1, addr := r.va }

/-- A thread's request parks; its deferred trap waits for row 1 of R119 (R132). -/
def State.deferFault (s : State) (r : Req) (th code : Nat) (va : Word) : State :=
  (s.modReq r.id fun x => { x with stage := .parked, since := 0 }).modThread th fun t =>
    { t with deferred := t.deferred ++ [{ code := code, va := va, req := some r.id }] }

/-- A node's request parks with a record (R259); its wave number is not done (R253). -/
def State.parkNode (s : State) (r : Req) (f : Firing) (code : Nat) : State :=
  (s.modReq r.id fun x => { x with stage := .parked }).record (s.issuerRecord r code (firstWord f.l) (firstWord f.r) parkFlag)

/-- Its access goes to its region as a packet (R249, R288). -/
def Req.travels (r : Req) : Bool := !r.pool && r.bank.isNone && !r.op.ofUnit

/-- The place of a combining switch (R31). -/
def Bobbin.place (x : Bobbin) : Nat := if x.level = 0 then x.loc / 256 else x.loc

/-- Where a reply goes: to the requester's die, or to the switch that combined (R346). -/
def State.replyTo (s : State) (r : Req) : Nat :=
  match r.who with
  | .bobbin b => ((mapFind? s.bobbins b).map Bobbin.place).getD (dieOfTile r.tile)
  | _ => dieOfTile r.tile

/-- A reply packet of a class sets out (R289). -/
def State.sendBack (s : State) (cls src : Nat) (r : Req) (b : PBody) : State :=
  if r.travels then s.send cls src (s.replyTo r) b else s

/-- A reply of class FLT (R314, R348). -/
def State.fltFrom (s : State) (src : Nat) (r : Req) (st : Stage) : State :=
  (s.modReq r.id fun x => { x with stage := st }).sendBack clsFlt src r (.flt r.id)

/-- The packet of a request's reply is on its way. -/
def State.replyOut (s : State) (id : Nat) : Bool := s.net.any fun p => p.body == .rsp id || p.body == .flt id

/-- A request meets a fault after issue. -/
def State.requestFault (s : State) (r : Req) (code : Nat) : State :=
  match r.who with
  | .thread th _ _ | .threadPair th _ _ => if r.op == .pref then s.dropReq r.id else s.deferFault r th code r.va
  | .node f wave =>
      if code = cPageFault then s.parkNode r f code
      else
        let s := if wave then s.waveDone f false else s
        ((s.dropReq r.id).record (s.issuerRecord r code (firstWord f.l) (firstWord f.r) 0)).nodeResult f 0 true false
  | .none => (s.dropReq r.id).record (s.issuerRecord r code 0 0 0)
  | .bobbin _ => s.fltFrom (r.pa / 2 ^ 40) r (.flt code)
  | .engine _ _ => s.dropReq r.id

/-! ## Cache banks (R241) -/

/-- Sixteen ways of 2,048 sets of lines of 128 bytes. -/
def cacheSet (line : Nat) : Nat := line % 2048

def State.cacheLine? (s : State) (t line : Nat) : Option (List Byte) :=
  ((s.tile t).cache.find? fun x => x.1 == line).map (·.2)

/-- A line becomes the most recently used of its set; a seventeenth displaces the least recently used. -/
def State.cachePut (s : State) (t line : Nat) (bs : List Byte) : State :=
  s.modTile t fun x =>
    let rest := x.cache.filter fun y => y.1 != line
    let set := rest.filter fun y => cacheSet y.1 == cacheSet line
    let rest := match set with
      | v :: _ => if 16 ≤ set.length then rest.erase v else rest
      | [] => rest
    { x with cache := rest ++ [(line, bs)] }

/-- Remove a line from the cache banks of a tile's neighbourhood (R263). -/
def State.dropLine (s : State) (t line : Nat) : State :=
  (cacheTiles s t).foldl (fun s u => s.modTile u fun x => { x with cache := x.cache.filter fun y => y.1 != line }) s

/-- The cache-bank tile that serves a load of a compute tile (R241). -/
def State.cacheRoute (s : State) (t pa : Nat) : Option Nat :=
  let cs := cacheTiles s t
  if isMemTile t || cs.isEmpty then none else cs[pa / 128 % cs.length]?

/-! ## Translation (R244) -/

/-- A translated request sets out for its region; a load of an RC page goes to its cache bank. -/
def State.routeReq (s : State) (r : Req) (e : TlbEntry) (pa : Nat) : State :=
  let cached := match r.op with
    | .load _ _ | .pref => if e.rc then s.cacheRoute r.tile pa else none
    | _ => none
  match r.op, cached with
  | .pref, none => s.dropReq r.id
  | _, some u => s.modReq r.id fun x => { x with pa := pa, bank := some u, stage := .region }
  | .isclr n _, none =>
      let page := (e.va + e.size - r.va.toNat) / 8
      let window := (0x400000 - pa % 0x400000) / 8
      (s.modReq r.id fun x => { x with pa := pa, op := .isclr n (min n (min page window)), stage := .transit }).send clsReq
        (dieOfTile r.tile) (pa / 2 ^ 40) (.req r.id)
  | _, none =>
      (s.modReq r.id fun x => { x with pa := pa, stage := .transit }).send clsReq (dieOfTile r.tile) (pa / 2 ^ 40) (.req r.id)

/-! ## Order at a region (R248, R250) -/

def Req.region (r : Req) (pa : Nat) : Nat × Nat := regionOf r.pool r.tile pa

/-- A parked access keeps its place before those issued until its deferred trap is taken; what the handler and the program
after it issue stands before its resubmission (R132, R133, R250; log 110). -/
def Req.parkedFor (q r : Req) : Bool := q.stage == .parked && q.since != 0 && decide (q.since ≤ r.seq)

/-- An earlier access of the same issuer stream to the same region, or to one that its translation has still to show, is still
to be performed. -/
def State.behind (s : State) (r : Req) : Bool :=
  match r.stream with
  | none => false
  | some x =>
      s.reqs.any fun q =>
        q.stream == some x && decide (q.seq < r.seq) && q.unperformed && !q.parkedFor r && q.stage != .queued && q.bank.isNone &&
          match s.reqPa q with
          | some pa => q.region pa == r.region r.pa
          | none => if q.pool then r.pool && q.tile == r.tile else !r.pool

/-! ## Replies -/

/-- The answer sets out from a place; a posted access is over, and its acknowledgement sets out (R246, R289). -/
def State.answerFrom (s : State) (src : Nat) (r : Req) (v : Word) (p : Bool) : State :=
  let silent := (s.dropReq r.id).sendBack clsRsp src r (.ack r.tile r.pa r.slotNo)
  let reply := (s.modReq r.id fun x => { x with stage := .reply v p, slot := x.slot && !x.op.posts }).sendBack clsRsp src r (.rsp r.id)
  match r.who with
  | .thread _ _ false | .none => silent
  | .engine _ _ => if r.op.posts then silent else reply
  | _ => reply

/-- The answer sets out from the request's region. -/
def State.answer (s : State) (r : Req) (v : Word) (p : Bool) : State := s.answerFrom (r.pa / 2 ^ 40) r v p

/-- A unit answers a request that waits for it; one whose watchdog has expired keeps the answer for its resubmission (R290, log 77). -/
def State.answerUnit (s : State) (r : Req) (v : Word) : State :=
  if r.stage = .parked then s.modReq r.id fun x => { x with kept := some v } else s.answer r v false

/-- A request that a CFLUSH of a line waits for: unperformed, and not known to go to another region (R263). -/
def State.flushWaits (s : State) (th line id : Nat) : Bool :=
  match s.req? id with
  | some r =>
      r.unperformed && match s.reqPa r with
        | some pa => r.region pa == regionOf false (tileOfThread th) (line * 128)
        | none => true
  | none => false

/-- CFLUSHes of a thread whose stores are performed remove their lines (R263). -/
def State.settleFlush (s : State) (th : Nat) : State :=
  let done (e : Nat × List Nat) : Bool := !e.2.any (s.flushWaits th e.1)
  let t := s.thread th
  let s := (t.flush.filter done).foldl (fun s e => s.dropLine (tileOfThread th) e.1) s
  if t.flush.any done then s.modThread th fun t => { t with flush := t.flush.filter fun e => !done e } else s

/-- A fence of the thread still waits (R328). -/
def State.fenceHolds (s : State) (th : Nat) : Bool :=
  (s.thread th).fence.any fun x => match s.req? x.1 with
    | some r => x.2 || r.unperformed
    | none => false

/-- The result word's width: 64 bits for an 8-byte access (R267). -/
def ReqOp.wide : ReqOp → Bool
  | .load n _ => n == 8
  | .isread => true
  | .atomic x => x.wide && x.ret
  | _ => false

/-- A request's answer reaches a thread: the register is written and free (R121). -/
def Thread.takeReply (t : Thread) (d : PReg) (counts : Bool) (v : Word) : Thread :=
  let t := (t.setPReg d v).setPending d false
  { t with ldout := if counts then t.ldout - 1 else t.ldout }

/-! ## Barrier words (R321, R322) -/

/-- The store of held requests of an address: a buffer tile, or a DRAM channel. -/
def heldStore (pa : Nat) : Nat × Nat :=
  if isDram pa then (1, pa / 2 ^ 40 * 64 + pa / 2 ^ 7 % 64) else regionOf false 0 pa

/-- It is a barrier request. -/
def ReqOp.barrier : ReqOp → Bool
  | .bar _ _ | .barwait _ => true
  | _ => false

/-- A request is held at its region, or refused for 256 cycles where 256 are (R321). -/
def State.holdBar (s : State) (r : Req) (op : ReqOp) : State :=
  let n := (s.reqs.filter fun q => q.id != r.id && q.stage == .queued && q.op.barrier && heldStore q.pa == heldStore r.pa).length
  s.modReq r.id fun x =>
    { x with op := op, stage := if 256 ≤ n then .refused (s.cycleOf r.tile + 256) else .queued }

/-- COUNT and PHASE of a barrier word. -/
def State.barCount (s : State) (pa : Nat) : Nat := s.readNat pa 4
def State.barPhase (s : State) (pa : Nat) : Nat := s.readNat (pa + 4) 4

/-- An arrival (R321): the word after it, and whether it completed the phase. -/
def State.arrive (s : State) (pa n : Nat) : Bool × State :=
  if n ≤ s.barCount pa + 1 then (true, s.writeNat pa 8 ((s.barPhase pa + 1) % 2 ^ 32 * 2 ^ 32))
  else (false, s.writeNat pa 4 (s.barCount pa + 1))

/-- A barrier request meets its word (R321, R322). -/
def State.applyBar (s : State) (r : Req) : State :=
  let p := s.barPhase r.pa
  match r.op with
  | .bar n none => (s.arrive r.pa n).2.answer r (BitVec.ofNat 64 p) false
  | .bar n (some (want, w)) =>
      if p % 2 ^ w ≠ want then s.holdBar r r.op
      else
        match s.arrive r.pa n with
        | (true, s) => s.answer r (BitVec.ofNat 64 (s.barPhase r.pa)) false
        | (false, s) => s.holdBar r (.barwait (BitVec.ofNat 64 p))
  | .barwait q => if p ≠ q.toNat then s.answer r (BitVec.ofNat 64 p) false else s.holdBar r r.op
  | _ => s

/-- A held request whose condition has come true. -/
def State.barDue (s : State) : Option Req :=
  s.reqs.find? fun q =>
    q.stage == .queued && match q.op with
      | .bar _ (some (want, w)) => s.barPhase q.pa % 2 ^ w == want
      | .barwait p => s.barPhase q.pa != p.toNat
      | _ => false

/-- BARRIER_WAIT_RELEASE: held requests go on as the phases of their words move (R321, R322). -/
def State.barRelease : Nat → State → State
  | 0, s => s
  | n + 1, s =>
      match s.barDue with
      | none => s
      | some q => State.barRelease n (s.applyBar q)

/-- Memory has changed: each held request is released whose phase has moved, whatever wrote the word (R321, R322). -/
def State.settleBars (s : State) : State := State.barRelease (2 * s.reqs.length + 2) s

end Sys2Proof.Machine
end

