-- ==== Sys2Proof/Machine/Firing.lean ====
section
/-! DEFINITION. What every node firing does: its wait sample and trace record, E and null tokens, the judgement of
result words, a node trap (08_token_class.md R211-R215; 04_numbers.md R111-R113; 15_system_class.md R436, R437;
16_debug_class.md R467, R470). -/

namespace Sys2Proof.Machine

/-! ## Wait-time histograms (R470) -/

/-- Histogram reads and clears of a profile word that are still to be performed: a later carry, and a later clear of the word,
waits for them (R476). -/
def State.histBefore (s : State) (t : Nat) (va : Word) : List Nat :=
  (s.reqs.filter fun r => r.tile == t && r.va == va && r.unperformed && match r.op with
    | .histrd _ | .store _ _ => true
    | _ => false).map (·.id)

/-- The carry of a wrapped counter: 65,536 added to the profile word, as a posted request of nobody. -/
def State.histCarry (s : State) (f : Firing) (va : Word) : State :=
  let t := tileOfPe f.pe
  let x : AtomArgs := { op := .add, sg := false, wide := true, v := 65536, e := 0, ret := false, repro := false,
                        nocomb := true, count := 0, key := [] }
  let r : Req :=
    { id := s.nextId, who := .none, tile := t, task := f.task, asid := s.taskAsid f.task, op := .atomic x, va := va,
      pool := false, pa := 0, bank := none, stage := .walk, slot := true, slotNo := 0, snap := default, after := s.histBefore t va, order := 0,
      cycle := s.cycleOf t, seq := s.nextId, qpos := 0, recNo := 0, pc := 0, since := 0, again := false }
  s.tileReq r

/-- A counter lies in the pool; beyond it there is none. -/
def inPool (a : Nat) : Bool := decide (a < 0x200000)

/-- One sample of a matching firing. -/
def State.sample (s : State) (f : Firing) : State :=
  match f.wait with
  | none => s
  | some w =>
      let t := tileOfPe f.pe
      let tab := (s.taskTile f.task t).table
      let cfg := s.dbg t (0x200 + 16 * tab)
      let prof := s.dbg t (0x208 + 16 * tab)
      let at_ := 16 * s.relNode f.task f.slot + f.pe % 16
      let a := (cfg.extractLsb' 0 24).toNat + 16 * at_ + 2 * histBucket w
      if !cfg.getLsbD 24 || !inPool a then s
      else
        let n := s.poolLoad t a 2
        let s := s.poolWriteNat t a 2 ((n + 1) % 65536)
        if n = 65535 then s.histCarry f (prof + BitVec.ofNat 64 (64 * at_ + 8 * histBucket w)) else s

/-! ## Words of results -/

def narrow (w : Nat) (p : Bool) : TWord := { w := BitVec.ofNat 64 (w % 2 ^ 32), p := p, n := false, wide := false }

def nullWord (p : Bool) : TWord := { w := 0, p := p, n := true, wide := false }

/-- The operand words of lane i, port by port. -/
def Firing.lane (f : Firing) (i : Nat) : List TWord :=
  (f.l[i]?).toList ++ (f.r[i]?).toList ++ (f.c[i]?).toList

/-- P of a lane's operands (R113). -/
def Firing.laneP (f : Firing) (i : Nat) : Bool := (f.lane i).any (·.p)

/-- The nulls a firing on a null operand emits: the same run, P where an operand carries it (R113, R214). -/
def Firing.nulls (f : Firing) : List TWord := (List.range f.len).map fun i => nullWord (f.laneP i)

/-- A scalar firing for each word, in ascending F0. -/
def State.scalars (s : State) (f : Firing) : List Firing :=
  (List.range f.len).map fun i =>
    { f with tag := s.withF0 f.task f.tag (s.f0 f.task f.tag + i), l := (f.l[i]?).toList, r := (f.r[i]?).toList,
             c := (f.c[i]?).toList }

/-- The count and P of an E firing (R215). -/
def Firing.eCount (f : Firing) : Nat := (firstWord (f.l ++ f.r ++ f.c)).toNat % 2 ^ 32

/-- An E firing passes E with its count on; it computes nothing (R215). -/
def State.passE (s : State) (f : Firing) : State := s.emitE f f.tag f.eCount f.anyP

/-- The start of every firing: its sample. -/
def State.beginFire (s : State) : State := s.sample s.cur.fir

/-! ## Node-source queues of the engines (R179, R269) -/

def State.places (s : State) (t e : Nat) : Places := mapGet Places.reset (s.tile t).places e

def State.setPlaces (s : State) (t e : Nat) (p : Places) : State := s.modTile t fun x => { x with places := mapPut e p x.places }

/-- The firings that keep a place before a queue. -/
def State.placed (s : State) (t e : Nat) : List (Firing × Bool) :=
  (s.places t e).held.filter fun x => (s.pe x.1.pe).ready.contains x.1

/-- Scalars enter a queue of two while it has room; those left over. -/
def enterQueue (len : State → Nat) (each : State → Firing → State) : List Firing → State → State × List Firing
  | [], s => (s, [])
  | f :: fs, s => if 2 ≤ len s then (s, f :: fs) else enterQueue len each fs (each s f)

/-- What is left of a firing once its first scalars have entered. -/
def Firing.left (f : Firing) (fs : List Firing) : Firing :=
  { f with tag := ((fs.head?).map (·.tag)).getD f.tag, l := fs.flatMap (·.l), r := fs.flatMap (·.r), c := fs.flatMap (·.c),
           wait := none }

/-- The firing's turn at a queue whose length is `len`: it enters scalar by scalar in ascending F0; what finds the queue full
keeps its place and waits. The firing's record is written at the first; each scalar reads the shape entry when it enters (R183:
DESIGN CHOICE, log 44, the firing cycle of a scalar that waited for room is the one in which it enters). -/
def State.enterFiring (s : State) (f : Firing) (e : Nat) (len : State → Nat) (each : State → Firing → State)
    (begun : Bool) (others : List (Firing × Bool)) : State :=
  let t := tileOfPe f.pe
  let s := if begun then s else s.beginFire.traceFire f f.tag f.l
  let r := enterQueue len each (s.scalars f) s
  let now := r.1.cycleOf t
  match r.2 with
  | [] => r.1.setPlaces t e ⟨others, now, f.pe⟩
  | fs =>
      let g := f.left fs
      ((r.1.modPe f.pe fun p => { p with ready := p.ready.map fun x => if x = f then g else x }).setPlaces t e
        ⟨(g, true) :: others, now, f.pe⟩).hold

/-- A node fires into the node-source queue of an engine (R179, R269): in firing order, firings of one cycle in ascending PE. -/
def fireQueued (e : Nat) (len : State → Nat) (each : State → Firing → State) (s : State) : Out :=
  let f := s.cur.fir
  let t := tileOfPe f.pe
  let p := s.places t e
  let held := s.placed t e
  let others := held.filter fun x => x.1 != f
  if f.eos then ok ((s.beginFire.traceFire f f.tag f.l).passE f)
  else if p.cycle = s.cycleOf t ∧ f.pe < p.pe then ok s.hold
  else if ((held.head?).map fun x => x.1 == f).getD true && decide (len s < 2) then
    ok (s.enterFiring f e len each (held.any fun x => x.1 == f && x.2) others)
  else
    ok (s.setPlaces t e ⟨if held.any fun x => x.1 == f then held else held ++ [(f, false)], s.cycleOf t, f.pe⟩).hold

/-! ## Node traps (R112, R436, R437) -/

/-- Inbound ports that deliver to a task on a tile stop. -/
def State.stopPorts (s : State) (k t : Nat) : State :=
  s.modTile t fun x => { x with ports := x.ports.map fun (i, p) => (i, if p.task = k ∧ i < 16 then { p with stop := true } else p) }

/-- The record is published to the node-trap area while NTRAPCTL.EN is 1 (R437). -/
def State.publish (s : State) (k t : Nat) (r : FaultRec) : State :=
  let c := (s.taskTile k t).ntrapctl
  if !c.getLsbD 24 then s
  else
    let a := (c.extractLsb' 0 24).toNat
    let n := s.poolLoad t (a + 256) 4
    (s.poolWrite t (a + 64 * (n % 4)) (faultBytes r 0 false)).poolWriteNat t (a + 256) 4 ((n + 1) % 2 ^ 32)

/-- A firing whose class is in TRAP mode: a record, then the node blocks; its firings wait (R112, R436). -/
def State.nodeTrap (s : State) (f : Firing) (code : Nat) : State :=
  let t := tileOfPe f.pe
  let r : FaultRec :=
    { code := code, die := dieOfTile t, io := false, tileByte := tileByte t, unit := f.pe % 16, flags := 0,
      node := s.relNode f.task f.slot, tag := f.tag, task := s.instanceId f.task, cycle := s.cycleOf t,
      op0 := firstWord f.l, op1 := firstWord f.r, addr := 0 }
  let s := ((s.record r).publish f.task t r).stopPorts f.task t
  let mine := (s.pe f.pe).ready.filter fun g => g.slot == f.slot && g != f
  let s := s.modPe f.pe fun p => { p with ready := p.ready.filter fun g => !(g.slot == f.slot && g != f) }
  s.modElement f.slot fun x => { x with trapped := true, held := x.held ++ mine }

/-! ## Computing nodes -/

/-- Result words with the classes they raised: P where an operand carried it or the modes say so; the first
trapping code, if any (R111-R113). A word that would trap leaves with P. -/
def judgeWords (modes : Nat) : List (TWord × Raised) → List TWord × Option Nat
  | [] => ([], none)
  | (w, r) :: rest =>
      let x := judgeWords modes rest
      match judge modes r with
      | .clean => (w :: x.1, x.2)
      | .poison => ({ w with p := true } :: x.1, x.2)
      | .trap c => ({ w with p := true } :: x.1, some c)

/-- A computing node fires on its operands: E and nulls pass, else the result is judged and emitted (R112, R137,
R164, R214, R215). `compute` gives the results in emission order: tag, words with the classes they raised. -/
def fireCompute (compute : State → Firing → List (Word × List (TWord × Raised))) (s : State) : Out :=
  let f := s.cur.fir
  let s := s.beginFire
  if f.eos then ok ((s.traceFire f f.tag f.l).passE f)
  else if f.nul then ok ((s.traceFire f f.tag f.nulls).emit f f.tag f.nulls)
  else
    let rs := (compute s f).map fun r => (r.1, judgeWords (s.taskModes f.task) r.2)
    let s := s.traceFire f ((rs.head?.map (·.1)).getD f.tag) ((rs.head?.map (·.2.1)).getD [])
    let s := rs.foldl (fun s r => s.emit f r.1 r.2.1) s
    match rs.findSome? (fun r => r.2.2) with
    | some c => ok (s.nodeTrap f c)
    | none => ok s

end Sys2Proof.Machine
end

