-- ==== Sys2Proof/Machine/Arrival.lean ====
section
/-! DEFINITION. Tokens at a PE: arrival, division, lookup, the deep-lookup queue, refill of ways, firing weights, the
packer's timeout (08_token_class.md R198-R213, R217; 02_formats.md R75; 16_debug_class.md R465). -/

namespace Sys2Proof.Machine

/-! ## Division (R199) -/

/-- Words of a token cut wherever F0 passes a multiple of 32; each piece with its F0. -/
def pieceGo (w0 : Nat) : Nat → List TWord → List (Nat × List TWord)
  | _, [] => []
  | f, w :: ws =>
      match pieceGo w0 ((f + 1) % w0) ws with
      | (g, x) :: rest => if g % 32 ≠ 0 then (f, w :: x) :: rest else (f, [w]) :: (g, x) :: rest
      | [] => [(f, [w])]

/-- Pieces in ascending F0. -/
def insertPiece (x : Nat × List TWord) : List (Nat × List TWord) → List (Nat × List TWord)
  | [] => [x]
  | y :: ys => if x.1 ≤ y.1 then x :: y :: ys else y :: insertPiece x ys

def sortPieces : List (Nat × List TWord) → List (Nat × List TWord)
  | [] => []
  | x :: xs => insertPiece x (sortPieces xs)

/-- The pieces of a token in ascending F0, its values taken modulo 2^w0 (R199). -/
def State.pieces (s : State) (k : Nat) (t : Token) : List Token :=
  if t.eos then [t]
  else (sortPieces (pieceGo (2 ^ (s.fieldAt k 0).1) (s.f0 k t.tag) t.words)).map fun p =>
    { t with tag := s.withF0 k t.tag p.1, words := p.2 }

/-! ## Token comparators (R465) -/

/-- The first armed comparator of a tile that a piece matches. -/
def State.tokenMatch (s : State) (t k : Nat) (x : Token) : Option Nat :=
  (List.range 4).find? fun n =>
    let tag := s.dbg t (0x100 + 32 * n)
    let mask := s.dbg t (0x108 + 32 * n)
    let cfg := s.dbg t (0x110 + 32 * n)
    let dest := cfg.extractLsb' 0 16
    cfg.getLsbD 17 &&
      (if cfg.getLsbD 16 then dest == x.dest else dest.extractLsb' 2 14 == x.dest.extractLsb' 2 14) &&
      (List.range x.words.length).any fun i =>
        (s.withF0 k x.tag (s.f0 k x.tag + i)) &&& mask == tag &&& mask

/-! ## Discarded tokens -/

/-- A token whose context is not live: the first per context and tile writes FLOW_STATE with reason 1 (R217, R218). Its TASK is the
instance that held the context last, 0 where none has (log 112; DESIGN CHOICE: the rule does not say whose id such a record holds). -/
def State.deadToken (s : State) (pe : Nat) (t : Token) : State :=
  let tl := tileOfPe pe
  let c := ctxOf t.tag
  if (s.tile tl).ctxRec.contains c then s
  else
    let s := s.modTile tl fun x => { x with ctxRec := x.ctxRec ++ [c] }
    s.record { code := cFlowState, die := dieOfTile tl, io := false, tileByte := tileByte tl, unit := pe % 16, flags := 0,
               node := (t.dest.extractLsb' 2 10).toNat, tag := t.tag, task := mapGet 0 (s.tile tl).ctxLast c, cycle := s.cycleOf tl,
               op0 := firstWord t.words, op1 := secondWord t.words, addr := 1 }

/-- A token for a blocked element: the first writes ILLEGAL_NODE with the bits of the record that blocked it, zero for an element
left empty at launch, and the address of its slot, zero after an illegal ostler write (R75, R76; log 95). -/
def State.blockedToken (s : State) (pe k slot : Nat) (x : NodeSlot) (t : Token) : State :=
  if x.discarded then s
  else
    let s := s.modElement slot fun y => { y with discarded := true }
    s.peRecord pe k (s.relNode k slot) cIllegalNode t.tag (x.bad.extractLsb' 0 64) ((x.bad.extractLsb' 64 32).setWidth 64)
      (BitVec.ofNat 64 x.va) 0

/-! ## Lookup (R200, R205, R208) -/

/-- Match or fire a piece at its node; seq and cycle are its arrival's. An E at COMMIT acts on L alone (R415); one on its R has no
effect (log 112; DESIGN CHOICE: the rule names L's alone). -/
def State.lookup (s : State) (pe k slot seq cycle : Nat) (x : NodeRecord) (t : Token) : State :=
  let port := portOf t.dest
  if direct x then s.readyFiring (directFiring pe k slot port seq x t)
  else if t.eos then
    if x.op = .commit then (if port = 0 then s.readyFiring (directFiring pe k slot port seq x t) else s)
    else s.arriveE pe k slot port seq x t
  else s.matchPiece pe k slot port seq cycle x t

/-- Pieces of the deep-lookup queue proper, without arrival records (R208). -/
def Pe.deepLen (p : Pe) : Nat := (p.deep.filter fun d => d.record.isNone).length

/-- A piece waits for its set's lookup: in the queue of 64, else as an arrival record in the overflow table; where that is full it is
discarded with FRAME_OVERFLOW (R208, R209). -/
def State.deepen (s : State) (pe : Nat) (d : DeepPiece) : State :=
  let push (s : State) (d : DeepPiece) : State := s.modPe pe fun q => { q with deep := q.deep ++ [d] }
  if (s.pe pe).deepLen < 64 then push s d
  else
    match freePlace (s.ovfCap d.task) (s.ovfUsed d.task (tileOfPe pe)) with
    | some i => (push s { d with record := some i }).writeEntry pe (d.entry i)
    | none => s.overflowRecord pe (d.entry 0) d.tok.tag d.tok.words

/-- A piece is looked up: at once, or behind its set's outstanding lookup (R208). -/
def State.piece (s : State) (pe k slot : Nat) (x : NodeRecord) (t : Token) : State :=
  let s := s.nextSeq pe
  let p := s.pe pe
  let set := s.setOf k t.tag (s.relNode k slot)
  let now := s.cycleOf (tileOfPe pe)
  if !direct x && (p.lower set != 0 || p.deep.any fun d => d.set == set) then
    s.deepen pe { set := set, slot := slot, tok := t, seq := p.seq, task := k, cycle := now, record := none }
  else s.lookup pe k slot p.seq now x t

/-- The pieces of a token in turn; a piece a token comparator stops stays at the head of the input with those behind it (R465), and
after the resume they pass (R462). -/
def pieceList (pe k slot src : Nat) (pass : Bool) (x : NodeRecord) : List Token → State → State
  | [], s => s
  | t :: ts, s =>
      let tl := tileOfPe pe
      let go (s : State) : State := pieceList pe k slot src pass x ts (s.piece pe k slot x t)
      match (if pass then none else s.tokenMatch tl k t) with
      | none => go s
      | some n =>
          match s.cause tl 3 0 n 0 n { tag := t.tag, node := t.dest.toNat, unit := pe % 16, flags := stopFlags t.words t.eos } with
          | (true, s) =>
              let back : List InTok := (t :: ts).map fun y => { src := src, tok := y, pass := true }
              s.modPe pe fun p => { p with input := back ++ p.input }
          | (false, s) => go s

/-- A token taken from a PE's input (R217, R75, R199). -/
def State.takeToken (s : State) (pe : Nat) (i : InTok) : State :=
  let tl := tileOfPe pe
  let t := i.tok
  match s.ctxTask tl (ctxOf t.tag) with
  | none => s.deadToken pe t
  | some k =>
      let slot := s.nodeKey k pe (t.dest.extractLsb' 2 10).toNat
      match (s.element? slot).filter fun _ => !s.closed k with
      | none => s
      | some e =>
          if e.task ≠ k then s
          else
            match e.rcd with
            | none => s.blockedToken pe k slot e t
            | some x => pieceList pe k slot i.src i.pass x (s.pieces k t) s

/-- The input of a PE is held while a pre-emption holds a task of its tile: a class G freeze wave, a class S save once its
threads have acknowledged, a restore until the ready firings that it replays have fired (R234, R441). -/
def State.inputHeld (s : State) (tile k : Nat) : Bool :=
  decide (dieOfTile tile = dieOfTask k) && (s.frozenTask k || decide (2 ≤ s.savePhase k) || s.replays k)

/-- The replay of a restore is over once an input is open. -/
def State.endReplay (s : State) (tile ctx : Nat) : State :=
  match (s.ctxTask tile ctx).filter fun k => (s.run? k).any (·.replaying) with
  | some k => s.modRun k fun x => { x with replaying := false }
  | none => s

/-- TOKEN_ARRIVAL: PE pe takes token k of its input, the first of its source for that port (R198, R205). -/
def execTokenArrival (pe k : Nat) (s : State) : Out :=
  let p := s.pe pe
  match p.input[k]? with
  | none => ok s
  | some i =>
      let first := (p.input.take k).all fun j => !(j.src == i.src && j.tok.dest == i.tok.dest)
      let held := match s.ctxTask (tileOfPe pe) (ctxOf i.tok.tag) with
        | some t => s.inputHeld (tileOfPe pe) t
        | none => false
      let go (s : State) : Out :=
        ok (((s.endReplay (tileOfPe pe) (ctxOf i.tok.tag)).modPe pe fun p => { p with input := p.input.eraseIdx k }).takeToken pe i)
      if !first || held then ok s else if s.stopped (tileOfPe pe) then s.lateCause (tileOfPe pe) go else go s

/-- DEEP_LOOKUP_COMPLETE (R208): the pieces of a set are matched in arrival order. -/
def execDeepLookupComplete (pe set : Nat) (s : State) : Out :=
  if s.stopped (tileOfPe pe) then ok s
  else
    let mine := (s.pe pe).deep.filter fun d => d.set == set
    let s := s.modPe pe fun p => { p with deep := p.deep.filter fun d => d.set != set }
    ok (mine.foldl (fun s d =>
      let s := match d.record with
        | some i => s.clearEntry pe (d.entry i)
        | none => s
      match s.element? d.slot with
      | none => s
      | some e =>
          match e.rcd with
          | none => s
          | some x => if e.task = d.task then s.lookup pe d.task d.slot d.seq d.cycle x d.tok else s) s)

/-- MATCHING_WAY_REFILL (R207): a free way takes the oldest entry of its set held below; the words of a poisoned slot carry P
(R429). -/
def execMatchingWayRefill (pe set : Nat) (s : State) : Out :=
  let p := s.pe pe
  if s.stopped (tileOfPe pe) then ok s
  else
    match freePlace 8 ((p.entries.filter fun e => e.set == set && e.level == .matching).map (·.pos)) with
    | none => ok s
    | some i =>
        let low := { p with entries := p.entries.filter fun e => e.set == set && e.level != Level.matching }.entry? fun _ => true
        match low with
        | none => ok s
        | some e =>
            let bad := s.entryBad pe e
            let s := (if bad then s.entryEcc pe e else s).clearEntry pe e
            let ws := if bad then e.words.map fun w => { w with p := true } else e.words
            ok (s.modPe pe fun p =>
              { p with entries := p.entries.map fun y => if y = e then { e with level := .matching, pos := i, words := ws } else y })

/-! ## Weights (R212) -/

def classOf (x : NodeRecord) : Nat :=
  let c := (x.op.opc.extractLsb' 6 4).toNat
  (if x.r.fch then 2 else 0) + (if c = 1 ∨ c = 4 ∨ c = 5 ∨ c = 6 then 0 else 1)

/-- o_c: waiting operand entries of the class's nodes at every level, and its ready firings. -/
def State.occupancy (s : State) (pe c : Nat) : Nat :=
  let p := s.pe pe
  (p.entries.filter fun e => (e.kind == .operand || e.kind == .parkedWave) &&
    match s.element? e.slot with
    | some x => (x.rcd.map classOf) == some c
    | none => false).length + (p.ready.filter fun f => classOf f.node == c).length

/-- FIRING_WEIGHT_UPDATE (R212): after 256 firings; the weights are kept as w_c - 1. -/
def execFiringWeightUpdate (pe : Nat) (s : State) : Out :=
  if (s.pe pe).fires < 256 || s.stopped (tileOfPe pe) then ok s
  else
    let o := (List.range 4).map (s.occupancy pe)
    let total := o.sum
    ok (s.modPe pe fun p => { p with fires := p.fires - 256, weights := o.map fun x => if total = 0 then 0 else 15 * x / total })

/-- PACKER_FLUSH (R213): an open run is emitted after 8 cycles without an extension. -/
def execPackerFlush (pe k : Nat) (s : State) : Out :=
  match (s.pe pe).packers[k]? with
  | none => ok s
  | some q =>
      if s.stopped (tileOfPe pe) || s.cycleOf (tileOfPe pe) < q.cycle + 8 then ok s
      else ok (s.flushTo pe q.tok.dest q.remote)

end Sys2Proof.Machine
end

