-- ==== Sys2Proof/Machine/Float.lean ====
section
/-! DEFINITION. Floating-point instructions on carrier A (05_scalar_class.md R148-R153). -/

namespace Sys2Proof.Machine

/-- The type of a class-3 f field, f[5:4] (R148). -/
def scalarType (f : BitVec 6) : FType :=
  match (f.extractLsb' 4 2).toNat with
  | 0 => .fp64 | 1 => .fp32 | 2 => .fp16 | _ => .bf16

/-- An operand of a type read from the low bits of a register (R148). -/
def State.fregBits (s : State) (t : FType) (i : RegNo) : Nat := (s.greg i).toNat % 2 ^ t.width

def State.freg (s : State) (t : FType) (i : RegNo) : XReal := t.read s.me.ftz (s.fregBits t i)

/-- A rounding class-3 operation: the exact value rounded once, its result written zero-extended (R148, R149). -/
def floatOp (o : AR) (s : State) (f : RMode → Exact) : Out :=
  let t := scalarType o.f
  let r := s.me.rounding (o.f.getLsbD 3) o.f
  let x := f r.mode
  let v := t.round r.mode r.sat s.me.ftz x.v
  ok (s.arith (x.raised ||| v.raised) (s.greg o.a) fun s => s.result o.d (BitVec.ofNat 64 v.bits))

/-- FADD (R149). -/
def execFadd (o : AR) (s : State) : Out :=
  let t := scalarType o.f
  floatOp o s fun m => xadd m (s.freg t o.a) (s.freg t o.b)

/-- FSUB (R149). -/
def execFsub (o : AR) (s : State) : Out :=
  let t := scalarType o.f
  floatOp o s fun m => xadd m (s.freg t o.a) (s.freg t o.b).neg

/-- FMUL (R149). -/
def execFmul (o : AR) (s : State) : Out :=
  let t := scalarType o.f
  floatOp o s fun _ => xmul (s.freg t o.a) (s.freg t o.b)

/-- FFMA (R149): x * y + g[d], rounded once. -/
def execFfma (o : AR) (s : State) : Out :=
  let t := scalarType o.f
  floatOp o s fun m => xfma m (s.freg t o.a) (s.freg t o.b) (s.freg t o.d)

/-- FDIV (R149). -/
def execFdiv (o : AR) (s : State) : Out :=
  let t := scalarType o.f
  floatOp o s fun _ => xdiv (s.freg t o.a) (s.freg t o.b)

/-- FSQRT (R149). -/
def execFsqrt (o : AR) (s : State) : Out :=
  let t := scalarType o.f
  floatOp o s fun _ => xsqrt (s.freg t o.a)

/-- The encoding of an operand as read after flush-to-zero, a NaN canonical (R150). -/
def flushedBits (t : FType) (ftz : Bool) (b : Nat) : Nat :=
  if (t.decode b).isNaN then t.nanBits
  else if ftz && t.flushes && t.subnormal b then b / 2 ^ (t.ebits + t.mbits) * 2 ^ (t.ebits + t.mbits)
  else b

/-- The lesser or greater of two encodings, -0 below +0; a NaN yields the other (R150, R168). -/
def minMaxBits (t : FType) (ftz least : Bool) (a b : Nat) : Nat :=
  let x := t.read ftz a
  let y := t.read ftz b
  if x.isNaN then flushedBits t ftz b
  else if y.isNaN then flushedBits t ftz a
  else if (if least then xltTotal x y else xltTotal y x) then flushedBits t ftz a
  else flushedBits t ftz b

/-- FMIN (R150). -/
def execFmin (o : AR) (s : State) : Out :=
  let t := scalarType o.f
  ok (s.result o.d (BitVec.ofNat 64 (minMaxBits t s.me.ftz true (s.fregBits t o.a) (s.fregBits t o.b))))

/-- FMAX (R150). -/
def execFmax (o : AR) (s : State) : Out :=
  let t := scalarType o.f
  ok (s.result o.d (BitVec.ofNat 64 (minMaxBits t s.me.ftz false (s.fregBits t o.a) (s.fregBits t o.b))))

/-- The comparisons of FCMP: eq, lt, le, un, ne; and the class an ordered one raises on a NaN (R150). -/
def fcmpHolds (c : Nat) (x y : XReal) : Bool × Raised :=
  let nan := x.isNaN || y.isNaN
  match c with
  | 0 => (xeq x y, 0)
  | 1 => (xlt x y, if nan then raisedInv else 0)
  | 2 => (!nan && !xlt y x, if nan then raisedInv else 0)
  | 3 => (nan, 0)
  | _ => (!xeq x y, 0)

/-- FCMP (R150): writes a predicate. -/
def execFcmp (o : AR) (s : State) : Out :=
  let t := scalarType o.f
  let r := fcmpHolds (o.f.extractLsb' 0 3).toNat (s.freg t o.a) (s.freg t o.b)
  ok (s.arith r.2 (s.greg o.a) fun s => s.resultPred o.d r.1)

/-- The floating type of a kind of FCVT, codes 0 to 3 (R151). -/
def kindFloat (c : Nat) : Option FType :=
  match c with
  | 0 => some .fp64 | 1 => some .fp32 | 2 => some .fp16 | 3 => some .bf16
  | _ => none

/-- The range of an integer kind, codes 4 to 7 (R151). -/
def kindRange (c : Nat) : Int × Int :=
  match c with
  | 4 => (-(2 ^ 63 : Int), 2 ^ 63 - 1) | 5 => (0, 2 ^ 64 - 1) | 6 => (-(2 ^ 31 : Int), 2 ^ 31 - 1)
  | _ => (0, 2 ^ 32 - 1)

/-- The integer an integer kind reads from a register (R151). -/
def kindRead (c x : Nat) : Int :=
  match c with
  | 4 => asSigned 64 x | 5 => (x : Int) | 6 => asSigned 32 x
  | _ => (x % 2 ^ 32 : Nat)

/-- Low bits kept without saturation, in the kind's own reading (R107, R151). -/
def kindWrap (c : Nat) (z : Int) : Int :=
  match c with
  | 4 => asSigned 64 (wrapInt 64 z) | 5 => wrapInt 64 z | 6 => asSigned 32 (wrapInt 32 z)
  | _ => wrapInt 32 z

/-- FCVT's result as a 64-bit pattern and the classes raised (R151, R106, R107). -/
def fcvtValue (dst src : Nat) (r : RndSat) (ftz : Bool) (x : Nat) : Nat × Raised :=
  match kindFloat dst, kindFloat src with
  | some t, some u =>
      let v := t.round r.mode r.sat ftz (u.read ftz (x % 2 ^ u.width))
      (v.bits, v.raised)
  | some t, none =>
      let v := t.round r.mode r.sat ftz (xint (kindRead src x))
      (v.bits, v.raised)
  | none, some u =>
      let z := toIntSat r.mode (kindRange dst).1 (kindRange dst).2 (u.read ftz (x % 2 ^ u.width))
      (wrapInt 64 z.1, z.2)
  | none, none =>
      let z := kindRead src x
      (wrapInt 64 (if r.sat then clampInt (kindRange dst).1 (kindRange dst).2 z else kindWrap dst z), 0)

/-- FCVT (R151): DST in f[5:3], SRC in b[2:0], DYN in b[3]. -/
def execFcvt (o : AR) (s : State) : Out :=
  let r := s.me.rounding (o.b.getLsbD 3) o.f
  let v := fcvtValue (o.f.extractLsb' 3 3).toNat (o.b.extractLsb' 0 3).toNat r s.me.ftz (s.greg o.a).toNat
  ok (s.arith v.2 (s.greg o.a) fun s => s.result o.d (BitVec.ofNat 64 v.1))

/-- The class of an encoding as one bit of FCLASS's mask (R152). -/
def fclassBit (t : FType) (b : Nat) : Nat :=
  match t.decode b with
  | .nan => 8
  | .inf n => if n then 0 else 7
  | .fin n m _ =>
      if m = 0 then (if n then 3 else 4)
      else if t.subnormal b then (if n then 2 else 5)
      else if n then 1 else 6

/-- FCLASS (R152). -/
def execFclass (o : AR) (s : State) : Out :=
  let t := scalarType o.f
  ok (s.result o.d (BitVec.ofNat 64 (2 ^ fclassBit t (s.fregBits t o.a))))

end Sys2Proof.Machine
end

