-- ==== Sys2Proof/Machine/Special.lean ====
section
/-! DEFINITION. The special functions of class 5 (06_vector_class.md R177): the exact function of the exact
input, rounded once. A transcendental value is enclosed in fixed point with 800 fraction bits; where both ends of
the enclosure round alike that is the correctly rounded result. -/

namespace Sys2Proof.Machine

/-- Fraction bits of the fixed-point enclosures. -/
def fxBits : Nat := 800

/-- One in fixed point. -/
def fxOne : Int := (2 ^ fxBits : Nat)

def fxMul (a b : Int) : Int := a * b / fxOne

/-- Sum of 1 / ((2k+1) n^(2k+1)), with alternating signs for the arctangent. -/
def fxAtanGo (alt : Bool) (n : Int) : Nat → Nat → Int → Int → Int
  | 0, _, _, acc => acc
  | fuel + 1, k, pw, acc =>
      let t := pw / (2 * (k : Int) + 1)
      fxAtanGo alt n fuel (k + 1) (pw / (n * n)) (if alt && k % 2 = 1 then acc - t else acc + t)

/-- ln 2 = 2 artanh(1/3). -/
def fxLn2 : Int := 2 * fxAtanGo false 3 270 0 (fxOne / 3) 0

/-- pi = 16 arctan(1/5) - 4 arctan(1/239). -/
def fxPi : Int := 16 * fxAtanGo true 5 190 0 (fxOne / 5) 0 - 4 * fxAtanGo true 239 60 0 (fxOne / 239) 0

/-- A dyadic value in fixed point; exact for exponents of -800 and above. -/
def fxOf (neg : Bool) (m : Nat) (e : Int) : Int := signedAt neg m e (-(fxBits : Int))

/-- Taylor series of e^r. -/
def fxExpGo (r : Int) : Nat → Nat → Int → Int → Int
  | 0, _, _, acc => acc
  | fuel + 1, k, t, acc => fxExpGo r fuel (k + 1) (fxMul t r / ((k : Int) + 1)) (acc + t)

/-- e^x = v * 2^k: k and v in fixed point. -/
def fxExp (x : Int) : Int × Int :=
  let k := x / fxLn2
  (k, fxExpGo (x - k * fxLn2) 150 0 fxOne 0)

/-- artanh(z) for a fixed-point |z| of at most 1/3. -/
def fxArtanhGo (z2 : Int) : Nat → Nat → Int → Int → Int
  | 0, _, _, acc => acc
  | fuel + 1, k, pw, acc => fxArtanhGo z2 fuel (k + 1) (fxMul pw z2) (acc + pw / (2 * (k : Int) + 1))

/-- Taylor series of sine (from r) or cosine (from 1). -/
def fxTrigGo (r2 : Int) : Nat → Nat → Int → Int → Int
  | 0, _, _, acc => acc
  | fuel + 1, k, t, acc =>
      fxTrigGo r2 fuel (k + 2) (-(fxMul t r2 / (((k : Int) + 1) * ((k : Int) + 2)))) (acc + t)

def fxSin (r : Int) : Int := fxTrigGo (fxMul r r) 110 1 r 0
def fxCos (r : Int) : Int := fxTrigGo (fxMul r r) 110 0 fxOne 0

/-- The error allowed for, in units of the last fixed-point bit. -/
def fxErr : Int := 2 ^ 140

/-- A fixed-point value scaled by 2^k as an exact real. -/
def fxReal (v k : Int) : XReal := .fin (decide (v < 0)) v.natAbs (k - fxBits)

/-- The nine functions of class 5. -/
inductive SfuOp where
  | exp | log2 | rcp | rsqrt | sqrt | sig | tanh | sin | cos
  deriving DecidableEq, Repr, Inhabited

/-- Reciprocal square root of a positive dyadic value, with a sticky bit. -/
def xrsqrtPos (m : Nat) (e : Int) : XReal :=
  let e' := if e % 2 = 0 then e else e - 1
  let m' := if e % 2 = 0 then m else 2 * m
  let k := 120 + Nat.log2 m'
  let q := isqrt (2 ^ (2 * k) / m')
  .fin false (2 * q + (if q * q * m' = 2 ^ (2 * k) then 0 else 1)) (-(e' / 2) - k - 1)

/-- What a function comes to: an exact value (its low bit may be sticky) or an enclosure. -/
inductive SfuVal where
  | exact (x : Exact)
  | between (lo hi : XReal)
  deriving DecidableEq, Repr, Inhabited

def between (v k : Int) : SfuVal := .between (fxReal (v - fxErr) k) (fxReal (v + fxErr) k)

/-- A value below every number of the type, not zero; and one just below 1. -/
def tinyPos : XReal := .fin false 1 (-2000)
def belowOne (neg : Bool) : XReal := .fin neg (2 ^ 300 - 1) (-300)

def plain (v : XReal) : SfuVal := .exact ⟨v, 0⟩
def invalidNaN : SfuVal := .exact ⟨.nan, raisedInv⟩

/-- |x| is at least 2^k. -/
def bigAbs (m : Nat) (e : Int) (k : Int) : Bool := decide (k ≤ dyadicLog2 m e)

/-- Quarter-turn reduction: x = q * pi/2 + r. An exponent above the fraction keeps the product exact: pi carries
800 bits and the types of class 5 stay below 2^128. -/
def fxReduce (x : Int) : Int × Int :=
  let h := fxPi / 2
  let q := (x + h / 2) / h
  (q % 4, x - q * h)

/-- The function of an exact input (R177). -/
def sfuValue (op : SfuOp) (x : XReal) : SfuVal :=
  match x with
  | .nan => plain .nan
  | .inf n =>
      match op with
      | .exp => plain (if n then .fin false 0 0 else .inf false)
      | .log2 => if n then invalidNaN else plain (.inf false)
      | .rcp => plain (.fin n 0 0)
      | .rsqrt => if n then invalidNaN else plain (.fin false 0 0)
      | .sqrt => if n then invalidNaN else plain (.inf false)
      | .sig => plain (if n then .fin false 0 0 else xint 1)
      | .tanh => plain (if n then xint (-1) else xint 1)
      | .sin | .cos => invalidNaN
  | .fin n m e =>
      if m = 0 then
        match op with
        | .exp | .cos => plain (xint 1)
        | .log2 => .exact ⟨.inf true, raisedDz⟩
        | .rcp | .rsqrt => .exact ⟨.inf n, raisedDz⟩
        | .sqrt | .tanh | .sin => plain (.fin n 0 0)
        | .sig => plain (.fin false 1 (-1))
      else
        match op with
        | .rcp => .exact (xdiv (xint 1) x)
        | .sqrt => .exact (xsqrt x)
        | .rsqrt => if n then invalidNaN else plain (xrsqrtPos m e)
        | .exp =>
            if bigAbs m e 9 then (if n then plain tinyPos else plain (.fin false 3 2000))
            else
              let (k, v) := fxExp (fxOf n m e)
              between v k
        | .log2 =>
            if n then invalidNaN
            else
              let lg := dyadicLog2 m e
              if m = 2 ^ Nat.log2 m then plain (xint lg)
              else
                -- f = m / 2^log2 m lies between 1 and 2; log2 f = 2 artanh((f-1)/(f+1)) / ln 2
                let f : Int := fxOf false m (e - lg)
                let z := (f - fxOne) * fxOne / (f + fxOne)
                let l := 2 * fxArtanhGo (fxMul z z) 270 0 z 0
                between (lg * fxOne + l * fxOne / fxLn2) 0
        | .sig =>
            if bigAbs m e 8 then (if n then plain tinyPos else plain (belowOne false))
            else
              -- e^-|x| = v 2^k with k at most 0
              let (k, v) := fxExp (-(fxOf false m e))
              let w := v / (2 ^ (-k).toNat : Nat)
              if n then
                -- e^x / (1 + e^x), kept at the scale of e^x
                between (v * fxOne / (fxOne + w)) k
              else between (fxOne * fxOne / (fxOne + w)) 0
        | .tanh =>
            if bigAbs m e 7 then plain (belowOne n)
            else
              let (k, v) := fxExp (-(fxOf false m (e + 1)))
              let w := v / (2 ^ (-k).toNat : Nat)
              let t := (fxOne - w) * fxOne / (fxOne + w)
              between (if n then -t else t) 0
        | .sin =>
            let (q, r) := fxReduce (fxOf n m e)
            between (if q = 0 then fxSin r else if q = 1 then fxCos r else if q = 2 then -(fxSin r) else -(fxCos r)) 0
        | .cos =>
            let (q, r) := fxReduce (fxOf n m e)
            between (if q = 0 then fxCos r else if q = 1 then -(fxSin r) else if q = 2 then -(fxCos r) else fxSin r) 0

/-- The code of a function for the free value of an undecided rounding. -/
def SfuOp.code : SfuOp → Nat
  | .exp => 0 | .log2 => 1 | .rcp => 2 | .rsqrt => 3 | .sqrt => 4 | .sig => 5 | .tanh => 6 | .sin => 7 | .cos => 8

/-- A function's rounded result into a type (R177). -/
def sfuRound (op : SfuOp) (dst src : FType) (mode : RMode) (sat ftz : Bool) (b : Nat) : Rounded :=
  match sfuValue op (src.read ftz b) with
  | .exact x =>
      let r := dst.round mode sat ftz x.v
      ⟨r.bits, x.raised ||| r.raised⟩
  | .between lo hi =>
      let a := dst.round mode sat ftz lo
      let c := dst.round mode sat ftz hi
      if a = c then a else ⟨Config.hardSfu op.code b, raisedInx⟩

end Sys2Proof.Machine
end

