-- ==== Sys2Proof/Machine/Elements.lean ====
section
/-! DEFINITION. The element operations of classes 4 and 5, the same on both carriers (06_vector_class.md R154,
R155, R168-R177; 04_numbers.md R115). An element is its bit pattern as a number. -/

namespace Sys2Proof.Machine

/-- An element result with the classes it raises. -/
abbrev ERes := Nat × Raised

/-- The value of an integer element (R99). -/
def elemInt (t : ElemType) (b : Nat) : Int := if t.isUnsigned then (b % 2 ^ t.width : Nat) else asSigned t.width b

/-- The range of an integer type (R99). -/
def elemRange (t : ElemType) : Int × Int :=
  if t.isUnsigned then (0, 2 ^ t.width - 1) else (-(2 ^ (t.width - 1) : Int), 2 ^ (t.width - 1) - 1)

/-- An integer result wraps, or is clamped with SAT (R155). -/
def packInt (t : ElemType) (sat : Bool) (z : Int) : Nat :=
  wrapInt t.width (if sat then clampInt (elemRange t).1 (elemRange t).2 z else z)

/-- An exact value rounded into a type (R103, R107, R155). -/
def packReal (t : ElemType) (r : RndSat) (ftz : Bool) (x : Exact) : ERes :=
  match elemFType t with
  | some ft =>
      let v := ft.round r.mode r.sat ftz x.v
      (v.bits, x.raised ||| v.raised)
  | none =>
      let z := toIntSat r.mode (elemRange t).1 (elemRange t).2 x.v
      (wrapInt t.width z.1, x.raised ||| z.2)

/-- The exact value of an element, subnormals flushed under FTZ (R108). -/
def elemReal (t : ElemType) (ftz : Bool) (b : Nat) : XReal :=
  match elemFType t with
  | some ft => ft.read ftz (b % 2 ^ t.width)
  | none => xint (elemInt t b)

/-- An operation that is exact before its one rounding (R155, R168). -/
def elemArith (t : ElemType) (r : RndSat) (ftz : Bool) (fi : Int) (ff : Exact) : ERes :=
  if t.isFloat then packReal t r ftz ff else (packInt t r.sat fi, 0)

def eAdd (t : ElemType) (r : RndSat) (ftz : Bool) (x y _z : Nat) : ERes :=
  elemArith t r ftz (elemInt t x + elemInt t y) (xadd r.mode (elemReal t ftz x) (elemReal t ftz y))

def eSub (t : ElemType) (r : RndSat) (ftz : Bool) (x y _z : Nat) : ERes :=
  elemArith t r ftz (elemInt t x - elemInt t y) (xadd r.mode (elemReal t ftz x) (elemReal t ftz y).neg)

def eMul (t : ElemType) (r : RndSat) (ftz : Bool) (x y _z : Nat) : ERes :=
  elemArith t r ftz (elemInt t x * elemInt t y) (xmul (elemReal t ftz x) (elemReal t ftz y))

def eFma (t : ElemType) (r : RndSat) (ftz : Bool) (x y z : Nat) : ERes :=
  elemArith t r ftz (elemInt t x * elemInt t y + elemInt t z)
    (xfma r.mode (elemReal t ftz x) (elemReal t ftz y) (elemReal t ftz z))

/-- The lesser or greater element (R168). -/
def eMinMax (t : ElemType) (ftz least : Bool) (x y : Nat) : Nat :=
  match elemFType t with
  | some ft => minMaxBits ft ftz least (x % 2 ^ t.width) (y % 2 ^ t.width)
  | none =>
      if (if least then decide (elemInt t x ≤ elemInt t y) else decide (elemInt t y ≤ elemInt t x)) then x % 2 ^ t.width
      else y % 2 ^ t.width

def eMin (t : ElemType) (_r : RndSat) (ftz : Bool) (x y _z : Nat) : ERes := (eMinMax t ftz true x y, 0)
def eMax (t : ElemType) (_r : RndSat) (ftz : Bool) (x y _z : Nat) : ERes := (eMinMax t ftz false x y, 0)

/-- VABS and VNEG: the sign bit of a floating element, |x| or -x of a signed one (R168). -/
def eSign (neg : Bool) (t : ElemType) (r : RndSat) (ftz : Bool) (x : Nat) : ERes :=
  match elemFType t with
  | some ft =>
      let b := x % 2 ^ t.width
      if (ft.decode b).isNaN then (ft.nanBits, 0)
      else
        let top := 2 ^ (t.width - 1)
        let f := flushedBits ft ftz b
        (if neg then Nat.xor f top else f % top, 0)
  | none =>
      let z := elemInt t x
      (packInt t r.sat (if neg then -z else (z.natAbs : Int)), 0)

def eAbs (t : ElemType) (r : RndSat) (ftz : Bool) (x _y _z : Nat) : ERes := eSign false t r ftz x
def eNeg (t : ElemType) (r : RndSat) (ftz : Bool) (x _y _z : Nat) : ERes := eSign true t r ftz x

/-- VCMP's conditions 0 to 6: eq, ne, lt, le, gt, ge, un; the classes an ordered one raises on a NaN (R170). -/
def eCmpHolds (c : Nat) (t : ElemType) (ftz : Bool) (x y : Nat) : Bool × Raised :=
  let a := elemReal t ftz x
  let b := elemReal t ftz y
  let nan := a.isNaN || b.isNaN
  let inv : Raised := if nan then raisedInv else 0
  match c with
  | 0 => (xeq a b, 0)
  | 1 => (!xeq a b, 0)
  | 2 => (xlt a b, inv)
  | 3 => (!nan && !xlt b a, inv)
  | 4 => (xlt b a, inv)
  | 5 => (!nan && !xlt a b, inv)
  | _ => (nan, 0)

/-- All ones where the condition holds, in the source type's width (R170). -/
def eCmp (c : Nat) (t : ElemType) (_r : RndSat) (ftz : Bool) (x y _z : Nat) : ERes :=
  let h := eCmpHolds c t ftz x y
  (if h.1 then 2 ^ t.width - 1 else 0, h.2)

/-- x where z's pattern is nonzero, else y (R170). -/
def eSel (t : ElemType) (_r : RndSat) (_ftz : Bool) (x y z : Nat) : ERes :=
  ((if z % 2 ^ t.width ≠ 0 then x else y) % 2 ^ t.width, 0)

def eAnd (t : ElemType) (_r : RndSat) (_ftz : Bool) (x y _z : Nat) : ERes := (Nat.land x y % 2 ^ t.width, 0)
def eOr (t : ElemType) (_r : RndSat) (_ftz : Bool) (x y _z : Nat) : ERes := (Nat.lor x y % 2 ^ t.width, 0)
def eXor (t : ElemType) (_r : RndSat) (_ftz : Bool) (x y _z : Nat) : ERes := (Nat.xor x y % 2 ^ t.width, 0)

/-- Shifts by y mod width (R169). -/
def eShl (t : ElemType) (_r : RndSat) (_ftz : Bool) (x y _z : Nat) : ERes :=
  (x * 2 ^ (y % 2 ^ t.width % t.width) % 2 ^ t.width, 0)

def eShr (arith : Bool) (t : ElemType) (_r : RndSat) (_ftz : Bool) (x y _z : Nat) : ERes :=
  let k := y % 2 ^ t.width % t.width
  (if arith then wrapInt t.width (asSigned t.width x / (2 ^ k : Nat)) else x % 2 ^ t.width / 2 ^ k, 0)

/-- VMIN(VMAX(lo, x), hi); the high bound wins (R170). -/
def eClamp (t : ElemType) (ftz : Bool) (v lo hi : Nat) : ERes := (eMinMax t ftz true (eMinMax t ftz false v lo) hi, 0)

/-- Conversion from S to D (R171). -/
def eCvt (src dst : ElemType) (r : RndSat) (ftz : Bool) (x : Nat) : ERes :=
  if !src.isFloat && !dst.isFloat then (packInt dst r.sat (elemInt src x), 0)
  else packReal dst r ftz ⟨elemReal src ftz x, 0⟩

/-- round(a * s, D) with the FP32 scale s (R172). -/
def eQnt (src dst : ElemType) (r : RndSat) (ftz : Bool) (x s : Nat) : ERes :=
  packReal dst r ftz (xmul (elemReal src ftz x) (elemReal .fp32 ftz s))

/-- VIOTA's element: the integer n rounded into D (R174). -/
def eIota (dst : ElemType) (r : RndSat) (ftz : Bool) (n : Nat) : ERes :=
  if dst.isFloat then packReal dst r ftz ⟨xint n, 0⟩ else (packInt dst r.sat n, 0)

/-- A special function between two floating types (R177). -/
def eSfu (op : SfuOp) (src dst : ElemType) (r : RndSat) (ftz : Bool) (x : Nat) : ERes :=
  match elemFType src, elemFType dst with
  | some a, some d =>
      let v := sfuRound op d a r.mode r.sat ftz (x % 2 ^ src.width)
      (v.bits, v.raised)
  | _, _ => (0, 0)

/-! ## Packed words (R38, R101, R154) -/

/-- The elements of a word by a type's layout. -/
def unpackWord (t : ElemType) (w : Nat) : List Nat := (List.range t.epw).map fun i => w / 2 ^ (t.width * i) % 2 ^ t.width

/-- A word from up to epw elements; bits above them zero. -/
def packWord (t : ElemType) : List Nat → Nat
  | [] => 0
  | e :: es => e % 2 ^ t.width + 2 ^ t.width * packWord t es

/-- Cut a list into groups of n. -/
def groupsOf (n : Nat) : Nat → List α → List (List α)
  | 0, _ => []
  | fuel + 1, l => if l.isEmpty then [] else l.take n :: groupsOf n fuel (l.drop n)

/-- Elements packed into words. -/
def packWords (t : ElemType) (es : List Nat) : List Nat := (groupsOf t.epw es.length es).map (packWord t)

def unpackWords (t : ElemType) (ws : List Nat) : List Nat := ws.flatMap (unpackWord t)

/-- Element-wise application over three operands; a missing one reads zero. -/
def mapElemsN (f : Nat → Nat → Nat → ERes) : List Nat → List Nat → List Nat → List ERes
  | x :: xs, ys, zs => f x (ys.headD 0) (zs.headD 0) :: mapElemsN f xs ys.tail zs.tail
  | [], _, _ => []

/-- Elements packed into 32-bit words with the classes each word raised (R111, R154). -/
def packElems (t : ElemType) (es : List ERes) : List ERes :=
  (groupsOf t.epw es.length es).map fun g => (packWord t (g.map (·.1)), g.foldl (fun r e => r ||| e.2) 0)

/-! ## Reductions (R115, R175, R176) -/

/-- The type a reduction delivers (R175). -/
def redType (t : ElemType) : ElemType := if t.isFloat then .fp32 else if t.isUnsigned then .u32 else .i32

/-- One level of pairsum: neighbours added and rounded to T, an odd term passed up (R115). -/
def pairLevel (ft : FType) (ftz : Bool) : List XReal → List XReal × Raised
  | [] => ([], 0)
  | [x] => ([x], 0)
  | x :: y :: l =>
      let e := xadd .rne x y
      let v := ft.round .rne false ftz e.v
      let rest := pairLevel ft ftz l
      (ft.decode v.bits :: rest.1, e.raised ||| v.raised ||| rest.2)

/-- pairsum of R115. -/
def pairSum (ft : FType) (ftz : Bool) : Nat → List XReal → XReal × Raised
  | 0, l => (l.headD (.fin false 0 0), 0)
  | fuel + 1, l =>
      if l.length ≤ 1 then (l.headD (.fin false 0 0), 0)
      else
        let a := pairLevel ft ftz l
        let b := pairSum ft ftz fuel a.1
        (b.1, a.2 ||| b.2)

/-- The final conversion of a sum under the destination's rounding (R115). -/
def redFinish (t : ElemType) (r : RndSat) (ftz : Bool) (terms : List XReal) (ri : Raised) (exactInt : Int) : ERes :=
  if t.isFloat then
    let p := pairSum .fp32 ftz terms.length terms
    let v := packReal .fp32 r ftz ⟨p.1, 0⟩
    (v.1, ri ||| p.2 ||| v.2)
  else (packInt (redType t) r.sat exactInt, 0)

def eRedSum (t : ElemType) (r : RndSat) (ftz : Bool) (xs : List Nat) : ERes :=
  redFinish t r ftz (xs.map (elemReal t ftz)) 0 ((xs.map (elemInt t)).sum)

def eDot (t : ElemType) (r : RndSat) (ftz : Bool) (xs ys : List Nat) : ERes :=
  let ps := (xs.zip ys).map fun p => xmul (elemReal t ftz p.1) (elemReal t ftz p.2)
  redFinish t r ftz (ps.map (·.v)) (ps.foldl (fun a p => a ||| p.raised) 0)
    (((xs.zip ys).map fun p => elemInt t p.1 * elemInt t p.2).sum)

/-- VREDMAX, VREDMIN: NaN elements passed over, all NaN gives the canonical NaN (R175). -/
def eRedSel (least : Bool) (t : ElemType) (ftz : Bool) (xs : List Nat) : ERes :=
  match elemFType t with
  | some ft =>
      let ok := xs.filter fun x => !(ft.decode (x % 2 ^ t.width)).isNaN
      match ok with
      | [] => (FType.fp32.nanBits, 0)
      | x :: l => ((FType.fp32.round .rne false false
          (ft.decode (flushedBits ft ftz (l.foldl (fun a b => eMinMax t ftz least a b) (x % 2 ^ t.width))))).bits, 0)
  | none =>
      match xs with
      | [] => (0, 0)
      | x :: l => (packInt (redType t) false (elemInt t (l.foldl (fun a b => eMinMax t ftz least a b) x)), 0)

/-- VSCAN after the first element: the running sum, what its additions have raised so far, and the prefixes (R176); a prefix
raises what the sums it is computed from raise, and its own rounding (R111). -/
def scanGo (t : ElemType) (r : RndSat) (ftz : Bool) : XReal → Int → Raised → List Nat → List ERes
  | _, _, _, [] => []
  | acc, z, up, x :: l =>
      if t.isFloat then
        let e := xadd .rne acc (elemReal t ftz x)
        let v := FType.fp32.round .rne false ftz e.v
        let acc' := FType.fp32.decode v.bits
        let up := up ||| e.raised ||| v.raised
        let d := packReal t r ftz ⟨acc', 0⟩
        (d.1, up ||| d.2) :: scanGo t r ftz acc' z up l
      else
        let z' := z + elemInt t x
        (packInt t r.sat z', 0) :: scanGo t r ftz acc z' up l

/-- VSCAN (R176): inclusive prefixes; the first element is exact. -/
def eScan (t : ElemType) (r : RndSat) (ftz : Bool) : List Nat → List ERes
  | [] => []
  | x :: l =>
      let d := if t.isFloat then packReal t r ftz ⟨elemReal t ftz x, 0⟩ else (packInt t r.sat (elemInt t x), 0)
      d :: scanGo t r ftz (elemReal t ftz x) (elemInt t x) 0 l

/-! ## Permutation (R174) -/

/-- VSHUF's source index, none for an element of zeros. -/
def shufIndex (wrap : Bool) (n : Nat) (k : Int) : Option Nat :=
  if wrap then some (k % (n : Int)).toNat
  else if 0 ≤ k ∧ k < n then some k.toNat else none

end Sys2Proof.Machine
end

