-- ==== Sys2Proof/Machine/Operands.lean ====
section
/-! DEFINITION. The operand forms: which registers a bundle names (02_formats.md R49, R121), the sweep descriptor
and its checks (R57-R61, R70 rows 7 and 8, 06_vector_class.md R156, R167). -/

namespace Sys2Proof.Machine

/-! ## Sweep descriptors (R58) -/

def descAddr (w : Word) : Nat := (w.extractLsb' 0 24).toNat
def descStep (w : Word) : Int := asSigned 16 (w.extractLsb' 24 16).toNat
def descCount (w : Word) : Nat := (w.extractLsb' 40 12).toNat
def descType (w : Word) : Option ElemType := ElemType.ofCode (w.extractLsb' 52 4)
def descRndBits (w : Word) : Nat := (w.extractLsb' 56 4).toNat
def descT (w : Word) : ElemType := (descType w).getD .i32

/-- The checks of R61 that no opcode decides. -/
def descOk (w : Word) : Bool :=
  (w.extractLsb' 60 4) == 0 && (descType w).isSome && descAddr w % 4 == 0 && descStep w % 4 == 0 &&
    decide (descAddr w < 0x200000)

/-- Which source descriptors a slot-B opcode uses (R57, R167, R416). -/
def usesA : Instr → Bool
  | .viota _ => false
  | _ => true

def usesB : Instr → Bool
  | .vadd _ | .vsub _ | .vmul _ | .vfma _ | .vmin _ | .vmax _ | .vcmp _ | .vsel _ | .vand _ | .vor _ | .vxor _
  | .vshl _ | .vshr _ | .vqnt _ | .vclamp _ | .vshuf _ | .vdot _ | .topk _ => true
  | _ => false

/-- The opcode rounds: RND is a mode with SAT (R60, R167). -/
def rounds : Instr → Bool
  | .vadd _ | .vsub _ | .vmul _ | .vfma _ | .vcvt _ | .vqnt _ | .viota _ | .vredsum _ | .vscan _ | .vdot _
  | .vexp _ | .vlog2 _ | .vrcp _ | .vrsqrt _ | .vsqrt _ | .vsig _ | .vtanh _ | .vsin _ | .vcos _ => true
  | _ => false

/-- The RND values an opcode accepts in B.D (R60, R167): SAT is bit 2 of the field. -/
def sweepRndOk (i : Instr) (r : Nat) : Bool :=
  if rounds i then decide (r < 8)
  else
    match i with
    | .vabs _ | .vneg _ => r == 0 || r == 4
    | .vcmp _ => decide (r ≤ 6)
    | .vshr _ | .vshuf _ => decide (r ≤ 1)
    | _ => r == 0

/-- The type rules of R167 on B.D alone and on the sources: which of the three is the first refused, 0 none, 1 B.D,
2 B.A, 3 B.B. VSHUF with a floating index type refuses B.B, also where T and the index type pair 6 bits with 4 (R156 names B.A for
that pair, R167 B.B for the type; DESIGN CHOICE, log 109). VCMP on a 6-bit type refuses B.A: with T itself refused there is no integer type of its width that B.D would
have to match (DEDUCED, log 109). -/
def sweepTypes (i : Instr) (d a b : ElemType) : Nat :=
  let shared (acc : ElemType → Bool) (useB : Bool) : Nat :=
    if !acc d then 1 else if a ≠ d then 2 else if useB && b ≠ d then 3 else 0
  match i with
  | .vadd _ | .vsub _ | .vmul _ | .vfma _ | .vmin _ | .vmax _ | .vsel _ | .vand _ | .vor _ | .vxor _ | .vclamp _ =>
      shared (fun _ => true) true
  | .vabs _ | .vneg _ => shared (fun t => !t.isUnsigned) false
  | .vcmp _ =>
      if d.isFloat then 1 else if a.width = 6 then 2 else if d.width ≠ a.width then 1 else if b ≠ a then 3 else 0
  | .vshl _ | .vshr _ => shared (fun t => !t.isFloat) true
  | .vcvt _ => if (d.width = 6 ∧ a.width = 4) ∨ (d.width = 4 ∧ a.width = 6) then 2 else 0
  | .vqnt _ =>
      if ¬ (a = .i32 ∨ a = .fp32 ∨ a = .bf16 ∨ a = .fp16) then 2 else if b ≠ .fp32 then 3 else 0
  | .vpack _ | .vunpack _ => shared (fun t => decide (1 < t.epw)) false
  | .vmov _ | .vscan _ => shared (fun _ => true) false
  | .viota _ => 0
  | .vshuf _ =>
      if a ≠ d then 2 else if b.isFloat then 3
      else if a.width = 6 ∧ b.width = 4 then 2 else 0
  | .vredsum _ | .vredmax _ | .vredmin _ => if d ≠ redType a then 1 else 0
  | .vdot _ => if d ≠ redType a then 1 else if b ≠ a then 3 else 0
  | .topk _ =>
      if d ≠ .fp32 then 1 else if ¬ (a = .fp32 ∨ a = .bf16 ∨ a = .fp16) then 2 else if b ≠ .u32 then 3 else 0
  | _ => if !d.isSfu then 1 else if !a.isSfu then 2 else 0

/-- The opcode refuses d's type whatever the sources' types are (R167). -/
def refusesAlone (i : Instr) (d : ElemType) : Bool :=
  (List.range 14).all fun k =>
    let t := (ElemType.ofCode (BitVec.ofNat 4 k)).getD .i32
    sweepTypes i d t t == 1

/-- B.D's type is refused, by itself or against a source whose type is one of R68 (R167); whatever else is wrong with that
source is row 8's. -/
def destRefused (i : Instr) (d a b : Word) : Bool :=
  if usesA i && (descType a).isNone then refusesAlone i (descT d) else sweepTypes i (descT d) (descT a) (descT b) == 1

/-- Rows 7 and 8 of R70: the descriptor that fails first, B.D before B.A before B.B. -/
def descError (i : Instr) (d a b : Word) : Option Word :=
  let bad := sweepTypes i (descT d) (descT a) (descT b)
  if !descOk d || !sweepRndOk i (descRndBits d) || destRefused i d a b then some d
  else if usesA i && (!descOk a || bad == 2) then some a
  else if usesB i && (!descOk b || bad == 3) then some b
  else none

/-! ## The registers a bundle names (R49, R121) -/

/-- The general-register fields of slot A's format; predicate numbers and codes name no register (R122, R141, R142,
R150, R151). AFADD and AREDN.fadd with REPRO read g[b+1], COPY2D g[b+1], RNGDRAW writes g[d+1] (R299, R339, R399). -/
def namedA (i : Instr) : List RegNo :=
  match i with
  | .brp _ => []
  | .pset o => [o.a, o.b]
  | .plogic _ => []
  | .fcmp o => [o.a, o.b]
  | .fcvt o => [o.d, o.a]
  | .call _ | .ret _ => [31]
  | .copy2d o => [o.d, o.a, o.b, o.b + 1]
  | .rngdraw o => [o.d, o.d + 1, o.a, o.b]
  | .afadd o => if o.repro then [o.d, o.a, o.b, o.b + 1] else [o.d, o.a, o.b]
  | .aredn o => if o.repro && (o.f.extractLsb' 2 3) == 1 then [o.d, o.a, o.b, o.b + 1] else [o.d, o.a, o.b]
  | _ =>
      match i.enc with
      | .ar _ o => [o.d, o.a, o.b]
      | .are _ o => [o.d, o.a, o.b]
      | .ai _ o => [o.d, o.a]
      | .ax _ o => [o.d, o.a, o.b]
      | _ => []

/-- The registers of slot B (R57). -/
def namedB (i : Instr) : List RegNo :=
  match i.enc with
  | .bo _ o => [o.d, o.a, o.b]
  | _ => []

/-- A bundle names a pending register (R121). -/
def Thread.waits (t : Thread) (x : Bundle) : Bool :=
  let regs := namedA x.a ++ (match x.b with
    | some (_, i) => namedB i
    | none => [])
  regs.any fun r => t.pending (t.preg r)

end Sys2Proof.Machine
end

