-- ==== Sys2Proof/Machine/Timeline.lean ====
section
/-! DEFINITION. Timeline counters, their waits and the user interrupts (10_remote_memory_class.md R276-R282,
R303, R304). Engine codes: 0 copy, 1 vector, 2 matrix, 3 gather. -/

namespace Sys2Proof.Machine

/-- The counter of an engine. -/
def Thread.counter (t : Thread) (e : Nat) : Word := mapGet 0 t.tlDone e

/-- The highest number issued on an engine. -/
def Thread.issued (t : Thread) (e : Nat) : Word := mapGet 0 t.tlIssued e

/-- A command enters the queue: it takes the next number (R276). -/
def Thread.takeNumber (t : Thread) (e : Nat) : Thread := { t with tlIssued := wordPut e (t.issued e + 1) t.tlIssued }

def Thread.armed (t : Thread) (e : Nat) : Bool := t.uistat.getLsbD e

/-- An arm whose target the counter reaches fires and is disarmed (R280). -/
def Thread.fireArm (t : Thread) (e : Nat) : Thread :=
  if t.armed e && (mapGet 0 t.uitgt e).ule (t.counter e) then
    { t with uistat := (t.uistat &&& ~~~ BitVec.ofNat 64 (2 ^ e)) ||| BitVec.ofNat 64 (2 ^ (4 + e)) }
  else t

/-- The counter passes completed numbers in order (R276). -/
def advanceGo (e : Nat) : Nat → Thread → Thread
  | 0, t => t
  | k + 1, t =>
      if t.tlOut.contains (e, t.counter e + 1) then
        advanceGo e k { t with tlDone := wordPut e (t.counter e + 1) t.tlDone,
                               tlOut := t.tlOut.filter fun x => x ≠ (e, t.counter e + 1) }
      else t

/-- TIMELINE_COUNTER_ADVANCE and UI_ARM_FIRE within a command's completion (R276, R280). -/
def Thread.complete (t : Thread) (e : Nat) (n : Word) : Thread :=
  let t := { t with tlOut := t.tlOut ++ [(e, n)] }
  (advanceGo e t.tlOut.length t).fireArm e

/-- A user interrupt is pending and may be taken (R119 row 3, R280). -/
def Thread.userPending (t : Thread) : Bool :=
  t.uivec.getLsbD 0 && (t.uistat.extractLsb' 4 4) != 0 && !t.hnd && !t.uih

/-- USER_INTERRUPT_TAKE (R282). -/
def execUserInterruptTake (s : State) : Out :=
  let t := s.me
  if !t.userPending then ok s
  else
    let h1 : Word := BitVec.ofNat 64 ((t.p.toNat / 2 % 128) * 16 + (t.uistat.extractLsb' 4 4).toNat)
    ok (s.modMe fun t =>
      { t with h := wordPut 1 h1 (wordPut 0 t.pc t.h), uistat := t.uistat &&& 0xF, uih := true,
               pc := t.uivec &&& ~~~(7 : Word), wait := none })

/-- TLREAD (R303): the counter, or the highest number issued with `.iss`. -/
def execTlread (o : AR) (s : State) : Out :=
  if isMemTile s.myTile then ok (s.trap cIllegalOp s.cur.word)
  else
    let e := (o.f.extractLsb' 0 2).toNat
    ok (s.result o.d (if o.f.getLsbD 2 then s.me.issued e else s.me.counter e))

/-- TLWAIT (R303): it does not issue while the target lies above the counter and at or below the highest number
issued. -/
def execTlwait (o : AR) (s : State) : Out :=
  if isMemTile s.myTile then ok (s.trap cIllegalOp s.cur.word)
  else
    let e := (o.f.extractLsb' 0 2).toNat
    let n := s.greg o.a
    if (s.me.counter e).ult n && n.ule (s.me.issued e) then ok s.hold
    else ok (s.result o.d (s.me.counter e))

/-- UIARM (R280, R304): a target of 0 disarms and clears PEND; a target already met fires at once. -/
def execUiarm (o : AR) (s : State) : Out :=
  if isMemTile s.myTile then ok (s.trap cIllegalOp s.cur.word)
  else
    let e := (o.f.extractLsb' 0 2).toNat
    let v := s.greg o.a
    let clear : Word := ~~~ BitVec.ofNat 64 (2 ^ e + 2 ^ (4 + e))
    let s := s.modMe fun t =>
      if v = 0 then { t with uistat := t.uistat &&& clear }
      else { t with uistat := t.uistat ||| BitVec.ofNat 64 (2 ^ e), uitgt := wordPut e v t.uitgt }.fireArm e
    ok s.advance

/-- UIRET (R304). -/
def execUiret (_o : AR) (s : State) : Out :=
  if isMemTile s.myTile then ok (s.trap cIllegalOp s.cur.word)
  else if !s.me.uih then ok (s.trap cIllegalOp s.cur.word)
  else
    let h0 := mapGet 0 s.me.h 0
    if h0.extractLsb' 0 3 ≠ 0 then ok (s.trap cAccessFault h0)
    else
      ok (s.modMe fun t =>
        { t with pc := h0, p := BitVec.ofNat 8 (((mapGet 0 t.h 1).extractLsb' 4 7).toNat * 2), uih := false })

end Sys2Proof.Machine
end

