-- ==== Sys2Proof/Machine/Vector.lean ====
section
/-! DEFINITION. Sweeps of the vector engine: slot B of classes 4 and 5, TOPK, and TKMERGE (06_vector_class.md
R156-R177, 14_generation_class.md R416, R417). A command's whole run is one step, VECTOR_ENGINE_TAKE; its
completion is the next, VECTOR_COMMAND_COMPLETE. -/

namespace Sys2Proof.Machine

/-! ## Issue -/

/-- The descriptors of slot B as they stood before the bundle (R49). -/
def State.sweepDescs (s : State) (o : BO) : Word × Word × Word :=
  s.cur.desc.getD (s.greg o.d, s.greg o.a, s.greg o.b)

/-- A command enters the issuing thread's queue of an engine and takes its number (R22, R276). -/
def State.enqueue (s : State) (e : Nat) (op : Instr) (d a b shape : Word) (aux : List Word) : State :=
  s.modMe fun t =>
    let t := t.takeNumber e
    let c : EngCmd := { th := some s.cur.th, num := (t.issued e).toNat, op := op, d := d, a := a, b := b,
                        shape := shape, exc := t.excmode, pc := s.cur.pc, aux := aux, task := s.myTask.getD 0,
                        fir := default, id := s.nextId }
    t.setQueue e (t.queue e ++ [c])

/-- A slot-B instruction (R57-R61): the descriptors are checked, then the command is queued with the modes of its
thread (R161). -/
def issueSweep (i : Instr) (o : BO) (s : State) : Out :=
  let ds := s.sweepDescs o
  if isMemTile s.myTile then ok (s.trap cIllegalOp s.cur.word)
  else
    match descError i ds.1 ds.2.1 ds.2.2 with
    | some w => ok (s.trap cIllegalDesc w)
    | none => if s.me.queueFull 1 then ok s.hold else ok (s.enqueue 1 i ds.1 ds.2.1 ds.2.2 0 []).fresh

/-! ## The iterations of a sweep -/

/-- Elements per iteration: 32 times the largest epw among the descriptors used (R156). -/
def sweepE (i : Instr) (d a b : ElemType) : Nat :=
  let es := [d.epw] ++ (if usesA i then [a.epw] else []) ++ (if usesB i then [b.epw] else [])
  32 * es.foldl max 1

/-- Words in each operand's segment: d, a, b (R156). -/
def sweepWords (i : Instr) (d a b : ElemType) : Nat × Nat × Nat :=
  let e := sweepE i d a b
  match i with
  | .vpack _ => (e / d.epw, e, 0)
  | .vunpack _ => (e, e / a.epw, 0)
  | .vredsum _ | .vredmax _ | .vredmin _ => (1, e / a.epw, 0)
  | .vdot _ => (1, e / a.epw, e / b.epw)
  | .vqnt _ => (e / d.epw, e / a.epw, 1)
  | _ => (e / d.epw, if usesA i then e / a.epw else 0, if usesB i then e / b.epw else 0)

/-- n words of the pool from an address. -/
def State.poolWords (s : State) (t a n : Nat) : List Nat := (List.range n).map fun i => s.poolLoad t (a + 4 * i) 4

/-- d is read as well as written (R167). -/
def readsD : Instr → Bool
  | .vfma _ | .vsel _ | .vclamp _ => true
  | _ => false

/-- The elements of iteration j of a sweep with E elements, from the words of a, b and the old d; `scale` is VQNT's
word. The result elements are of type d (R168-R177). -/
def sweepElems (i : Instr) (rnd : Nat) (ftz : Bool) (d a b : ElemType) (j e : Nat) (ws bs ds : List Nat) : List ERes :=
  let r := descRnd rnd
  let xs := unpackWords a ws
  let ys := unpackWords b bs
  let zs := unpackWords d ds
  match i with
  | .vadd _ => mapElemsN (eAdd d r ftz) xs ys zs
  | .vsub _ => mapElemsN (eSub d r ftz) xs ys zs
  | .vmul _ => mapElemsN (eMul d r ftz) xs ys zs
  | .vfma _ => mapElemsN (eFma d r ftz) xs ys zs
  | .vmin _ => mapElemsN (eMin d r ftz) xs ys zs
  | .vmax _ => mapElemsN (eMax d r ftz) xs ys zs
  | .vabs _ => mapElemsN (eAbs d r ftz) xs ys zs
  | .vneg _ => mapElemsN (eNeg d r ftz) xs ys zs
  | .vcmp _ => mapElemsN (eCmp rnd a r ftz) xs ys zs
  | .vsel _ => mapElemsN (eSel d r ftz) xs ys zs
  | .vand _ => mapElemsN (eAnd d r ftz) xs ys zs
  | .vor _ => mapElemsN (eOr d r ftz) xs ys zs
  | .vxor _ => mapElemsN (eXor d r ftz) xs ys zs
  | .vshl _ => mapElemsN (eShl d r ftz) xs ys zs
  | .vshr _ => mapElemsN (eShr (rnd == 1) d r ftz) xs ys zs
  | .vcvt _ => xs.map (eCvt a d r ftz)
  | .vqnt _ => xs.map fun x => eQnt a d r ftz x (bs.headD 0)
  | .vpack _ => ws.map fun x => (x % 2 ^ d.width, 0)
  | .vunpack _ => xs.map fun x => (x, 0)
  | .vclamp _ => mapElemsN (fun x y z => eClamp d ftz z x y) xs ys zs
  | .vmov _ => xs.map fun x => (x, 0)
  | .viota _ => (List.range e).map fun k => eIota d r ftz (j * e + k)
  | .vshuf _ => ys.map fun y =>
      match shufIndex (rnd == 1) e (elemInt b y) with
      | some k => (xs.getD k 0, 0)
      | none => (0, 0)
  | .vredsum _ => [eRedSum a r ftz xs]
  | .vredmax _ => [eRedSel false a ftz xs]
  | .vredmin _ => [eRedSel true a ftz xs]
  | .vscan _ => eScan d r ftz xs
  | .vdot _ => [eDot a r ftz xs ys]
  | .vexp _ => xs.map (eSfu .exp a d r ftz)
  | .vlog2 _ => xs.map (eSfu .log2 a d r ftz)
  | .vrcp _ => xs.map (eSfu .rcp a d r ftz)
  | .vrsqrt _ => xs.map (eSfu .rsqrt a d r ftz)
  | .vsqrt _ => xs.map (eSfu .sqrt a d r ftz)
  | .vsig _ => xs.map (eSfu .sig a d r ftz)
  | .vtanh _ => xs.map (eSfu .tanh a d r ftz)
  | .vsin _ => xs.map (eSfu .sin a d r ftz)
  | .vcos _ => xs.map (eSfu .cos a d r ftz)
  | _ => []

/-- The 32-bit result words with the classes each raised (R111). VUNPACK puts each element into its own word. -/
def sweepResult (i : Instr) (d : ElemType) (es : List ERes) : List ERes :=
  match i with
  | .vunpack _ => es
  | _ => packElems d es

/-- The code of the first word that traps under the modes (R111, R157): among the words of an iteration the lowest word decides
(DESIGN CHOICE, log 109). -/
def firstTrap (modes : Nat) (ws : List ERes) : Option Nat :=
  ws.findSome? fun w =>
    match judge modes w.2 with
    | .trap c => some c
    | _ => none

/-- Why a sweep stops: the code and the value of bytes 48-55 (R158). -/
structure SweepStop where
  code : Nat
  addr : Nat
  deriving DecidableEq, Repr, Inhabited

/-- Base address of an operand in iteration j (R156). -/
def sweepBase (w : Word) (j : Nat) : Int := (descAddr w : Int) + j * descStep w

/-- An operand's segment lies where a sweep may go (R157). -/
def segOk (s : State) (task : Option Nat) (t : Nat) (base : Int) (words : Nat) : Bool :=
  decide (0 ≤ base) && (words == 0 || poolOk s task t base.toNat (4 * words) false)

/-- One iteration (R157): a stop, or the state after it. A poisoned source word stops it with base[d], as a trapping class does
(DESIGN CHOICE, log 109). -/
def sweepIter (c : EngCmd) (t : Nat) (j : Nat) (s : State) : Except SweepStop State :=
  let d := descT c.d
  let a := descT c.a
  let b := descT c.b
  let (nd, na, nb) := sweepWords c.op d a b
  let bd := sweepBase c.d j
  let ba := sweepBase c.a j
  let bb := sweepBase c.b j
  let bad (base : Int) : Except SweepStop State := .error ⟨cAccessFault, wrapInt 64 base⟩
  if !segOk s c.task t bd nd then bad bd
  else if na ≠ 0 && !segOk s c.task t ba na then bad ba
  else if nb ≠ 0 && !segOk s c.task t bb nb then bad bb
  else
    let poison := (na ≠ 0 && s.poolPoisoned t ba.toNat (4 * na)) || (nb ≠ 0 && s.poolPoisoned t bb.toNat (4 * nb)) ||
      (readsD c.op && s.poolPoisoned t bd.toNat (4 * nd))
    if poison then .error ⟨cEccUncorr, bd.toNat⟩
    else
      let es := sweepElems c.op (descRndBits c.d) (c.exc.getLsbD 12) d a b j (sweepE c.op d a b)
        (s.poolWords t ba.toNat na) (s.poolWords t bb.toNat nb)
        (if readsD c.op then s.poolWords t bd.toNat nd else [])
      let ws := sweepResult c.op d es
      match firstTrap (c.exc.extractLsb' 0 12).toNat ws with
      | some code => .error ⟨code, bd.toNat⟩
      | none =>
          let s := s.poolWrite t bd.toNat (ws.flatMap fun w => natToBytes 4 w.1)
          .ok (s.modThread (c.th.getD 0) (·.raise (ws.foldl (fun r w => r ||| w.2) 0)))

/-- A stop's report: the record and the error register of the engine (R158, R187, R273): `seg` is the register's
progress field in place. -/
def engineStop (e : Nat) (c : EngCmd) (t code : Nat) (seg : Nat) (addr : Nat) (s : State) : State :=
  let th := c.th.getD 0
  let r : FaultRec :=
    { code := code, die := dieOfTile t, io := false, tileByte := tileByte t, unit := 0xFF,
      flags := numOfThread th * 16, node := (c.pc.extractLsb' 0 16).toNat, tag := 0, task := s.instanceId c.task,
      cycle := s.cycleOf t, op0 := c.d, op1 := 0, addr := BitVec.ofNat 64 addr }
  (s.record r).modThread th fun x =>
    { x with err := wordPut e (BitVec.ofNat 64 (code + 2 ^ 16 + seg + c.num % 2 ^ 20 * 2 ^ 44)) x.err }

/-- The loop of R157 from iteration j, `n` iterations to go. -/
def sweepLoop (c : EngCmd) (t : Nat) : Nat → Nat → State → State
  | 0, _, s => s
  | n + 1, j, s =>
      match sweepIter c t j s with
      | .error x => engineStop 1 c t x.code (j * 2 ^ 32) x.addr s
      | .ok s => sweepLoop c t n (j + 1) s

/-! ## TOPK and TKMERGE (R416, R417) -/

/-- A pair of TOPK: FP32 bits and id. -/
abbrev Pair := Nat × Nat

/-- Descending value, -0 below +0, ties by ascending id. -/
def pairBefore (p q : Pair) : Bool :=
  let x := FType.fp32.decode p.1
  let y := FType.fp32.decode q.1
  xltTotal y x || (!xltTotal x y && decide (p.2 ≤ q.2))

def pairInsert (p : Pair) : List Pair → List Pair
  | [] => [p]
  | q :: l => if pairBefore p q then p :: q :: l else q :: pairInsert p l

def pairSort (l : List Pair) : List Pair := l.foldr pairInsert []

/-- The first k pairs, the shortfall filled (R416). -/
def pairFill (k : Nat) (l : List Pair) : List Pair :=
  (l.take k) ++ List.replicate (k - l.length) (0xFF800000, 0xFFFFFFFF)

def pairBytes (l : List Pair) : List Byte := l.flatMap fun p => natToBytes 4 p.1 ++ natToBytes 4 p.2

/-- Candidates of TOPK's iterations: ids count from the base; NaN passed over. -/
def topkScan (c : EngCmd) (t base : Nat) : Nat → Nat → List Pair → State → Except (Nat × SweepStop) (List Pair)
  | 0, _, acc, _ => .ok acc
  | n + 1, j, acc, s =>
      let a := descT c.a
      let e := sweepE c.op (descT c.d) a (descT c.b)
      let ftz := c.exc.getLsbD 12
      let ba := sweepBase c.a j
      if !segOk s c.task t ba (e / a.epw) then .error (j, ⟨cAccessFault, wrapInt 64 ba⟩)
      else if s.poolPoisoned t ba.toNat (4 * (e / a.epw)) then .error (j, ⟨cEccUncorr, descAddr c.d⟩)
      else
        let xs := unpackWords a (s.poolWords t ba.toNat (e / a.epw))
        let ps := (xs.zip (List.range e)).filterMap fun x =>
          let v := elemReal a ftz x.1
          if v.isNaN then none
          else some ((FType.fp32.round .rne false false v).bits, (base + j * e + x.2) % 2 ^ 32)
        topkScan c t base n (j + 1) (acc ++ ps) s

/-- TOPK's run (R416). -/
def runTopk (c : EngCmd) (t : Nat) (s : State) : State :=
  if descCount c.d = 0 then s
  else
    let pb := descAddr c.b
    let pd := descAddr c.d
    if !poolOk s c.task t pb 8 false then engineStop 1 c t cAccessFault 0 pb s
    else if s.poolPoisoned t pb 8 then engineStop 1 c t cEccUncorr 0 pd s
    else
      let k := s.poolLoad t pb 4
      let base := s.poolLoad t (pb + 4) 4
      if k = 0 ∨ 64 < k then engineStop 1 c t cIllegalDesc 0 pb s
      else if !poolOk s c.task t pd (8 * k) false then engineStop 1 c t cAccessFault 0 pd s
      else
        match topkScan c t base (descCount c.d) 0 [] s with
        | .error (j, x) => engineStop 1 c t x.code (j * 2 ^ 32) x.addr s
        | .ok ps => s.poolWrite t pd (pairBytes (pairFill k (pairSort ps)))

/-- valid(id) of R403 under VOCAB, PADLO, PADHI. -/
def vocValid (vocab padlo padhi : Word) (id : Nat) : Bool :=
  decide (id < vocab.toNat) && !(decide (padlo.toNat ≤ id) && decide (id < padhi.toNat))

/-- TKMERGE's run (R417). -/
def runTkmerge (c : EngCmd) (t : Nat) (s : State) : State :=
  let src := (c.a.extractLsb' 0 24).toNat
  let k := (c.a.extractLsb' 24 7).toNat
  let m := (c.a.extractLsb' 32 4).toNat + 1
  let dst := (c.d.extractLsb' 0 24).toNat
  let kout := (c.d.extractLsb' 24 7).toNat
  if s.poolPoisoned t src (8 * k * m) then engineStop 1 c t cEccUncorr 0 dst s
  else
    let ps := (List.range (k * m)).map fun i => (s.poolLoad t (src + 8 * i) 4, s.poolLoad t (src + 8 * i + 4) 4)
    let voc := match c.aux with
      | [v, lo, hi] => fun (p : Pair) => vocValid v lo hi p.2
      | _ => fun _ => true
    let ps := ps.map fun p => (flushedBits .fp32 (c.exc.getLsbD 12) p.1, p.2)
    let keep := ps.filter fun p => p.2 != 0xFFFFFFFF && !(FType.fp32.decode p.1).isNaN && voc p
    s.poolWrite t dst (pairBytes (pairFill kout (pairSort keep)))

/-- TKMERGE (R417, R399): the words are checked at issue, the destination word first, then the ranges. -/
def execTkmerge (o : AR) (s : State) : Out :=
  let w := s.greg o.a
  let d := s.greg o.d
  let wOk := (w.extractLsb' 0 3) == 0 && decide (1 ≤ (w.extractLsb' 24 7).toNat ∧ (w.extractLsb' 24 7).toNat ≤ 64) &&
    !w.getLsbD 31 && (w.extractLsb' 36 28) == 0
  let dOk := (d.extractLsb' 0 3) == 0 && decide (1 ≤ (d.extractLsb' 24 7).toNat ∧ (d.extractLsb' 24 7).toNat ≤ 64) &&
    (d.extractLsb' 31 33) == 0
  let src := (w.extractLsb' 0 24).toNat
  let dst := (d.extractLsb' 0 24).toNat
  let n := 8 * (w.extractLsb' 24 7).toNat * ((w.extractLsb' 32 4).toNat + 1)
  if isMemTile s.myTile then ok (s.trap cIllegalOp s.cur.word)
  else if !dOk then ok (s.trap cIllegalDesc d)
  else if !wOk then ok (s.trap cIllegalDesc w)
  else if !poolOk s s.myTask s.myTile dst (8 * (d.extractLsb' 24 7).toNat) false then
    ok (s.trap cAccessFault (BitVec.ofNat 64 (poolFirstBad s s.myTask s.myTile dst (8 * (d.extractLsb' 24 7).toNat))))
  else if !poolOk s s.myTask s.myTile src n false then
    ok (s.trap cAccessFault (BitVec.ofNat 64 (poolFirstBad s s.myTask s.myTile src n)))
  else if s.me.queueFull 1 then ok s.hold
  else
    let aux := if o.f.getLsbD 0 then [s.me.vocab, s.me.padlo, s.me.padhi] else []
    ok ((s.enqueue 1 (.tkmerge o) d w 0 0 aux).fresh.advance)

/-! ## The engine -/

/-- A taken command's effect; while VERR.VALID is 1 it completes without any access (R158). -/
def runVector (c : EngCmd) (t : Nat) (s : State) : State :=
  if (s.thread (c.th.getD 0)).errValid 1 then s
  else
    match c.op with
    | .topk _ => runTopk c t s
    | .tkmerge _ => runTkmerge c t s
    | _ => sweepLoop c t (descCount c.d) 0 s

/-- The first thread of a tile, after the one last served, whose queue of an engine holds a command (R156). -/
def nextServed (s : State) (tile last e : Nat) : Option Nat :=
  ((List.range 8).map fun i => 8 * tile + (last + 1 + i) % 8).find? fun th => !((s.thread th).queue e).isEmpty

/-- VECTOR_ENGINE_TAKE (R156, R157): the engine is idle and takes the next queue head round-robin. -/
def execVectorEngineTake (tile : Nat) (s : State) : Out :=
  if s.stopped tile ∨ (s.tile tile).vecRun.isSome then ok s
  else
    match nextServed s tile (s.tile tile).vecLast 1 with
    | none => ok s
    | some th =>
        match (s.thread th).queue 1 with
        | [] => ok s
        | c :: rest =>
            let s := s.modThread th (·.setQueue 1 rest)
            let s := runVector c tile s
            ok (s.modTile tile fun x => { x with vecRun := some c, vecLast := numOfThread th })

/-- VECTOR_COMMAND_COMPLETE (R276): the counter advances and arms fire. -/
def execVectorCommandComplete (tile : Nat) (s : State) : Out :=
  if s.stopped tile then ok s
  else
    match (s.tile tile).vecRun with
    | none => ok s
    | some c =>
        let s := s.modTile tile fun x => { x with vecRun := none }
        ok (s.modThread (c.th.getD 0) (·.complete 1 (BitVec.ofNat 64 c.num)))

/-! ## The slot-B instructions -/

/-- VADD on slot B (R168). -/
def execVadd (o : BO) (s : State) : Out := issueSweep (.vadd o) o s

/-- VSUB on slot B (R168). -/
def execVsub (o : BO) (s : State) : Out := issueSweep (.vsub o) o s

/-- VMUL on slot B (R168). -/
def execVmul (o : BO) (s : State) : Out := issueSweep (.vmul o) o s

/-- VFMA on slot B (R168). -/
def execVfma (o : BO) (s : State) : Out := issueSweep (.vfma o) o s

/-- VMIN on slot B (R168). -/
def execVmin (o : BO) (s : State) : Out := issueSweep (.vmin o) o s

/-- VMAX on slot B (R168). -/
def execVmax (o : BO) (s : State) : Out := issueSweep (.vmax o) o s

/-- VABS on slot B (R168). -/
def execVabs (o : BO) (s : State) : Out := issueSweep (.vabs o) o s

/-- VNEG on slot B (R168). -/
def execVneg (o : BO) (s : State) : Out := issueSweep (.vneg o) o s

/-- VCMP on slot B (R170). -/
def execVcmp (o : BO) (s : State) : Out := issueSweep (.vcmp o) o s

/-- VSEL on slot B (R170). -/
def execVsel (o : BO) (s : State) : Out := issueSweep (.vsel o) o s

/-- VAND on slot B (R169). -/
def execVand (o : BO) (s : State) : Out := issueSweep (.vand o) o s

/-- VOR on slot B (R169). -/
def execVor (o : BO) (s : State) : Out := issueSweep (.vor o) o s

/-- VXOR on slot B (R169). -/
def execVxor (o : BO) (s : State) : Out := issueSweep (.vxor o) o s

/-- VSHL on slot B (R169). -/
def execVshl (o : BO) (s : State) : Out := issueSweep (.vshl o) o s

/-- VSHR on slot B (R169). -/
def execVshr (o : BO) (s : State) : Out := issueSweep (.vshr o) o s

/-- VCVT on slot B (R171). -/
def execVcvt (o : BO) (s : State) : Out := issueSweep (.vcvt o) o s

/-- VQNT on slot B (R172). -/
def execVqnt (o : BO) (s : State) : Out := issueSweep (.vqnt o) o s

/-- VPACK on slot B (R173). -/
def execVpack (o : BO) (s : State) : Out := issueSweep (.vpack o) o s

/-- VUNPACK on slot B (R173). -/
def execVunpack (o : BO) (s : State) : Out := issueSweep (.vunpack o) o s

/-- VCLAMP on slot B (R170). -/
def execVclamp (o : BO) (s : State) : Out := issueSweep (.vclamp o) o s

/-- VMOV on slot B (R170). -/
def execVmov (o : BO) (s : State) : Out := issueSweep (.vmov o) o s

/-- VIOTA on slot B (R174). -/
def execViota (o : BO) (s : State) : Out := issueSweep (.viota o) o s

/-- VSHUF on slot B (R174). -/
def execVshuf (o : BO) (s : State) : Out := issueSweep (.vshuf o) o s

/-- VREDSUM on slot B (R175). -/
def execVredsum (o : BO) (s : State) : Out := issueSweep (.vredsum o) o s

/-- VREDMAX on slot B (R175). -/
def execVredmax (o : BO) (s : State) : Out := issueSweep (.vredmax o) o s

/-- VREDMIN on slot B (R175). -/
def execVredmin (o : BO) (s : State) : Out := issueSweep (.vredmin o) o s

/-- VSCAN on slot B (R176). -/
def execVscan (o : BO) (s : State) : Out := issueSweep (.vscan o) o s

/-- VDOT on slot B (R175). -/
def execVdot (o : BO) (s : State) : Out := issueSweep (.vdot o) o s

/-- VEXP on slot B (R177). -/
def execVexp (o : BO) (s : State) : Out := issueSweep (.vexp o) o s

/-- VLOG2 on slot B (R177). -/
def execVlog2 (o : BO) (s : State) : Out := issueSweep (.vlog2 o) o s

/-- VRCP on slot B (R177). -/
def execVrcp (o : BO) (s : State) : Out := issueSweep (.vrcp o) o s

/-- VRSQRT on slot B (R177). -/
def execVrsqrt (o : BO) (s : State) : Out := issueSweep (.vrsqrt o) o s

/-- VSQRT on slot B (R177). -/
def execVsqrt (o : BO) (s : State) : Out := issueSweep (.vsqrt o) o s

/-- VSIG on slot B (R177). -/
def execVsig (o : BO) (s : State) : Out := issueSweep (.vsig o) o s

/-- VTANH on slot B (R177). -/
def execVtanh (o : BO) (s : State) : Out := issueSweep (.vtanh o) o s

/-- VSIN on slot B (R177). -/
def execVsin (o : BO) (s : State) : Out := issueSweep (.vsin o) o s

/-- VCOS on slot B (R177). -/
def execVcos (o : BO) (s : State) : Out := issueSweep (.vcos o) o s

/-- TOPK on slot B (R416). -/
def execTopk (o : BO) (s : State) : Out := issueSweep (.topk o) o s

end Sys2Proof.Machine
end

