-- ==== Sys2Proof/Machine/Matrix.lean ====
section
/-! DEFINITION. The matrix engine: class 6 on both carriers (07_matrix_class.md R178-R197, 04_numbers.md R116). An
operation's whole run is one step, MATRIX_ENGINE_TAKE; MATRIX_OPERATION_COMPLETE makes it observable. -/

namespace Sys2Proof.Machine

/-! ## Shapes (R182, R183) -/

def shapeM (w : Word) : Nat := 16 * ((w.extractLsb' 0 3).toNat + 1)
def shapeN (w : Word) : Nat := 16 * ((w.extractLsb' 3 2).toNat + 1)
def shapeK (w : Word) : Nat := 32 * ((w.extractLsb' 5 6).toNat + 1)
def shapeA (w : Word) : ElemType := (ElemType.ofCode (w.extractLsb' 11 4)).getD .fp32
def shapeB (w : Word) : ElemType := (ElemType.ofCode (w.extractLsb' 15 4)).getD .fp32
def shapeAstr (w : Word) : Nat := 16 * (w.extractLsb' 20 12).toNat
def shapeBstr (w : Word) : Nat := 16 * (w.extractLsb' 32 12).toNat

/-- Bytes of n elements of a type in whole words (R154). -/
def rowBytes (t : ElemType) (n : Nat) : Nat := 4 * ((n + t.epw - 1) / t.epw)

def mtxType (c : BitVec 4) : Bool := decide (3 ≤ c.toNat ∧ c.toNat ≤ 9)

/-- A valid shape word (R183). -/
def shapeValid (w : Word) : Bool :=
  mtxType (w.extractLsb' 11 4) && mtxType (w.extractLsb' 15 4) && !w.getLsbD 19 && (w.extractLsb' 44 20) == 0 &&
    decide (rowBytes (shapeA w) (shapeK w / 2) ≤ shapeAstr w) && decide (rowBytes (shapeB w) (shapeK w) ≤ shapeBstr w)

/-- The full bound on A's stride (R183). -/
def shapeFull (w : Word) : Bool := decide (rowBytes (shapeA w) (shapeK w) ≤ shapeAstr w)

/-- Entry n of a task on a tile, with VALID. -/
def State.shape (s : State) (k t n : Nat) : Word := mapGet 0 (s.taskTile k t).shapes n

def State.setShape (s : State) (k t n : Nat) (w : Word) : State :=
  s.modTaskTile k t fun x => { x with shapes := wordPut n w x.shapes }

def shapeVALID : Word := 0x8000000000000000

/-! ## The checks of the entries (R191-R195) -/

/-- An address register: a pool address of an alignment (R189). -/
def mtxAddrOk (w : Word) (n : Nat) : Bool := (w.extractLsb' 24 40) == 0 && w.toNat % n == 0

/-- The shape suffices for the operation. -/
def mtxShapeOk (i : Instr) (w : Word) : Bool :=
  w.getLsbD 63 &&
    match i with
    | .mma _ | .mmaz _ => shapeFull w
    | .mmax _ => shapeFull w && decide (5 ≤ (w.extractLsb' 11 4).toNat) && decide (5 ≤ (w.extractLsb' 15 4).toNat)
    | .mtrn _ => shapeFull w && decide (rowBytes (shapeA w) (shapeM w) ≤ shapeBstr w)
    | _ => true

/-- The destination word of MOUT (R193). -/
def moutWordOk (sh d : Word) : Bool :=
  match ElemType.ofCode (d.extractLsb' 32 4) with
  | none => false
  | some ty =>
      let r := 16 * (d.extractLsb' 24 8).toNat
      (d.extractLsb' 39 25) == 0 && (d.extractLsb' 0 2) == 0 && r != 0 && decide (rowBytes ty (shapeN sh) ≤ r)

/-- MFETCH's words: destination, source and length (R195). -/
def mfetchD (w : Word) : Bool := mtxAddrOk w 16
def mfetchA (w : Word) : Bool := (w.extractLsb' 32 32) == 0 && (w.extractLsb' 0 4) == 0
def mfetchB (w : Word) : Bool :=
  let n := (w.extractLsb' 0 19).toNat
  (w.extractLsb' 19 13) == 0 && (w.extractLsb' 40 24) == 0 && (w.extractLsb' 32 8) != 0 && n % 16 == 0 &&
    decide (16 ≤ n ∧ n ≤ 262144)

/-- The first offending value of an operation, in the order shape, d, a, b (R185). -/
def mtxError (i : Instr) (sh d a b : Word) : Option Word :=
  match i with
  | .mfetch _ => if !mfetchD d then some d else if !mfetchA a then some a else if !mfetchB b then some b else none
  | .mzero _ => if !mtxShapeOk i sh then some sh else if !mtxAddrOk d 64 then some d else none
  | .mout _ =>
      if !mtxShapeOk i sh then some sh else if !moutWordOk sh d then some d else if !mtxAddrOk a 64 then some a else none
  | .mtrn _ =>
      if !mtxShapeOk i sh then some sh else if !mtxAddrOk d 16 then some d else if !mtxAddrOk a 16 then some a else none
  | _ =>
      if !mtxShapeOk i sh then some sh else if !mtxAddrOk d 64 then some d else if !mtxAddrOk a 16 then some a
      else if !mtxAddrOk b 16 then some b else none

/-! ## Ranges in the pool (R184) -/

/-- The first byte of a range that the task may not use: of a compute tile's granules, of a memory tile's SRAM and role (R184,
R239). -/
def firstBad (s : State) (k t a n : Nat) (accOnly : Bool) : Option Nat :=
  (((List.range ((a + n - 1) / 0x10000 - a / 0x10000 + 1)).map fun i => max a ((a / 0x10000 + i) * 0x10000)).find? fun x =>
    !poolOk s (some k) t x 1 accOnly)

/-- The first bad byte of several ranges. -/
def firstBadOf (s : State) (k t : Nat) (accOnly : Bool) (rs : List (Nat × Nat)) : Option Nat :=
  rs.findSome? fun r => firstBad s k t r.1 r.2 accOnly

/-- n rows of bytes at a stride. -/
def rowRanges (a stride bytes n : Nat) : List (Nat × Nat) := (List.range n).map fun i => (a + stride * i, bytes)

/-- The ranges A, B, scales and metadata occupy (R184). -/
def mmaRanges (i : Instr) (sh : Word) (a b : Nat) : List (Nat × Nat) :=
  let m := shapeM sh
  let n := shapeN sh
  let k := shapeK sh
  let ta := shapeA sh
  let bs := rowRanges b (shapeBstr sh) (rowBytes (shapeB sh) k) n
  match i with
  | .mmas _ => rowRanges a (shapeAstr sh) (rowBytes ta (k / 2)) m ++ [(a + shapeAstr sh * m, m * (k / 8))] ++ bs
  | .mmax _ =>
      rowRanges a (shapeAstr sh) (rowBytes ta k) m ++ [(a + shapeAstr sh * m, m * (k / 32))] ++ bs ++
        [(b + shapeBstr sh * n, n * (k / 32))]
  | _ => rowRanges a (shapeAstr sh) (rowBytes ta k) m ++ bs

/-- Poisoned words among ranges. -/
def rangesPoisoned (s : State) (t : Nat) (rs : List (Nat × Nat)) : Bool := rs.any fun r => s.poolPoisoned t r.1 r.2

/-! ## Multiply-accumulate (R191, R116) -/

/-- The elements of a row of n from an address. -/
def mtxRow (s : State) (t : Nat) (ty : ElemType) (a n : Nat) : List Nat :=
  (unpackWords ty (s.poolWords t a ((n + ty.epw - 1) / ty.epw))).take n

/-- A value times 2^(scale - 127); the scale 0xFF is NaN (R102). -/
def scaled (v : XReal) (sc : Nat) : XReal :=
  if sc = 255 then .nan
  else match v with
    | .fin n m e => .fin n m (e + sc - 127)
    | x => x

/-- Row m of A: for each k the values placed there: two of a sparse group may share one, and where none is kept there is an exact
zero (R191). -/
def aRow (s : State) (t : Nat) (i : Instr) (sh : Word) (ftz : Bool) (a m : Nat) : List (List XReal) :=
  let ta := shapeA sh
  let k := shapeK sh
  let row := a + shapeAstr sh * m
  let meta_ := a + shapeAstr sh * shapeM sh
  match i with
  | .mmas _ =>
      let kept := (mtxRow s t ta row (k / 2)).map (elemReal ta ftz)
      (List.range (k / 4)).flatMap fun g =>
        let nib := s.poolLoad t (meta_ + m * (k / 8) + g / 2) 1 / 16 ^ (g % 2) % 16
        (List.range 4).map fun p =>
          match (if nib % 4 = p then [kept.getD (2 * g) .nan] else []) ++ (if nib / 4 = p then [kept.getD (2 * g + 1) .nan] else []) with
          | [] => [.fin false 0 0]
          | xs => xs
  | .mmax _ =>
      ((mtxRow s t ta row k).zip (List.range k)).map fun x =>
        [scaled (elemReal ta ftz x.1) (s.poolLoad t (meta_ + m * (k / 32) + x.2 / 32) 1)]
  | _ => (mtxRow s t ta row k).map fun x => [elemReal ta ftz x]

/-- Column n of B. -/
def bCol (s : State) (t : Nat) (i : Instr) (sh : Word) (ftz : Bool) (b n : Nat) : List XReal :=
  let tb := shapeB sh
  let k := shapeK sh
  let col := (mtxRow s t tb (b + shapeBstr sh * n) k).map (elemReal tb ftz)
  match i with
  | .mmax _ =>
      (col.zip (List.range k)).map fun x =>
        scaled x.1 (s.poolLoad t (b + shapeBstr sh * shapeN sh + n * (k / 32) + x.2 / 32) 1)
  | _ => col

/-- One block's exact sum and the classes it raised. -/
def blockSum (as : List (List XReal)) (bs : List XReal) : Exact :=
  (as.zip bs).foldl (fun acc p =>
    p.1.foldl (fun acc x =>
      let q := xmul x p.2
      let r := xadd .rne acc.v q.v
      ⟨r.v, acc.raised ||| q.raised ||| r.raised⟩) acc) ⟨.fin false 0 0, 0⟩

/-- The blocks of an element: each sum rounded to FP32, then added with one rounding. -/
def mmaElem (ftz : Bool) : Nat → List (List XReal) → List XReal → XReal × Nat × Raised → XReal × Nat × Raised
  | 0, _, _, c => c
  | n + 1, as, bs, c =>
      let x := blockSum (as.take 32) (bs.take 32)
      let y := FType.fp32.round .rne false ftz x.v
      let z := xadd .rne c.1 (FType.fp32.decode y.bits)
      let w := FType.fp32.round .rne false ftz z.v
      mmaElem ftz n (as.drop 32) (bs.drop 32)
        (FType.fp32.decode w.bits, w.bits, c.2.2 ||| x.raised ||| y.raised ||| z.raised ||| w.raised)

/-- How an operation ends: stopped with a code and an offending address, or its writes (address, bytes) and the
classes it raised. -/
inductive MtxEnd where
  | stop (code addr : Nat)
  | done (ws : List (Nat × List Byte)) (r : Raised)
  deriving DecidableEq, Repr, Inhabited

/-- A trapping class stops the operation, C its address (R186). -/
def mtxJudge (modes c : Nat) (ws : List (Nat × List Byte)) (r : Raised) : MtxEnd :=
  match judge modes r with
  | .trap code => .stop code c
  | _ => .done ws r

/-- A multiply over its shape (R182 to R187). A poisoned word, of whichever matrix, stops it with the address C (MTRN and MFETCH:
their source) in bytes 48 to 55 (DESIGN CHOICE, log 117: no rule names the address). -/
def mmaRun (s : State) (k t : Nat) (i : Instr) (sh : Word) (modes : Nat) (ftz : Bool) (c a b : Nat) : MtxEnd :=
  let m := shapeM sh
  let n := shapeN sh
  let rs := mmaRanges i sh a b
  let zero := match i with
    | .mmaz _ => true
    | _ => false
  match firstBadOf s k t false rs, firstBadOf s k t true [(c, 4 * m * n)] with
  | some x, _ => .stop cAccessFault x
  | none, some x => .stop cAccessFault x
  | none, none =>
      if rangesPoisoned s t rs || (!zero && s.poolPoisoned t c (4 * m * n)) then .stop cEccUncorr c
      else
        let cols := (List.range n).map (bCol s t i sh ftz b)
        let es := (List.range m).flatMap fun r =>
          let as := aRow s t i sh ftz a r
          (cols.zip (List.range n)).map fun x =>
            let c0 := if zero then XReal.fin false 0 0 else FType.fp32.read ftz (s.poolLoad t (c + 4 * (n * r + x.2)) 4)
            (mmaElem ftz (shapeK sh / 32) as x.1 (c0, 0, 0)).2
        mtxJudge modes c [(c, es.flatMap fun e => natToBytes 4 e.1)] (es.foldl (fun r e => r ||| e.2) 0)

/-! ## MZERO, MOUT, MTRN, MFETCH (R192-R195) -/

def mzeroRun (s : State) (k t : Nat) (sh : Word) (c : Nat) : MtxEnd :=
  let n := 4 * shapeM sh * shapeN sh
  match firstBad s k t c n true with
  | some x => .stop cAccessFault x
  | none => .done [(c, List.replicate n 0)] 0

/-- The rounding of MOUT's destination word: mode in [37:36], SAT in [38]. -/
def moutRnd (d : Word) : RndSat := ⟨RMode.ofCode (d.extractLsb' 36 2), d.getLsbD 38⟩

def moutRun (s : State) (k t : Nat) (clr : Bool) (sh : Word) (modes : Nat) (ftz : Bool) (d : Word) (c scale : Nat) : MtxEnd :=
  let m := shapeM sh
  let n := shapeN sh
  let ty := (ElemType.ofCode (d.extractLsb' 32 4)).getD .i32
  let base := (d.extractLsb' 0 24).toNat
  let str := 16 * (d.extractLsb' 24 8).toNat
  match firstBadOf s k t false (rowRanges base str (rowBytes ty n) m), firstBad s k t c (4 * m * n) true with
  | some x, _ => .stop cAccessFault x
  | none, some x => .stop cAccessFault x
  | none, none =>
      if s.poolPoisoned t c (4 * m * n) then .stop cEccUncorr c
      else
        let sc := FType.fp32.read ftz scale
        let rows := (List.range m).map fun r =>
          (List.range n).map fun j => packReal ty (moutRnd d) ftz (xmul (FType.fp32.read ftz (s.poolLoad t (c + 4 * (n * r + j)) 4)) sc)
        let ds := (rows.zip (List.range m)).map fun x =>
          (base + str * x.2, (packWords ty (x.1.map (·.1))).flatMap (natToBytes 4))
        mtxJudge modes c (ds ++ if clr then [(c, List.replicate (4 * m * n) 0)] else [])
          (rows.foldl (fun r x => x.foldl (fun r e => r ||| e.2) r) 0)

/-- The first byte that two families of ranges share, in the order of the first. -/
def rangesMeet (xs ys : List (Nat × Nat)) : Option Nat :=
  xs.findSome? fun x =>
    ((ys.filter fun y => decide (x.1 < y.1 + y.2) && decide (y.1 < x.1 + x.2)).map fun y => max x.1 y.1).min?

def mtrnRun (s : State) (k t : Nat) (sh : Word) (d a : Nat) : MtxEnd :=
  let ty := shapeA sh
  let src := rowRanges a (shapeAstr sh) (rowBytes ty (shapeK sh)) (shapeM sh)
  let dst := rowRanges d (shapeBstr sh) (rowBytes ty (shapeM sh)) (shapeK sh)
  match firstBadOf s k t false (src ++ dst), rangesMeet src dst with
  | some x, _ => .stop cAccessFault x
  | none, some x => .stop cAccessFault x
  | none, none =>
      if rangesPoisoned s t src then .stop cEccUncorr a
      else
        let rows := (List.range (shapeM sh)).map fun m => mtxRow s t ty (a + shapeAstr sh * m) (shapeK sh)
        .done ((List.range (shapeK sh)).map fun j =>
          (d + shapeBstr sh * j, (packWords ty (rows.map fun r => r.getD j 0)).flatMap (natToBytes 4))) 0

/-- MFETCH: the checks of R195, then the source bytes; they go to every named tile. A tile outside the cluster or the region is
reported with the source address, whichever tile it is (DESIGN CHOICE, log 117: the rule names no address). -/
def mfetchRun (s : State) (k t : Nat) (a b d : Word) : Except (Nat × Nat) (List Byte × List Nat) :=
  let src := dieOfTile t * 256 + (a.extractLsb' 24 8).toNat
  let sa := (a.extractLsb' 0 24).toNat
  let n := (b.extractLsb' 0 19).toNat
  let onto := mfetchTiles t (b.extractLsb' 32 8).toNat
  let region := s.region k
  if clusterOf src ≠ clusterOf t then .error (cAccessFault, sa)
  else if !(src :: onto).all region.contains then .error (cAccessFault, sa)
  else
    match firstBad s k src sa n false with
    | some x => .error (cAccessFault, x)
    | none =>
        match onto.findSome? fun u => firstBad s k u d.toNat n false with
        | some x => .error (cAccessFault, x)
        | none =>
            if s.poolPoisoned src sa n then .error (cEccUncorr, sa)
            else .ok ((List.range n).map fun i => s.plainByte (poolKey s src (sa + i)), onto)

/-! ## One operation -/

/-- A command performed: a stop, or the state with its writes and the classes it raised. -/
def mtxPerform (c : EngCmd) (t : Nat) (s : State) : Except (Nat × Nat) (State × Raised) :=
  let modes := (c.exc.extractLsb' 0 12).toNat
  let ftz := c.exc.getLsbD 12
  let fin : MtxEnd → Except (Nat × Nat) (State × Raised)
    | .stop code addr => .error (code, addr)
    | .done ws r => .ok (ws.foldl (fun s w => s.poolWrite t w.1 w.2) s, r)
  match c.op with
  | .mzero _ => fin (mzeroRun s c.task t c.shape c.d.toNat)
  | .mout o => fin (moutRun s c.task t (o.f.getLsbD 3) c.shape modes ftz c.d c.a.toNat (c.b.extractLsb' 0 32).toNat)
  | .mtrn _ => fin (mtrnRun s c.task t c.shape c.d.toNat c.a.toNat)
  | .mfetch _ =>
      match mfetchRun s c.task t c.a c.b c.d with
      | .error x => .error x
      | .ok (bs, onto) => .ok (onto.foldl (fun s u => s.poolWrite u c.d.toNat bs) s, 0)
  | i => fin (mmaRun s c.task t i c.shape modes ftz c.d.toNat c.a.toNat c.b.toNat)

/-- The opcode index that MERR.OPC shows (R187). -/
def mtxOpc (i : Instr) : Nat := i.opc.toNat % 16

/-- The record and MERR of a stopped sequencer command (R186). -/
def mtxStop (c : EngCmd) (t code addr : Nat) (s : State) : State :=
  let th := c.th.getD 0
  let r : FaultRec :=
    { code := code, die := dieOfTile t, io := false, tileByte := tileByte t, unit := 0xFF, flags := numOfThread th * 16,
      node := (c.pc.extractLsb' 0 16).toNat, tag := 0, task := s.instanceId c.task, cycle := s.cycleOf t, op0 := c.d,
      op1 := c.a, addr := BitVec.ofNat 64 addr }
  (s.record r).modThread th fun x =>
    { x with err := wordPut 2 (BitVec.ofNat 64 (code + 2 ^ 16 + mtxOpc c.op * 2 ^ 32 + c.num % 2 ^ 20 * 2 ^ 44)) x.err }

/-- A command's run at its unit: the state after it and the command with what its completion needs: the classes it
raised, P and a trapping class of a node (R186, R188). -/
def runMatrix (c : EngCmd) (t : Nat) (s : State) : State × EngCmd :=
  match c.th with
  | some th =>
      if (s.thread th).errValid 2 then (s, c)
      else
        match mtxPerform c t s with
        | .error (code, addr) => (mtxStop c t code addr s, c)
        | .ok (s, r) => (s, { c with aux := [BitVec.ofNat 64 r.toNat] })
  | none =>
      match mtxPerform c t s with
      | .error (code, addr) =>
          if code = cAccessFault ∨ code = cEccUncorr then
            (s.fireRecord c.fir code (BitVec.ofNat 64 addr), { c with aux := [0, 1, 0] })
          else (s, { c with aux := [0, 1, BitVec.ofNat 64 code] })
      | .ok (s, r) =>
          let p := judge (c.exc.extractLsb' 0 12).toNat r == .poison
          (s, { c with aux := [BitVec.ofNat 64 r.toNat, if p then 1 else 0, 0] })

/-! ## The engine (R178, R179) -/

def isFetch (c : EngCmd) : Bool :=
  match c.op with
  | .mfetch _ => true
  | _ => false

/-- The unit that performs a command can accept it: the array one operation, the fetch unit four. -/
def Tile.mtxAccepts (x : Tile) (c : EngCmd) : Bool :=
  if isFetch c then decide ((x.mtxRun.filter isFetch).length < 4) else !(x.mtxRun.any fun y => !isFetch y)

/-- The fetch reads a memory tile that accepts no request yet (R240). -/
def State.fetchWaits (s : State) (t : Nat) (c : EngCmd) : Bool :=
  isFetch c && s.filling (dieOfTile t * 256 + (c.a.extractLsb' 24 8).toNat)

/-- Thread queues feed the sequencer-source queue round-robin while it has room. -/
def mtxFeed (tile : Nat) : Nat → State → State
  | 0, s => s
  | n + 1, s =>
      if 2 ≤ (s.tile tile).mtxSeq.length then s
      else
        match nextServed s tile (s.tile tile).mtxLast 2 with
        | none => s
        | some th =>
            match (s.thread th).queue 2 with
            | [] => s
            | c :: rest =>
                mtxFeed tile n (((s.modThread th (·.setQueue 2 rest))).modTile tile fun x =>
                  { x with mtxSeq := x.mtxSeq ++ [c], mtxLast := numOfThread th })

/-- The head taken: from a source, when its unit accepts it. -/
def State.mtxTake (s : State) (t : Nat) (seq : Bool) : Option (EngCmd × Tile) :=
  let x := s.tile t
  match (if seq then x.mtxSeq else x.mtxNode) with
  | [] => none
  | c :: rest =>
      if x.mtxAccepts c && !s.fetchWaits t c then
        some (c, if seq then { x with mtxSeq := rest, mtxSeqNext := false } else { x with mtxNode := rest, mtxSeqNext := true })
      else none

/-- MATRIX_ENGINE_TAKE (R178, R179). -/
def execMatrixEngineTake (tile : Nat) (s : State) : Out :=
  if s.stopped tile || isMemTile tile then ok s
  else
    let s := mtxFeed tile 2 s
    let next := (s.tile tile).mtxSeqNext
    match (match s.mtxTake tile next with
      | some y => some y
      | none => s.mtxTake tile (!next)) with
    | none => ok s
    | some (c, x) =>
        let r := runMatrix c tile (s.setTile tile x)
        ok (mtxFeed tile 2 (r.1.modTile tile fun x => { x with mtxRun := x.mtxRun ++ [r.2] }))

/-- A node's result payload: C, ADDR, or the destination, in its low 32 bits (R196). -/
def mtxPayload (c : EngCmd) : Nat :=
  match c.op with
  | .mout _ => (c.d.extractLsb' 0 24).toNat
  | _ => c.d.toNat

/-- MATRIX_OPERATION_COMPLETE (R181, R186, R188). -/
def execMatrixOperationComplete (tile k : Nat) (s : State) : Out :=
  match (s.tile tile).mtxRun[k]? with
  | none => ok s
  | some c =>
      if s.stopped tile then ok s
      else
        let s := s.modTile tile fun x => { x with mtxRun := x.mtxRun.eraseIdx k }
        match c.th with
        | some th => ok (s.modThread th fun t => (t.raise (BitVec.ofNat 6 (c.aux.headD 0).toNat)).complete 2 (BitVec.ofNat 64 c.num))
        | none =>
            let s := s.emit c.fir c.fir.tag [narrow (mtxPayload c) (c.aux.getD 1 0 != 0)]
            match (c.aux.getD 2 0).toNat with
            | 0 => ok s
            | code => ok (s.nodeTrap c.fir code)

/-! ## Carrier A (R185, R190-R195) -/

/-- A class-6 command of a thread: the checks precede the hold by a full queue. -/
def issueMatrix (i : Instr) (o : AR) (s : State) : Out :=
  let sh := s.shape (s.myTask.getD 0) s.myTile (o.f.extractLsb' 0 3).toNat
  let d := s.greg o.d
  let a := s.greg o.a
  let b := s.greg o.b
  if isMemTile s.myTile then ok (s.trap cIllegalOp s.cur.word)
  else
    match mtxError i sh d a b with
    | some w => ok (s.trap cIllegalDesc w)
    | none => if s.me.queueFull 2 then ok s.hold else ok ((s.enqueue 2 i d a b sh []).fresh.advance)

/-- MSHAPE (R190). -/
def execMshape (o : AR) (s : State) : Out :=
  if isMemTile s.myTile then ok (s.trap cIllegalOp s.cur.word)
  else if !shapeValid (s.greg o.a) then ok (s.trap cIllegalDesc (s.greg o.a))
  else ok ((s.setShape (s.myTask.getD 0) s.myTile (o.f.extractLsb' 0 3).toNat (s.greg o.a ||| shapeVALID)).advance)

/-- MMA (R191). -/
def execMma (o : AR) (s : State) : Out := issueMatrix (.mma o) o s

/-- MMAZ (R191). -/
def execMmaz (o : AR) (s : State) : Out := issueMatrix (.mmaz o) o s

/-- MMAS (R191). -/
def execMmas (o : AR) (s : State) : Out := issueMatrix (.mmas o) o s

/-- MMAX (R191). -/
def execMmax (o : AR) (s : State) : Out := issueMatrix (.mmax o) o s

/-- MZERO (R192). -/
def execMzero (o : AR) (s : State) : Out := issueMatrix (.mzero o) o s

/-- MOUT (R193). -/
def execMout (o : AR) (s : State) : Out := issueMatrix (.mout o) o s

/-- MTRN (R194). -/
def execMtrn (o : AR) (s : State) : Out := issueMatrix (.mtrn o) o s

/-- MFETCH (R195). -/
def execMfetch (o : AR) (s : State) : Out := issueMatrix (.mfetch o) o s

/-! ## Carrier N (R188, R196) -/

/-- A port's word with its upper half. -/
def portWord (ws : List TWord) : Word :=
  match ws with
  | x :: _ => if x.wide then x.w else x.w &&& 0xFFFFFFFF
  | [] => 0

/-- Operand words of a node operation: d, a, b and the first whose bits above its layout are not zero (R196). -/
structure MtxOps where
  d : Word
  a : Word
  b : Word
  excess : Option Word
  deriving DecidableEq, Repr, Inhabited

/-- The word of the literal in [31:8]: C or the destination. -/
def litAddr (n : NRec) : Word := (n.lit32.extractLsb' 8 24).setWidth 64

/-- A word above n bits. -/
def overWord (w : Word) (n : Nat) : Option Word := if w.toNat < 2 ^ n then none else some w

def mtxNodeOps (i : Instr) (f : Firing) : MtxOps :=
  let n := f.node.r
  let l := portWord f.l
  let r := portWord f.r
  match i with
  | .mzero _ => { d := litAddr n, a := 0, b := 0, excess := none }
  | .mout _ =>
      let d := (l &&& 0xFFFFFFFF) ||| BitVec.ofNat 64 (n.etype.code.toNat * 2 ^ 32 + (n.rnd.extractLsb' 1 2).toNat * 2 ^ 36 +
        (if n.rnd.getLsbD 0 then 2 ^ 38 else 0))
      { d := d, a := litAddr n, b := r, excess := (overWord l 32).or (overWord r 32) }
  | .mtrn _ => { d := r, a := l, b := 0, excess := (overWord l 24).or (overWord r 24) }
  | .mfetch _ =>
      { d := litAddr n, a := l, b := r ||| BitVec.ofNat 64 ((n.lit32.extractLsb' 0 8).toNat * 2 ^ 32),
        excess := (overWord l 32).or (overWord r 19) }
  | _ => { d := litAddr n, a := l, b := r, excess := (overWord l 24).or (overWord r 24) }

/-- A scalar with a record and P, without an access (R188). Where no address offends but a word (the shape entry, an operand word),
bytes 48-55 hold that word (log 111; DESIGN CHOICE: the rule names an address alone). -/
def mtxNodeBad (f : Firing) (code : Nat) (addr : Word) (payload : Nat) (s : State) : State :=
  (s.fireRecord f code addr).emit f f.tag [narrow payload true]

/-- One scalar of a class-6 node: null and poisoned operands, the checks, then the node-source queue. An operand word too long for
its layout is reported before a bad shape entry or payload (log 111; DESIGN CHOICE: the rule gives no order). -/
def mtxScalar (i : Instr) (s : State) (f : Firing) : State :=
  let t := tileOfPe f.pe
  let n := f.node.r
  let x := mtxNodeOps i f
  let sh := s.shape f.task t (n.lit32.extractLsb' 0 3).toNat
  let c : EngCmd :=
    { th := none, num := 0, op := i, d := x.d, a := x.a, b := x.b, shape := sh,
      exc := BitVec.ofNat 64 (s.taskModes f.task + if s.taskFtz f.task then 2 ^ 12 else 0), pc := 0, aux := [],
      task := f.task, fir := f, id := s.nextId }
  if f.nul then s.emit f f.tag f.nulls
  else if f.anyP then s.emit f f.tag [narrow (mtxPayload c) true]
  else
    match x.excess, mtxError i sh x.d x.a x.b with
    | some w, _ => mtxNodeBad f cAccessFault w (mtxPayload c) s
    | none, some w => mtxNodeBad f cIllegalDesc w (mtxPayload c) s
    | none, none => (s.modTile t fun y => { y with mtxNode := y.mtxNode ++ [c] }).fresh

/-- A class-6 node fires into the node-source queue (R179, R196). -/
def fireMatrix (i : Instr) (s : State) : Out :=
  fireQueued 2 (fun x => (x.tile (tileOfPe s.cur.fir.pe)).mtxNode.length) (mtxScalar i) s

/-- The command a node's operation stands for: the record's f field carries MOUT's clr. -/
def nodeAR (f : Firing) : AR := { d := 0, a := 0, b := 0, f := (f.node.r.lit32.extractLsb' 0 4).setWidth 6 }

/-- The shape word of a node MSHAPE (R196). -/
def nodeShape (f : Firing) : Word :=
  match f.l with
  | x :: _ =>
      if x.wide then x.w
      else (x.w &&& 0xFFFFFFFF) ||| BitVec.ofNat 64 ((f.node.r.lit32.extractLsb' 20 12).toNat * 2 ^ 32)
  | [] => 0

/-- One scalar of MSHAPE on a node. -/
def mshapeScalar (s : State) (f : Firing) : State :=
  let t := tileOfPe f.pe
  let n := (f.node.r.lit32.extractLsb' 0 3).toNat
  let w := nodeShape f
  if f.nul then s.emit f f.tag f.nulls
  else if f.anyP then s.emit f f.tag [narrow n true]
  else if shapeValid w then (s.setShape f.task t n (w ||| shapeVALID)).emit f f.tag [narrow n false]
  else mtxNodeBad f cIllegalDesc w n (s.setShape f.task t n (s.shape f.task t n &&& ~~~ shapeVALID))

/-- MSHAPE on a node (R196). -/
def execMshapeNode (s : State) : Out :=
  let f := s.cur.fir
  if f.eos then ok ((s.beginFire.traceFire f f.tag f.l).passE f)
  else ok ((s.scalars f).foldl mshapeScalar (s.beginFire.traceFire f f.tag f.l))

/-- MMA on a node (R196). -/
def execMmaNode (s : State) : Out := fireMatrix (.mma (nodeAR s.cur.fir)) s

/-- MMAZ on a node (R196). -/
def execMmazNode (s : State) : Out := fireMatrix (.mmaz (nodeAR s.cur.fir)) s

/-- MMAS on a node (R196). -/
def execMmasNode (s : State) : Out := fireMatrix (.mmas (nodeAR s.cur.fir)) s

/-- MMAX on a node (R196). -/
def execMmaxNode (s : State) : Out := fireMatrix (.mmax (nodeAR s.cur.fir)) s

/-- MZERO on a node (R196). -/
def execMzeroNode (s : State) : Out := fireMatrix (.mzero (nodeAR s.cur.fir)) s

/-- MOUT on a node (R196). -/
def execMoutNode (s : State) : Out := fireMatrix (.mout (nodeAR s.cur.fir)) s

/-- MTRN on a node (R196). -/
def execMtrnNode (s : State) : Out := fireMatrix (.mtrn (nodeAR s.cur.fir)) s

/-- MFETCH on a node (R196). -/
def execMfetchNode (s : State) : Out := fireMatrix (.mfetch (nodeAR s.cur.fir)) s

end Sys2Proof.Machine
end

