-- ==== Sys2Proof/Machine/Dispatcher.lean ====
section
/-! DEFINITION. The dispatcher's data: task records and slots, queues, decrements, done signals, stopping and failing a
task, instances, journal entries (13_task_class.md R360-R369, R379-R382; 15_system_class.md R454, R455). -/

namespace Sys2Proof.Machine

/-! ## Records as bytes (R361, R362) -/

/-- The words of bytes, 8 each. -/
def wordsOfBytes (bs : List Byte) (n : Nat) : List Word :=
  (List.range n).map fun i => BitVec.ofNat 64 (bytesToNat ((bs.drop (8 * i)).take 8))

def recOfBytes (bs : List Byte) : TaskRec :=
  let at_ (i n : Nat) : Nat := bytesToNat ((bs.drop i).take n)
  { hdr := BitVec.ofNat 64 (at_ 0 8), succ := (List.range 8).map fun j => BitVec.ofNat 24 (at_ (8 + 3 * j) 3),
    opd := (List.range 4).map fun j => BitVec.ofNat 32 (at_ (32 + 4 * j) 4), arg0 := BitVec.ofNat 64 (at_ 48 8),
    arg1 := BitVec.ofNat 64 (at_ 56 8) }

def TaskRec.bytes (r : TaskRec) : List Byte :=
  natToBytes 8 r.hdr.toNat ++ r.succ.flatMap (fun x => natToBytes 3 x.toNat) ++ r.opd.flatMap (fun x => natToBytes 4 x.toNat) ++
    natToBytes 8 r.arg0.toNat ++ natToBytes 8 r.arg1.toNat

/-- The region leaves the grid (R361). -/
def TaskRec.offGrid (r : TaskRec) : Bool := decide (15 < r.ax + r.rw) || decide (15 < r.ay + r.rh)

def taskKey (die idx : Nat) : Nat := die * 262144 + idx

def State.slot? (s : State) (die idx : Nat) : Option TaskSlot := mapFind? (s.die die).tasks idx

def State.putSlot (s : State) (die idx : Nat) (x : TaskSlot) : State :=
  s.modDie die fun d => { d with tasks := mapPut idx x d.tasks }

def State.modRec (s : State) (k : Nat) (f : TaskRec → TaskRec) : State :=
  match s.record? k with
  | some r => s.putSlot (dieOfTask k) (idxOfTask k) (.record (f r))
  | none => s

def State.setTaskState (s : State) (k st : Nat) : State := s.modRec k fun r => { r with hdr := setField r.hdr 12 3 st }
def State.setTaskCount (s : State) (k n : Nat) : State := s.modRec k fun r => { r with hdr := setField r.hdr 34 16 n }

/-- The lowest index of n contiguous free slots; index 0 is never allotted (R360). -/
def State.freeSlots (s : State) (die n : Nat) : Option Nat :=
  let used := (s.die die).tasks.filter fun x => match x.2 with
    | .record r => r.state != 0
    | .cont _ => true
  go used 262144 1 0
where
  /-- Scan upward with the length of the free run so far. -/
  go (used : SMap TaskSlot) : Nat → Nat → Nat → Option Nat
    | 0, _, _ => none
    | fuel + 1, i, run =>
        if run = n then some (i - n)
        else if 262144 ≤ i then none
        else
          match used with
          | [] => if i - run + n ≤ 262144 then some (i - run) else none
          | (k, _) :: rest =>
              if k < i then go rest fuel i run
              else if i - run + n ≤ k then some (i - run)
              else go rest fuel (k + 1) 0

/-! ## Records the dispatcher writes (R365) -/

def State.dispRecord (s : State) (k code : Nat) (op0 addr : Word) (flags : Nat) : State :=
  let die := dieOfTask k
  let tb := match s.record? k with
    | some r => r.ax * 16 + r.ay
    | none => 0
  s.record { code := code, die := die, io := false, tileByte := tb, unit := 0xFE, flags := flags, node := 0, tag := 0,
             task := s.instanceId k, cycle := (s.die die).cycle, op0 := op0, op1 := 0, addr := addr }

/-! ## Journal entries (R454, R455) -/

/-- Offset of entry i in the journal area. -/
def journalEntryOff (i : Nat) : Nat := 0xFFF000000 + 4096 + 128 * (i % 65536)

/-- A write to a module's journal on die 0 and its mirror on die 8. -/
def State.journalWrite (s : State) (m off : Nat) (bs : List Byte) : State :=
  (s.writeBytes (m * 16 * 2 ^ 40 + off) bs).writeBytes ((m * 16 + 8) * 2 ^ 40 + off) bs

/-- The leading entries that have finished. -/
def doneGo (es : SMap JEntry) : Nat → Nat → Nat
  | 0, d => d
  | n + 1, d =>
      match mapFind? es d with
      | some e => if 4 ≤ e.state then doneGo es n (d + 1) else d
      | none => d

/-- An entry changes its state. -/
def State.journalState (s : State) (m seq st : Nat) (status : Nat) (result : Option Nat) : State :=
  let x := mapGet Module.reset s.modules m
  match mapFind? x.entries seq with
  | none => s
  | some e =>
      let off := journalEntryOff seq
      let s := s.journalWrite m (off + 8) [BitVec.ofNat 8 st]
      let s := s.journalWrite m (off + 12) (natToBytes 4 (status % 2 ^ 32))
      let s := match result with
        | some v => s.journalWrite m (off + 16) (natToBytes 8 v)
        | none => s
      let es := mapPut seq { e with state := st } x.entries
      let d := doneGo es es.length x.done
      let s := if d = x.done then s else s.journalWrite m (0xFFF000000 + 16) (natToBytes 8 d)
      { s with modules := mapPut m { x with entries := es.filter fun y => decide (d ≤ y.1), done := d } s.modules }

/-! ## Instances (R368, R382) -/

def State.inst? (s : State) (die h : Nat) : Option Inst := mapFind? (s.die die).insts h

def State.modInst (s : State) (die h : Nat) (f : Inst → Inst) : State :=
  match s.inst? die h with
  | none => s
  | some x => s.modDie die fun d => { d with insts := mapPut h (f x) d.insts }

/-- The indices a record takes. -/
def recSlots (idx : Nat) (r : TaskRec) : List Nat := (List.range (r.ncont + 1)).map fun i => idx + i

/-- The slots of an instance's records. -/
def State.instSlots (s : State) (die h : Nat) : List Nat :=
  (s.die die).tasks.flatMap fun x => match x.2 with
    | .record r => if r.inst = h then recSlots x.1 r else []
    | .cont _ => []

/-- A freed record keeps its instance's number, by which decrements that still come are judged (R369, R393). -/
def TaskRec.freed (r : TaskRec) : TaskRec :=
  { hdr := setField 0 54 10 r.inst, succ := [], opd := [], arg0 := 0, arg1 := 0 }

/-- Free the slots and the run of a record of an instance that is ending (R393). -/
def State.freeRecord (s : State) (k : Nat) (r : TaskRec) : State :=
  let gone := recSlots (idxOfTask k) r
  s.modDie (dieOfTask k) fun d =>
    { d with tasks := mapPut (idxOfTask k) (.record r.freed) (d.tasks.filter fun x => !gone.contains x.1),
             runs := mapDel (idxOfTask k) d.runs }

/-- The key of a graph-level stream: of an instance of a die, or one that the loader knows through the pod (R29, R383). -/
def graphKey (pod : Bool) (die inst name : Nat) : Nat :=
  if pod then 2 * name + 1 else 2 * ((name * 1024 + inst) * 16384 + die)

/-- A key belongs to an instance of a die. -/
def graphKeyOf (die inst key : Nat) : Bool := key % 2 == 0 && key / 2 % 16384 == die && key / 2 / 16384 % 1024 == inst

/-- An instance whose live count is zero ends (R382). -/
def State.settleInst (s : State) (die h : Nat) : State :=
  match s.inst? die h with
  | none => s
  | some x =>
      if x.live ≠ 0 then s
      else
        let gone := s.instSlots die h
        let s := s.modDie die fun d =>
          { d with tasks := d.tasks.filter fun y => !gone.contains y.1, runs := d.runs.filter fun y => !gone.contains y.1,
                   insts := mapDel h d.insts, gone := d.gone.filter fun g => !graphKeyOf die h g }
        match x.journal with
        | some (m, seq) => s.journalState m seq (if x.failed then 5 else 4) (if x.failed then x.status.toNat else 0) none
        | none => s

/-- n records of an instance are DONE, FAILED or freed. -/
def State.instDrop (s : State) (die h n : Nat) : State := (s.modInst die h fun x => { x with live := x.live - n }).settleInst die h

/-! ## Queues (R364, R371) -/

/-- The current type entry of a record. -/
def State.typeEntry (s : State) (die ty : Nat) : List Word := mapGet [] (s.die die).types ty

/-- A record joins a queue: behind those that came in earlier cycles, and in ascending index among those of its cycle (R371, R372). -/
def Die.joinQueue (d : Die) (q : List Nat) (idx : Nat) : List Nat :=
  let later (i : Nat) : Bool := ((mapFind? d.runs i).map (·.since)) == some d.cycle && decide (idx < i)
  let back := q.reverse.takeWhile later
  (q.reverse.drop back.length).reverse ++ [idx] ++ back.reverse

def Die.enqueuePending (d : Die) (prio idx : Nat) : Die := { d with pending := mapPut prio (d.joinQueue (mapGet [] d.pending prio) idx) d.pending }
def Die.enqueueReady (d : Die) (prio idx : Nat) : Die := { d with ready := mapPut prio (d.joinQueue (mapGet [] d.ready prio) idx) d.ready }

/-- An index leaves both queues, and what R375 counts for the head it may have been; a window that is its alone stays so. -/
def Die.unqueue (d : Die) (idx : Nat) : Die :=
  { d with pending := d.pending.map fun x => (x.1, x.2.filter fun i => i != idx),
           ready := d.ready.map fun x => (x.1, x.2.filter fun i => i != idx),
           heldNow := d.heldNow.filter fun i => i != idx, heldWin := mapDel idx d.heldWin,
           exq := d.exq.map fun x => (x.1, x.2.filter fun i => i != idx) }

/-- A record becomes PENDING: the type entry as it stands now is the one it uses (R371, R396), with its instance's ASID and
partition. -/
def State.makePending (s : State) (k : Nat) : State :=
  match s.record? k with
  | none => s
  | some r =>
      let die := dieOfTask k
      let e := s.typeEntry die r.ttype
      let i := s.inst? die r.inst
      let run : TaskRun :=
        { type := e, asid := (i.map (·.asid)).getD 0, plist := (i.map (·.plist)).getD 0,
          since := (s.die die).cycle, ctx := 0, tiles := [], prefetch := [],
          prefParked := [], returned := 0, stopping := false, failed := none, saving := false, replaying := false,
          fabric := Config.fabric s.tick die r.ttype }
      (s.setTaskState k 2).modDie die fun d =>
        { d.enqueuePending (typePrio e) (idxOfTask k) with runs := mapPut (idxOfTask k) run d.runs }

/-! ## Decrements (R369) -/

/-- A decrement leaves for a die. -/
def State.sendDecrement (s : State) (from_ die idx amount : Nat) : State := s.send clsCtl from_ die (.decrement idx amount)

/-- A decrement is applied at its dispatcher. -/
def State.applyDecrement (s : State) (die idx a : Nat) : State :=
  let k := taskKey die idx
  match s.slot? die idx with
  | none | some (.cont _) => s.dispRecord k cTaskCount (BitVec.ofNat 64 a) 0 0
  | some (.record r) =>
      if r.state = 1 ∧ a ≤ r.count then
        let s := s.setTaskCount k (r.count - a)
        if r.count = a then s.makePending k else s
      else if ((s.inst? die r.inst).map (·.ending)).getD false then s
      else s.dispRecord k cTaskCount (BitVec.ofNat 64 (a + r.count * 2 ^ 32)) 0 0

/-- A successor entry in continuation form: index, die in its module, STREAM, module. -/
structure Succ where
  idx : Nat
  die : Nat
  stream : Bool
  module : Nat
  deriving DecidableEq, Repr, Inhabited

def succOfWord (w : Word) : Succ :=
  { idx := (w.extractLsb' 0 18).toNat, die := (w.extractLsb' 18 4).toNat, stream := w.getLsbD 22, module := (w.extractLsb' 24 10).toNat }

/-- The continuation words of a record, in order. -/
def State.contWords (s : State) (k : Nat) (r : TaskRec) : List Word :=
  (List.range r.ncont).flatMap fun i => match s.slot? (dieOfTask k) (idxOfTask k + 1 + i) with
    | some (.cont ws) => ws
    | _ => []

/-- The successors of a record (R362). -/
def State.successors (s : State) (k : Nat) (r : TaskRec) : List Succ :=
  let m := moduleOfDie (dieOfTask k)
  ((r.succ.take r.nsucc).map fun x => { succOfWord (x.setWidth 64) with module := m }) ++
    ((s.contWords k r).takeWhile fun w => w.getLsbD 23).map succOfWord

/-! ## Stopping a task (R380 step 1, R381) -/

/-- Free every context of a task on a tile (R216); tokens still on their way are discarded without a record. -/
def State.freeCtxs (s : State) (k t : Nat) : State :=
  (s.ctxHeld k t).foldl (fun s c => (s.releaseCtx t c).modTile t fun x => { x with ctxRec := x.ctxRec ++ [c] }) s

/-- What a PE keeps of other tasks. -/
def Pe.without (p : Pe) (k : Nat) (ctxs : List Nat) : Pe :=
  { p with ready := p.ready.filter fun f => f.task != k, passing := p.passing.filter fun f => f.task != k, deep := p.deep.filter fun d => d.task != k,
           entries := p.entries.filter fun e => e.task != k, packers := p.packers.filter fun q => !ctxs.contains (ctxOf q.tok.tag) }

/-- Nothing of the task fires on a tile any more. What has fired goes on: its requests, its wave operations, its engine commands
(R278, R380). -/
def State.stopOnTile (k : Nat) (s : State) (t : Nat) : State :=
  let ctxs := s.ctxHeld k t
  (List.range 16).foldl (fun s e => s.modPe (16 * t + e) fun p => p.without k ctxs) s

/-- The first step of completion or failure: threads stop, contexts close. -/
def State.stopTask (s : State) (k : Nat) : State :=
  let s := s.modRun k fun r => { r with stopping := true }
  let halt (t : Thread) : Thread := if t.task = some k then { t.stop with deferred := [], taken := [], preempt := false } else t
  let s : State := { s with threads := s.threads.map fun (x : Nat × Thread) => (x.1, halt x.2) }
  (s.region k).foldl (State.stopOnTile k) s

/-- A task fails with a status (R381). -/
def State.failTask (s : State) (k : Nat) (status : Word) : State :=
  match s.run? k with
  | none => s
  | some r => if r.stopping then s else (s.modRun k fun r => { r with failed := some status.toNat }).stopTask k

/-- A tile signals done (R379): its first signal counts. -/
def State.signalDone (s : State) (k t : Nat) : State :=
  match s.run? k, s.record? k with
  | some run, some r =>
      if run.stopping || (s.taskTile k t).done || r.state != 5 then s
      else
        let s := (s.modTaskTile k t fun x => { x with done := true }).setTaskCount k (r.count - 1)
        if r.count ≤ 1 then s.stopTask k else s
  | _, _ => s

/-! ## Doorbells and proposals leave (R413, R449) -/

/-- An entry of the die's doorbell ring. -/
def State.ringDoorbell (s : State) (die bell : Nat) (v who : Word) : State :=
  match (s.die die).doorbell with
  | none => s
  | some x =>
      let base := die * 2 ^ 40 + x.base
      let tail := s.readNat base 8
      (s.writeBytes (base + 64 + 16 * (tail % 1024))
        (natToBytes 8 v.toNat ++ natToBytes 6 (who.toNat % 2 ^ 48) ++ [BitVec.ofNat 8 bell, 0])).writeNat base 8 (tail + 1)

/-- The die's doorbell interrupt source at the host complex: asserted while TAIL differs from HEAD (R449). -/
def State.doorbellSource (s : State) (die : Nat) : Bool :=
  match (s.die die).doorbell with
  | none => false
  | some x => s.readNat (die * 2 ^ 40 + x.base) 8 != s.readNat (die * 2 ^ 40 + x.base + 8) 8

def pkProposal : Nat := 4

/-- The proposal goes to every replica. -/
def State.sendProposal (s : State) (die : Nat) (delta : List Byte) : State :=
  let d := s.die die
  match d.btTxn with
  | none => s
  | some x =>
      let s := s.modDie die fun d =>
        { d with btTxn := some { x with phase := 1, start := d.cycle, waits := List.range d.btset.length } }
      (d.btset.zip (List.range d.btset.length)).foldl (fun s r =>
        s.send clsCtl die r.1 (.data pkProposal ([die, r.2, x.iter] ++ delta.map (·.toNat)))) s

end Sys2Proof.Machine
end

