-- ==== Sys2Proof/Machine/Scopes.lean ====
section
/-! DEFINITION. Scopes as sets of tiles, DRAM and cache banks, snapshots, and what a release waits for
(11_scope_class.md R305-R310, R318, R324). -/

namespace Sys2Proof.Machine

def moduleOfTile (t : Nat) : Nat := moduleOfDie (dieOfTile t)

def State.module (s : State) (m : Nat) : Module := mapGet Module.reset s.modules m
def State.modModule (s : State) (m : Nat) (f : Module → Module) : State := { s with modules := mapPut m (f (s.module m)) s.modules }
def State.io (s : State) (i : Nat) : Io := mapGet Io.reset s.ios i
def State.modIo (s : State) (i : Nat) (f : Io → Io) : State := { s with ios := mapPut i (f (s.io i)) s.ios }

/-- The modules of a list of a module's journal (R309). -/
def State.plist? (s : State) (m id : Nat) : Option (List Nat) := mapFind? (s.module m).plists id

/-- The modules of a task's partition: that of its instance, or its module alone (R306, R457). -/
def State.partition (s : State) (k : Nat) : List Nat :=
  let m := moduleOfDie (dieOfTask k)
  match s.run? k with
  | some r => if r.plist = 0 then [m] else (s.plist? m r.plist).getD [m]
  | none => [m]

/-! ## Images of programmable entries (R308) -/

def imageDies (img : List Byte) : Nat := bytesToNat (img.take 2)
def imageDram (img : List Byte) : Nat := bytesToNat ((img.drop 2).take 2)
def imageBanks (img : List Byte) : Nat := bytesToNat ((img.drop 4).take 2)
def imagePlist (img : List Byte) : Nat := bytesToNat ((img.drop 6).take 1)

/-- The dies a DIEMASK lists, ascending. -/
def maskDies (mask : Nat) : List Nat := (List.range 16).filter mask.testBit

/-- Bytes of an image with a DIEMASK. -/
def imageLen (mask : Nat) : Nat := 16 + 32 * (maskDies mask).length

/-- A tile is set in the tile mask of its die. -/
def imageTile (img : List Byte) (die idx : Nat) : Bool :=
  match ((maskDies (imageDies img)).zip (List.range 16)).find? fun x => x.1 == die with
  | some x => (bytesToNat ((img.drop (16 + 32 * x.2)).take 32)).testBit idx
  | none => false

/-! ## Sets (R306, R309) -/

/-- Tile u is a member of a scope as seen from tile t. -/
def ScopeSnap.hasTile (x : ScopeSnap) (t u : Nat) : Bool :=
  let sameMod := moduleOfTile t == moduleOfTile u
  match x.idx with
  | 0 | 1 => t == u
  | 2 => t == u || ((adjacent t).contains u && isMemTile t != isMemTile u)
  | 3 => dieOfTile t == dieOfTile u && clusterOf t == clusterOf u
  | 4 => dieOfTile t == dieOfTile u
  | 5 | 6 | 9 => sameMod
  | 7 => x.mods.contains (moduleOfTile u)
  | 8 | 10 => true
  | _ => (sameMod && imageTile x.image (dieOfTile u % 16) (tileIdx u)) || x.mods.contains (moduleOfTile u)

/-- A die's DRAM is a region of the scope. -/
def ScopeSnap.hasDram (x : ScopeSnap) (t die : Nat) : Bool :=
  let sameMod := moduleOfTile t == moduleOfDie die
  match x.idx with
  | 0 | 1 | 2 | 3 => false
  | 4 => dieOfTile t == die
  | 5 | 6 | 9 => sameMod
  | 7 => x.mods.contains (moduleOfDie die)
  | 8 | 10 => true
  | _ => (sameMod && (imageDram x.image).testBit (die % 16)) || x.mods.contains (moduleOfDie die)

/-- The cache bank at tile u belongs to the scope. -/
def ScopeSnap.hasBank (x : ScopeSnap) (t u : Nat) : Bool :=
  match x.idx with
  | 0 | 1 => false
  | n =>
      x.hasTile t u ||
        (decide (11 ≤ n) && moduleOfTile t == moduleOfTile u && (imageDies x.image).testBit (dieOfTile u % 16) &&
          (imageBanks x.image).testBit (clusterOf u))

/-- A region of R249 lies in the scope. -/
def ScopeSnap.hasRegion (x : ScopeSnap) (t : Nat) (r : Nat × Nat) : Bool :=
  match r with
  | (0, u) => x.hasTile t u
  | (_, b) => x.hasDram t (b / 256)

/-- A physical address lies in the scope; an accelerator's memory in SYSTEM alone. -/
def State.scopeHas (s : State) (x : ScopeSnap) (t pa : Nat) : Bool :=
  if s.isPeer (dieOfTile t) pa then x.idx == 10 else x.hasRegion t (regionOf false 0 pa)

/-! ## Snapshots (R310, R313) -/

def ScopeEntry.none : ScopeEntry := { live := false, gen := 0, updating := false, image := [], mods := [] }

def State.scopeEntry (s : State) (k t j : Nat) : ScopeEntry := mapGet ScopeEntry.none (s.taskTile k t).scopes j

/-- The snapshot of a scope index; none for a dead entry. -/
def State.snapScope (s : State) (k t idx : Nat) : Option ScopeSnap :=
  if idx < 11 then some { idx := idx, image := [], mods := if idx = 7 then s.partition k else [] }
  else
    let e := s.scopeEntry k t idx
    if e.live then some { idx := idx, image := e.image, mods := e.mods } else none

/-- New operations that name an entry wait while it is marked (R311). -/
def State.scopeHolds (s : State) (k t idx : Nat) : Bool := decide (11 ≤ idx) && (s.scopeEntry k t idx).updating

/-! ## Release and acquire (R318, R324) -/

/-- ORDER has release, has acquire (R55). -/
def relOrder (o : Nat) : Bool := o / 2 % 2 == 1
def acqOrder (o : Nat) : Bool := o % 2 == 1

/-- An unperformed request targets a region of a scope; an address that does not translate counts. -/
def State.reqIn (s : State) (x : ScopeSnap) (r : Req) : Bool :=
  match s.reqPa r with
  | some pa => if r.pool then x.hasTile r.tile r.tile else x.hasRegion r.tile (regionOf false r.tile pa)
  | none => if r.pool then x.hasTile r.tile r.tile else true

/-- The requests that a release or acquire of the thread waits for: its accesses to regions of the scope, and for an
acquire its loads. -/
def State.threadBefore (s : State) (th order : Nat) (x : ScopeSnap) : List Nat :=
  (s.reqs.filter fun r =>
    r.thread? == some th && r.unperformed && ((relOrder order && s.reqIn x r) || (acqOrder order && r.op.reads))).map (·.id)

/-- An arrival at a barrier: a node's release set does not hold it (R322, R324; log 106). -/
def ReqOp.arrival : ReqOp → Bool
  | .bar _ _ => true
  | _ => false

/-- The same for the nodes of a context on a tile: stores, atomics, structure writes, and loads for an acquire. -/
def State.nodesBefore (s : State) (f : Firing) (order : Nat) (x : ScopeSnap) : List Nat :=
  (s.reqs.filter fun r =>
    (match r.who with
      | .node g _ => tileOfPe g.pe == tileOfPe f.pe && ctxOf g.tag == ctxOf f.tag
      | _ => false) && r.unperformed &&
      ((relOrder order && r.op.changes && !r.op.arrival && s.reqIn x r) || (acqOrder order && r.op.reads))).map (·.id)

/-- Where an engine command writes: a matrix operation the pool or the accumulators of its tile. -/
def cmdDests (s : State) (t : Nat) (c : EngCmd) : List (Loc × Nat) :=
  match c.op with
  | .copy o => [(⟨bitOf o 1, t, c.d.toNat⟩, c.b.toNat)]
  | .mcast _ => ((mcastTiles t c.d).filter fun u => !isMemTile u).map fun u => (⟨true, u, 0⟩, c.b.toNat)
  | .copy2d o =>
      (List.range (c.b.extractLsb' 24 16).toNat).map fun (r : Nat) =>
        (⟨bitOf o 1, t, vaAdd c.d.toNat (asSigned 32 ((c.aux.headD 0).extractLsb' 32 32).toNat * r)⟩, (c.b.extractLsb' 0 24).toNat)
  | .scatter o =>
      let w := if bitOf o 0 then 8 else 4
      let size : Nat := 2 ^ (c.b.extractLsb' 40 3).toNat
      (List.range (c.b.extractLsb' 24 16).toNat).map fun i =>
        (⟨false, t, vaAdd c.a.toNat (asSigned (8 * w) (s.poolLoad t ((c.b.extractLsb' 0 24).toNat + w * i) w) * size)⟩, size)
  | .mfetch _ => (mfetchTiles t (c.b.extractLsb' 32 8).toNat).map fun u => (⟨true, u, 0⟩, 1)
  | _ => [(⟨true, t, 0⟩, 1)]

/-- A command writes to a region of a scope; an address that does not translate counts. -/
def State.cmdIn (s : State) (x : ScopeSnap) (t : Nat) (c : EngCmd) : Bool :=
  (cmdDests s t c).any fun d =>
    d.2 != 0 && if d.1.pool then x.hasTile t d.1.tile
    else (pagePieces d.1.a d.2).any fun p =>
      match s.peekPa (dieOfTile t) (s.taskAsid c.task) (BitVec.ofNat 64 p.1) true with
      | some pa => s.scopeHas x t pa
      | none => true

/-- Engine commands of the nodes of a context on a tile that are not complete and write to a region of the scope. -/
def State.cmdsBefore (s : State) (f : Firing) (x : ScopeSnap) : List Nat :=
  let t := tileOfPe f.pe
  let y := s.tile t
  ((y.mtxNode ++ y.mtxRun ++ y.copyNode ++ y.gathNode ++ y.engRun.map (·.cmd) ++ y.engParked).filter fun c =>
    c.th.isNone && ctxOf c.fir.tag == ctxOf f.tag && s.cmdIn x t c).map (·.id)

/-- Drop every line of every cache bank of a scope (R318). -/
def State.dropBanks (s : State) (x : ScopeSnap) (t : Nat) : State :=
  { s with tiles := s.tiles.map fun (u, y) => (u, if x.hasBank t u then { y with cache := [] } else y) }

/-- A thread's fence is over: its acquire is performed (R328). -/
def State.settleFence (s : State) (th : Nat) : State :=
  let t := s.thread th
  if t.fence.isEmpty && t.acquire.isNone then s
  else if s.fenceHolds th then s
  else
    let s := match t.acquire with
      | some (x, true) => s.dropBanks x (tileOfThread th)
      | _ => s
    s.modThread th fun t => { t with fence := [], acquire := none }

/-- What follows a release: a fence node acquires and emits its word; a decrement leaves, a done signal is given and the
node emits 0; a proposal or a doorbell leaves. -/
def State.releaseOver (s : State) (t : Nat) (n : NodeFence) : State :=
  let sent (s : State) : State :=
    if n.th.isSome then s else s.emit n.fir n.fir.tag [{ w := 0, p := false, n := false, wide := false }]
  match n.act with
  | .pass => (if acqOrder n.fir.node.r.litOrder.toNat then s.dropBanks n.snap t else s).emit n.fir n.fir.tag n.fir.l
  | .decrement die idx amount => sent (s.sendDecrement (dieOfTile t) die idx amount)
  | .done => sent (s.signalDone n.fir.task t)
  | .proposal _ delta => s.sendProposal (dieOfTile t) delta
  | .doorbell bell v who => s.ringDoorbell (dieOfTile t) bell v who
  | .scoped _ | .order => s

/-- A fired wave operation is not yet performed: its wave still holds it, or its request does (R253). -/
def State.wavePending (s : State) (f : Firing) : Bool :=
  ((s.tile (tileOfPe f.pe)).waves.any fun w => w.waiting.contains f) ||
    s.reqs.any fun r => r.who == .node f true && r.unperformed

/-- The waiting FENCEs and WIDENs of a tile's nodes whose accesses are performed complete: the acquire, then the token
(R324, R332). -/
def State.settleNodes (s : State) (t : Nat) : State :=
  let y := s.tile t
  let cmds := (y.mtxNode ++ y.mtxRun ++ y.copyNode ++ y.gathNode ++ y.engRun.map (·.cmd) ++ y.engParked).map (·.id)
  let excess (n : NodeFence) : Bool :=
    !(n.cmds.any cmds.contains) && !(n.firs.any s.wavePending) && n.reqs.all fun id => match s.req? id with
      | some r => !r.unperformed
      | none => true
  let s := if y.fences.any excess then s.modTile t fun y => { y with fences := y.fences.filter fun n => !excess n } else s
  (y.fences.filter excess).foldl (fun s n => s.releaseOver t n) s

end Sys2Proof.Machine
end

