-- ==== Sys2Proof/Machine/Memory.lean ====
section
/-! DEFINITION. Local memory and structure instructions on both carriers, and what happens at the regions
(09_local_memory_class.md R249-R268). -/

namespace Sys2Proof.Machine

/-! ## Sequencer forms (R260-R262) -/

/-- disp of a class-8 immediate (R260). -/
def AI.disp (o : AI) : Word := (o.imm.sshiftRight 3).signExtend 64

/-- Access size in bytes. -/
def codeSize (c : Nat) : Nat := 2 ^ (c % 4)

/-- A loaded value extended (R260, R262). -/
def extendLoad (n : Nat) (sext : Bool) (v : Nat) : Word :=
  if sext then BitVec.ofNat 64 (wrapInt 64 (asSigned (8 * n) v)) else BitVec.ofNat 64 v

def State.effAddr (s : State) (o : AI) : Word := s.greg o.a + AI.disp o

/-- The ASID of the issuing thread's task. -/
def State.myAsid (s : State) : Nat := s.taskAsid (s.myTask.getD 0)

/-- The checks of R258 on a global address of n bytes. -/
def globalOk (va : Word) (n : Nat) : Bool := va.toNat % n == 0 && va.extractLsb' 56 8 == 0

/-- A line whose loads wait for a CFLUSH of the thread (R263). -/
def State.flushHolds (s : State) (va : Word) : Bool :=
  !s.me.flush.isEmpty && match s.peekPa s.myDie s.myAsid va false with
    | some pa => s.me.flush.any fun e => e.1 == pa / 128
    | none => false

/-- The word a read would find now is poisoned: it traps precisely (R429). What a cache bank serves is not read from its home. -/
def State.poisonAhead (s : State) (va : Word) (n : Nat) (struct : Bool) : Bool :=
  match s.peekPa s.myDie s.myAsid va false with
  | none => false
  | some pa =>
      let cached := !struct && match s.cacheRoute s.myTile pa with
        | some u => (s.cacheLine? u (pa / 128)).isSome
        | none => false
      !cached && (!struct || s.wordState pa == sFull) && s.poisoned pa n

/-- LD (R262). -/
def execLd (o : AI) (s : State) : Out :=
  let va := s.effAddr o
  let n := codeSize o.code
  if !globalOk va n then ok (s.trap cAccessFault va)
  else if s.flushHolds va then ok s.hold
  else if s.poisonAhead va n false then ok (s.trap cEccUncorr va)
  else
    let dest := s.me.preg o.d
    ok (s.watched s.myAsid 1 false va.toNat n fun s =>
      s.issueReq (s.threadReq (.load n (4 ≤ o.code)) va dest true) dest true)

/-- ST (R262). -/
def execSt (o : AI) (s : State) : Out :=
  let va := s.effAddr o
  let n := codeSize o.code
  if !globalOk va n then ok (s.trap cAccessFault va)
  else
    ok (s.watched s.myAsid 2 false va.toNat n fun s =>
      s.issueReq (s.threadReq (.store n (s.greg o.d)) va .none false) .none false)

/-- LDP (R262): its value is there before the thread's next owned cycle. -/
def execLdp (o : AI) (s : State) : Out :=
  let va := s.effAddr o
  let n := codeSize o.code
  if va.toNat % n ≠ 0 ∨ !poolOk s s.myTask s.myTile va.toNat n false then ok (s.trap cAccessFault va)
  else if s.filling s.myTile then ok s.hold
  else
    ok (s.watched s.myAsid 1 true va.toNat n fun s =>
      if s.poolPoisoned s.myTile va.toNat n then s.trap cEccUncorr va
      else s.result o.d (extendLoad n (4 ≤ o.code) (s.poolLoad s.myTile va.toNat n)))

/-- A pool store of an agent of a tile: it touches PLAIN words alone; whether it was performed (R256, R429). -/
def State.poolStore (s : State) (t a n v : Nat) : Bool × State :=
  let key := poolKey s t a
  if s.writable key n then (true, s.poolWriteNat t a n v) else (false, s)

/-- STP (R262). -/
def execStp (o : AI) (s : State) : Out :=
  let va := s.effAddr o
  let n := codeSize o.code
  if va.toNat % n ≠ 0 ∨ !poolOk s s.myTask s.myTile va.toNat n false then ok (s.trap cAccessFault va)
  else if s.filling s.myTile then ok s.hold
  else
    ok (s.watched s.myAsid 2 true va.toNat n fun s =>
      match s.poolStore s.myTile va.toNat n (s.greg o.d).toNat with
      | (true, s) => s.advance
      | (false, s) => (s.record { s.threadRecord s.cur.th cAccessFault s.cur.pc 0 false with addr := va }).advance)

/-- ISREAD (R264). -/
def execIsread (o : AR) (s : State) : Out :=
  let va := s.greg o.a
  if !globalOk va 8 then ok (s.trap cAccessFault va)
  else if s.poisonAhead va 8 true then ok (s.trap cEccUncorr va)
  else
    let dest := s.me.preg o.d
    ok (s.watched s.myAsid 1 false va.toNat 8 fun s => s.issueReq (s.threadReq .isread va dest true) dest true)

/-- ISWRITE (R264). -/
def execIswrite (o : AR) (s : State) : Out :=
  let va := s.greg o.a
  if !globalOk va 8 then ok (s.trap cAccessFault va)
  else
    ok (s.watched s.myAsid 2 false va.toNat 8 fun s =>
      s.issueReq (s.threadReq (.iswrite (s.greg o.b)) va .none false) .none false)

/-- ISCLR (R264): 1 to 4,096 words. -/
def execIsclr (o : AR) (s : State) : Out :=
  let va := s.greg o.a
  let n := s.greg o.b
  if !globalOk va 8 then ok (s.trap cAccessFault va)
  else if n = 0 ∨ 4096 < n.toNat then ok (s.trap cAccessFault n)
  else
    ok (s.watched s.myAsid 2 false va.toNat (8 * n.toNat) fun s =>
      s.issueReq (s.threadReq (.isclr n.toNat n.toNat) va .none false) .none false)

/-- PREF (R263): dropped where it finds no slot or its address fails a check. -/
def execPref (o : AI) (s : State) : Out :=
  let va := s.effAddr o
  let pa := s.peekPa s.myDie s.myAsid va false
  if va.extractLsb' 56 8 ≠ 0 ∨ !s.slotFree s.myTile ∨ !s.bankFree s.myTile pa then ok s.advance
  else
    let r := s.threadReq .pref va .none false
    ok ({ s with reqs := s.reqs ++ [r], nextId := s.nextId + 1 }).advance

/-- CFLUSH (R263): the line is removed once the thread's earlier stores to its region are performed, the parked ones among them;
until then its loads of the line do not issue. -/
def execCflush (o : AI) (s : State) : Out :=
  let va := s.effAddr o
  match (if va.extractLsb' 56 8 ≠ 0 then none else s.peekPa s.myDie s.myAsid va false) with
  | none => ok s.advance
  | some pa =>
      let mine := s.reqs.filter fun r => r.thread? == some s.cur.th && r.unperformed && r.op.changes && !r.op.barrier
      let s := s.modMe fun t => { t with flush := t.flush ++ [(pa / 128, mine.map (·.id))] }
      ok (s.settleFlush s.cur.th).advance

/-- CINV (R263). -/
def execCinv (o : AI) (s : State) : Out :=
  let va := s.effAddr o
  match (if va.extractLsb' 56 8 ≠ 0 then none else s.peekPa s.myDie s.myAsid va false) with
  | none => ok s.advance
  | some pa => ok (s.dropLine s.myTile (pa / 128)).advance

/-! ## Node forms (R265-R267) -/

/-- The address word: 64 bits, or 32 zero-extended. -/
def addrOf (f : Firing) : Word :=
  match f.l with
  | x :: _ => if x.wide then x.w else x.w &&& 0xFFFFFFFF
  | [] => 0

/-- The data word of a store: R's, zero-extended where narrow. -/
def dataOf (f : Firing) : Word :=
  match f.r with
  | x :: _ => if x.wide then x.w else x.w &&& 0xFFFFFFFF
  | [] => 0

/-- The access size of LDW, STW, LDX, STX: RND[37:36] (R265). -/
def nodeSize (f : Firing) : Nat := 2 ^ (f.node.r.rnd.extractLsb' 0 2).toNat

/-- The pool bit: RND[38] (R265). -/
def nodePool (f : Firing) : Bool := f.node.r.rnd.getLsbD 2

/-- What a class-8 node's scalar asks for: the operation, its size and alignment, the bytes it touches, whether it addresses the
pool. -/
structure NodeAccess where
  op : ReqOp
  size : Nat
  span : Nat
  pool : Bool
  store : Bool
  deriving DecidableEq, Repr, Inhabited

def nodeLoad (f : Firing) : NodeAccess := { op := .load (nodeSize f) false, size := nodeSize f, span := nodeSize f, pool := nodePool f, store := false }
def nodeStore (f : Firing) : NodeAccess :=
  { op := .store (nodeSize f) (dataOf f), size := nodeSize f, span := nodeSize f, pool := nodePool f, store := true }
def nodeIsread (_f : Firing) : NodeAccess := { op := .isread, size := 8, span := 8, pool := false, store := false }
def nodeIswrite (f : Firing) : NodeAccess := { op := .iswrite (dataOf f), size := 8, span := 8, pool := false, store := true }
def nodeIsclr (f : Firing) : NodeAccess :=
  { op := .isclr (dataOf f).toNat (dataOf f).toNat, size := 8, span := 8 * (dataOf f).toNat, pool := false, store := true }

/-- The access a wave operation makes. -/
def waveAccess (f : Firing) : NodeAccess := if f.node.op = .ldw then nodeLoad f else nodeStore f

/-- A null scalar emits a null (R267). -/
def State.emitNull (s : State) (f : Firing) : State :=
  if f.node.r.dsta = destNone then s else s.emit f f.tag f.nulls

/-- A poisoned access is not performed: a store writes POISON_STORE, a load answers zero with P (R114). -/
def State.poisonedAccess (s : State) (f : Firing) (store : Bool) : State :=
  let s := if store then s.fireRecord f cPoisonStore (addrOf f) else s
  s.nodeResult f 0 true false

/-- The access carries P in its address or data. -/
def accessP (f : Firing) (store : Bool) : Bool := f.l.any (·.p) || (store && f.r.any (·.p))

/-- A misaligned or misplaced access: a record, P on the result, no block (R259, R267). -/
def nodeAccessBad (s : State) (f : Firing) (x : NodeAccess) : Bool :=
  (addrOf f).toNat % x.size != 0 ||
    (x.pool && !poolOk s (some f.task) (tileOfPe f.pe) (addrOf f).toNat x.size false) ||
    (match x.op with
      | .isclr n _ => n == 0 || decide (4096 < n)
      | _ => false)

/-- A scalar that is neither null nor held makes its access (R267). -/
def State.nodeAccess (s : State) (f : Firing) (wave : Bool) (x : NodeAccess) : State :=
  if accessP f x.store then s.poisonedAccess f x.store
  else if nodeAccessBad s f x then (s.fireRecord f cAccessFault (addrOf f)).nodeResult f 0 true false
  else s.nodeReq f wave x.op (addrOf f) x.pool 0 default []

/-- A node access meets an armed comparator (R464); a scalar that makes no access, one that is null, poisoned, misaligned or
misplaced, meets none. -/
def State.nodeWatch (s : State) (f : Firing) (acc : Firing → NodeAccess) (kind : Nat) : Option Nat :=
  if (s.pe f.pe).passing.contains f then none
  else
    (s.scalars f).findSome? fun g =>
      if g.nul || accessP g (acc g).store || nodeAccessBad s g (acc g) then none
      else s.watchMatch (tileOfPe f.pe) (s.taskAsid f.task) kind (acc g).pool (addrOf g).toNat (acc g).span

/-- The stop point of a firing. -/
def State.nodeStop (s : State) (f : Firing) : StopAt :=
  { tag := f.tag, node := s.nodeAddr f.task f.slot, unit := f.pe % 16, flags := stopFlags (f.l ++ f.r) f.eos }

/-- A firing that a watch has stopped stands before its cause, which it passes once (R460, R462). -/
def State.standFiring (s : State) (f : Firing) : State := (s.modPe f.pe fun p => { p with passing := p.passing ++ [f] }).hold

/-- It has passed. -/
def State.clearPass (s : State) (f : Firing) : State :=
  if (s.pe f.pe).passing.contains f then s.modPe f.pe fun p => { p with passing := p.passing.filter fun g => g != f } else s

/-- Fired wave operations of a context that no release has reached: its stores for a release, its loads for an acquire
(R253, R324). -/
def State.wavesBefore (s : State) (f : Firing) (order : Nat) (x : ScopeSnap) : List Firing :=
  let t := tileOfPe f.pe
  let within (g : Firing) : Bool :=
    if nodePool g then x.hasTile t t
    else
      match s.peekPa (dieOfTile t) (s.taskAsid g.task) (addrOf g) true with
      | some pa => s.scopeHas x t pa
      | none => true
  ((s.tile t).waves.flatMap (·.waiting)).filter fun g =>
    g.task == f.task && ctxOf g.tag == ctxOf f.tag && !g.nul &&
      ((relOrder order && g.node.op == .stw && within g) || (acqOrder order && g.node.op == .ldw))

/-- What a node's release or acquire waits for (R324): requests, fired wave operations, and for a release engine commands. -/
def State.nodeFence (s : State) (f : Firing) (act : FenceAct) (order : Nat) (x : ScopeSnap) : NodeFence :=
  { fir := f, th := none, act := act, reqs := s.nodesBefore f order x, firs := s.wavesBefore f order x,
    cmds := if relOrder order then s.cmdsBefore f x else [], snap := x }

/-- ready(op) of R253. -/
def waveReady (w : Wave) (f : Firing) : Bool :=
  let p := f.node.r.litWpred
  let own := f.node.r.litWown
  if p = 0 then true
  else if p ≠ 0xFF then w.done.any fun d => d.1 == p
  else if f.nul then w.done.any fun d => d.2.1 == own
  else w.done.any fun d => d.2.1 == own && !d.2.2

/-- An operation stands before another on a path of their wave, as far as the two tell (R252, R253). -/
def standsBefore (f g : Firing) : Bool :=
  let fo := f.node.r.litWown
  let q := f.node.r.litWsucc
  let p := g.node.r.litWpred
  let go := g.node.r.litWown
  decide (fo < go) && (p == fo || (q == go && p == 0xFF) ||
    ((q == 0xFF || (decide (fo < q) && decide (q < go))) && (p == 0xFF || (decide (fo < p) && decide (p < go))) &&
      (q == 0xFF || p == 0xFF || decide (q ≤ p))))

/-- A wave operation that one which a waiting fence of its context waits for has still to follow in their wave: to hold it would
hold the fence (R253; log 110). -/
def State.fencedWave (s : State) (f : Firing) : Bool :=
  (f.node.op == .ldw || f.node.op == .stw) &&
    (s.tile (tileOfPe f.pe)).fences.any fun n => n.firs.any fun g =>
      g.tag == f.tag && g.task == f.task && standsBefore f g &&
        (s.tile (tileOfPe f.pe)).waves.any fun w => w.waiting.contains g && !waveReady w g

/-- The effect on memory is over though the request still waits: a wait for a phase, an atomic whose answer combining holds. -/
def Req.effectOver (r : Req) : Bool :=
  match r.op with
  | .barwait _ => true
  | .atomic _ => r.stage == .queued
  | _ => false

/-- A release or acquire of the firing's context on its tile is still to be completed, so its later accesses wait (R324): a release
until it is performed, an acquire until its reply. -/
def State.contextHolds (s : State) (f : Firing) : Bool :=
  let t := tileOfPe f.pe
  let mine (g : Firing) : Bool := tileOfPe g.pe == t && g.task == f.task && ctxOf g.tag == ctxOf f.tag
  !s.fencedWave f &&
    (((s.tile t).fences.any fun n => n.th.isNone && mine n.fir && (n.act != .pass || n.fir.node.r.litOrder != 0)) ||
      s.reqs.any fun r =>
        r.op.scoped && match r.who with
          | .node g _ => mine g && ((relOrder r.order && r.unperformed && !r.effectOver) || acqOrder r.order)
          | _ => false)

/-- A class-8 node fires (R267): held while its context waits for a fence or the admission queue has no room (R247, R324),
stopped by a watch, else scalar by scalar. -/
def fireMemory (acc : Firing → NodeAccess) (kind : Nat) (each : State → Firing → State) (s : State) : Out :=
  let f := s.cur.fir
  let t := tileOfPe f.pe
  if f.eos then ok ((s.beginFire.traceFire f f.tag f.l).passE f)
  else if s.contextHolds f then ok s.hold
  else
    let go (s : State) : Out :=
      let s2 := (s.scalars f).foldl each ((s.clearPass f).beginFire.traceFire f f.tag f.l)
      if s2.queueFits t then ok s2 else ok s.hold
    match s.nodeWatch f acc kind with
    | none => go s
    | some n =>
        match s.cause t 2 0 n 0 n (s.nodeStop f) with
        | (true, s) => ok (s.standFiring f)
        | (false, s) => go s

/-- An unordered access: nulls pass. -/
def plainAccess (acc : Firing → NodeAccess) (s : State) (g : Firing) : State :=
  if g.nul then s.emitNull g else s.nodeAccess g false (acc g)

/-- LDX (R267). -/
def execLdx (s : State) : Out := fireMemory nodeLoad 1 (plainAccess nodeLoad) s

/-- STX (R267). -/
def execStx (s : State) : Out := fireMemory nodeStore 2 (plainAccess nodeStore) s

/-- ISREAD on a node (R267). -/
def execIsreadNode (s : State) : Out := fireMemory nodeIsread 1 (plainAccess nodeIsread) s

/-- ISWRITE on a node (R267). -/
def execIswriteNode (s : State) : Out := fireMemory nodeIswrite 2 (plainAccess nodeIswrite) s

/-- ISCLR on a node (R267). -/
def execIsclrNode (s : State) : Out := fireMemory nodeIsclr 2 (plainAccess nodeIsclr) s

/-! ## Wave-ordered memory (R252-R254) -/

/-- The ready operation of least WOWN. -/
def waveNext (w : Wave) : Option Firing :=
  (w.waiting.filter (waveReady w)).foldl (fun b f => match b with
    | none => some f
    | some g => if f.node.r.litWown < g.node.r.litWown then some f else some g) none

/-- A wave is admitted while fewer than 1,024 are tracked and at least 16 slots stay free for those already admitted (R254). -/
def State.waveRoom (s : State) (t : Nat) : Bool :=
  let n := ((s.tile t).waves.filter (·.admitted)).length
  decide (n < 1024) && (n == 0 || decide (16 ≤ slotCap t - s.reqSlots t))

/-- The access of a released operation; its number is done at once unless its address has still to be translated, since then it
may park (R253, R259, R267). -/
def State.waveGo (s : State) (f : Firing) : State :=
  let x := waveAccess f
  if x.pool || accessP f x.store || nodeAccessBad s f x then (s.waveDone f false).nodeAccess f true x else s.nodeAccess f true x

/-- Release or consume one ready operation (R253). -/
def State.waveRelease (s : State) (f : Firing) : State :=
  let s := s.modWave f fun w => { w with waiting := w.waiting.erase f }
  if f.nul then (s.waveDone f true).emitNull f else s.waveGo f

/-- The wave of a tag and task is admitted (R254). -/
def State.waveAdmit (s : State) (tag : Word) (k t : Nat) : State :=
  s.modTile t fun x => { x with waves := x.waves.map fun v => if v.tag = tag ∧ v.task = k then { v with admitted := true } else v }

/-- Re-examine a wave until no operation is ready; its entry is freed when every number is done (R253, R254). -/
def waveSweep (tag : Word) (k t : Nat) : Nat → State → State
  | 0, s => s
  | n + 1, s =>
      match (s.tile t).waves.find? fun w => w.tag == tag && w.task == k with
      | none => s
      | some w =>
          if !w.admitted && !s.waveRoom t then s
          else
            let s := s.waveAdmit tag k t
            match waveNext w with
            | some f =>
                let s2 := s.waveRelease f
                if s2.queueFits t then waveSweep tag k t n s2 else s
            | none =>
                match w.last with
                | some l =>
                    if (List.range l).all fun i => w.done.any fun d => d.1 == i + 1 then
                      s.modTile t fun x => { x with waves := x.waves.filter fun v => !(v.tag == tag && v.task == k) }
                    else s
                | none => s

/-- Re-examine every wave of a tile. -/
def State.waveSweepTile (s : State) (t : Nat) : State :=
  (s.tile t).waves.foldl (fun s w => waveSweep w.tag w.task t (w.waiting.length + 2) s) s

/-- A fired operation joins its wave, which waits to be admitted if it is new (R252-R254). -/
def waveArrive (s : State) (f : Firing) : State :=
  let t := tileOfPe f.pe
  let s := match s.wave? f with
    | some _ => s
    | none =>
        let w : Wave := { tag := f.tag, task := f.task, last := none, done := [], waiting := [], admitted := false }
        s.modTile t fun x => { x with waves := x.waves ++ [w] }
  let s := s.modWave f fun w =>
    { w with waiting := w.waiting ++ [f], last := if f.node.r.litWsucc = 0 then some f.node.r.litWown else w.last }
  s.waveSweepTile t

/-- LDW (R252, R253, R267). -/
def execLdw (s : State) : Out := fireMemory nodeLoad 1 waveArrive s

/-- STW (R252, R253, R267). -/
def execStw (s : State) : Out := fireMemory nodeStore 2 waveArrive s

/-! ## Translation (R244, R296, R314) -/

/-- A non-Jequa accelerator takes loads, stores and the standard's atomics on integers (R296). -/
def State.peerTakes (s : State) (r : Req) (pa : Nat) : Bool :=
  !s.isPeer (dieOfTile r.tile) pa ||
    match r.op, r.who with
    | .atomic x, _ => x.op != .fadd && x.ret
    | .load _ _, .node _ wave | .store _ _, .node _ wave => !wave
    | .load _ _, _ | .store _ _, _ | .histrd _, _ | .pref, _ | .unit, _ | .inval _ _, _ | .eread _ _ _, _
    | .ewrite _ _, _ => true
    | _, _ => false

/-- A request waits for a translation that neither TLB holds (R245). -/
def State.missing (s : State) (r : Req) : Bool :=
  let held := (s.tile r.tile).tlb ++ (s.die (dieOfTile r.tile)).tlb
  r.stage == .walk && !held.any fun e => e.covers r.asid r.va.toNat

/-- A page a walk is for. -/
def Req.page (r : Req) : Nat × Nat := (r.asid, r.va.toNat / 4096)

/-- One of the die's 1,024 walkers serves the request: a held translation needs none, misses to one page share one, and those
that find all busy wait in order (R245). -/
def State.walkerServes (s : State) (q : Req) : Bool :=
  let ahead := ((s.reqs.takeWhile fun r => r.id != q.id).filter fun r =>
    dieOfTile r.tile == dieOfTile q.tile && s.missing r).map Req.page
  !s.missing q || ahead.contains q.page || decide (ahead.eraseDups.length < 1024)

/-- A release, or a node's wave operations and engine commands before it, still holds the request back (R342). -/
def State.releaseWaits (s : State) (q : Req) : Bool :=
  (q.after.any fun id => match s.req? id with
    | some r => r.unperformed
    | none => false) || (s.tile q.tile).fences.any fun n => n.act == .scoped q.id

/-- A wave operation's address is translated: its number is done, unless REPLAY resubmitted it (R253). -/
def State.waveRouted (s : State) (q : Req) : State :=
  match q.who with
  | .node f true => if q.again then s else (s.waveDone f false).waveSweepTile q.tile
  | _ => s

/-- Bytes of memory a request touches; ISCLR's words lie on buffer tiles, where nothing is protected. -/
def ReqOp.span : ReqOp → Nat
  | .load n _ | .store n _ | .eread _ _ n => n
  | .ewrite _ bs => bs.length
  | .atomic x => if x.wide then 8 else 4
  | .pref => 128
  | .unit | .inval _ _ | .draw _ _ | .sxprop _ _ _ | .sxwords _ _ => 1
  | _ => 8

/-- TRANSLATION_WALK_COMPLETE (R243-R245): through a held translation or a fresh walk; structure operations reach
buffer tiles alone (R256). -/
def execTranslationWalkComplete (r : Nat) (s : State) : Out :=
  match s.req? r with
  | none => ok s
  | some q =>
      if q.stage != .walk || s.stopped q.tile || s.releaseWaits q || !s.walkerServes q then ok s
      else
        let die := dieOfTile q.tile
        match lookupTile s q.tile q.asid q.va (Config.freeNat s.tick 1) (Config.freeNat s.tick 2) with
        | .wait => ok s
        | .fault c => ok ((s.requestFault q c).waveSweepTile q.tile)
        | .page e =>
            let s := s.holdTile q.tile e
            match checkPage s die e q.va.toNat (!q.op.reads) with
            | .error c => ok ((s.requestFault q c).waveSweepTile q.tile)
            | .ok pa =>
                if (!s.isPeer die pa && (s.guardHit pa q.op.span).isSome) || (q.op.structural && isDram pa) || !s.peerTakes q pa then ok ((s.requestFault q cAccessFault).waveSweepTile q.tile)
                else if q.op.scoped && q.who != .none && pa / 2 ^ 44 == moduleOfTile q.tile && !s.scopeHas q.snap q.tile pa then
                  ok (s.modReq r fun x => { x with pa := pa, stage := .miss })
                else ok ((s.routeReq q e pa).waveRouted q)

/-! ## At the regions (R249, R256) -/

/-- The memory key a request's address is served from. -/
def State.reqKey (s : State) (r : Req) : Nat := if r.pool then poolKey s r.tile r.va.toNat else r.pa

/-- The request has its turn (R250): what a cache bank serves is not ordered after the thread's own stores (R241). -/
def State.inTurn (s : State) (r : Req) : Bool := r.bank.isSome || !s.behind r

/-- A region, or the cache bank that serves the request, accepts it (R240, R250, R461). -/
def State.accepts (s : State) (r : Req) : Bool :=
  r.stage == .region && s.inTurn r && match r.bank with
    | some u => !s.heldInbound r.tile u
    | none => s.regionOpen r.tile (regionOf r.pool r.tile r.pa)

/-- A tile looks again at its CFLUSHes, fences and waves (R253, R263, R324, R328). -/
def State.settleTile (s : State) (t : Nat) : State :=
  (((List.range 8).foldl (fun s i => (s.settleFlush (8 * t + i)).settleFence (8 * t + i)) s).waveSweepTile t).settleNodes t

/-- What comes after an access is performed: a resubmitted wave operation is done (R253), and its tile looks again, unless its clock
stands still (R460). -/
def State.afterApply (s : State) (r : Req) : State :=
  let s := match r.who with
    | .node f true => s.waveDone f false
    | _ => s
  if s.stopped r.tile then s
  else
    let s := match r.thread? with
      | some th => (s.settleFlush th).settleFence th
      | none => s
    (s.waveSweepTile r.tile).settleNodes r.tile

/-- A read finds at its region a word that was poisoned after it issued: a deferred trap, or a record and P (R429, log 30). -/
def State.eccFault (s : State) (r : Req) : State := s.requestFault r cEccUncorr

/-- A load is performed: its value is fixed (R249); EMPTY and DEFERRED words read zero (R256). -/
def State.applyLoad (s : State) (r : Req) (n : Nat) (sext : Bool) : State :=
  let key := s.reqKey r
  if s.poisoned key n then s.eccFault r
  else s.answer r (extendLoad n sext (bytesToNat ((List.range n).map fun i => s.plainByte (key + i)))) false

/-- A profile word is read for HISTRD: the counter's snapshot is added to it (R476). -/
def State.applyHist (s : State) (r : Req) (c : Nat) : State :=
  let key := s.reqKey r
  if s.poisoned key 8 then s.eccFault r
  else s.answer r (BitVec.ofNat 64 (bytesToNat ((List.range 8).map fun i => s.plainByte (key + i)) + c)) false

/-- A node's access that a structure word refuses gives its result with P (R256, R259). -/
def Req.refusedP (r : Req) : Bool := r.ofNode

/-- A store is performed, or refused by a structure word (R256). -/
def State.applyStore (s : State) (r : Req) (n : Nat) (v : Word) : State :=
  let key := s.reqKey r
  if s.writable key n then (s.writeNat key n v.toNat).answer r 0 false
  else (s.recordAt (key / 2 ^ 40) (s.issuerRecord r cAccessFault 0 0 0)).answer r 0 r.refusedP

/-- A command in progress at a tile's engines. -/
def State.modJob (s : State) (t id : Nat) (f : EngJob → EngJob) : State :=
  s.modTile t fun x => { x with engRun := x.engRun.map fun j => if j.cmd.id = id then f j else j }

/-- The bytes of an engine's read reach its chunk. -/
def EngMove.land (m : EngMove) (off : Nat) (bs : List Byte) : EngMove :=
  { m with data := m.data.take off ++ bs ++ m.data.drop (off + bs.length) }

/-- An engine's read at its region (R270, R429). -/
def State.applyEread (s : State) (r : Req) (num off n : Nat) : State :=
  let bs := (List.range n).map fun i => s.homeByte (dieOfTile r.tile) (r.pa + i)
  let bad := s.poisoned r.pa n
  let got (m : EngMove) : EngMove :=
    if bad then { m with bad := m.bad.or (some (cEccUncorr, r.va.toNat)) } else m.land off bs
  match r.who with
  | .engine t id =>
      (s.modJob t id fun j => { j with moves := j.moves.map fun m => if m.num = num then got m else m }).answer r 0 false
  | _ => s.dropReq r.id

/-- Write bytes where the words are PLAIN; a whole word written clears its poison (R256, R429). Whether a word refused the write. -/
def writeKeys (ks : List Nat) (bs : List Byte) (s : State) : State × Bool :=
  let refused := ks.any fun k => s.wordState k != sPlain
  let mem := (ks.zip bs).foldl (fun m x => if s.wordState x.1 = sPlain then memWrite x.1 x.2 m else m) s.mem
  ({ s with mem := mem, ecc := s.ecc.filter fun w => !((List.range 8).all fun i => ks.contains (8 * w + i)) }, refused)

/-- A request of an engine as one of the thread or node that issued its command (R256). -/
def State.issuedBy (s : State) (r : Req) : Req :=
  match r.who with
  | .engine t id =>
      match (s.tile t).engRun.find? fun j => j.cmd.id == id with
      | some j => { r with who := match j.cmd.th with
          | some th => .thread th .none false
          | none => .node j.cmd.fir false }
      | none => r
  | _ => r

/-- An engine's write at its region; a structure word refuses it with a record there that names the command's issuer (R256,
R271). -/
def State.applyEwrite (s : State) (r : Req) (bs : List Byte) : State :=
  if s.isPeer (dieOfTile r.tile) r.pa then s.answer r 0 false
  else
    let x := writeKeys ((List.range bs.length).map fun i => r.pa + i) bs s
    (if x.2 then x.1.recordAt (r.pa / 2 ^ 40) (s.issuerRecord (s.issuedBy r) cAccessFault 0 0 0) else x.1).answer r 0 false

/-- A load served by its cache bank (R241). -/
def State.applyCached (s : State) (r : Req) (u n : Nat) (sext : Bool) : State :=
  match s.cacheLine? u (r.pa / 128) with
  | some bs => (s.cachePut u (r.pa / 128) bs).answer r (extendLoad n sext (bytesToNat ((bs.drop (r.pa % 128)).take n))) false
  | none => s

/-- REGION_ACCESS_APPLY (R249): a load or store is performed at its region, or hits its cache bank. -/
def execRegionAccessApply (r : Nat) (s : State) : Out :=
  match s.req? r with
  | none => ok s
  | some q =>
      if !s.accepts q then ok s
      else
        match q.op, q.bank with
        | .load n x, some u => ok ((s.applyCached q u n x).afterApply q)
        | .pref, some u => ok (if (s.cacheLine? u (q.pa / 128)).isSome then s.dropReq r else s)
        | .load n x, none => ok ((s.applyLoad q n x).afterApply q)
        | .store n v, _ => ok ((s.applyStore q n v).afterApply q)
        | .histrd c, _ => ok ((s.applyHist q c).afterApply q)
        | .eread num off n, _ => ok ((s.applyEread q num off n).afterApply q)
        | .ewrite _ bs, _ => ok ((s.applyEwrite q bs).afterApply q)
        | _, _ => ok s

/-- CACHE_BANK_FILL (R240, R241): the line is filled from its home, which must answer, then the bank replies. A line with a poisoned word serves the load
and is not kept (R429). -/
def execCacheBankFill (r : Nat) (s : State) : Out :=
  match s.req? r with
  | none => ok s
  | some q =>
      match q.bank with
      | none => ok s
      | some u =>
          let line := q.pa / 128
          if q.stage != .region || (s.cacheLine? u line).isSome || s.stopped u || !s.regionOpen u (regionOf false u q.pa) then ok s
          else if (match q.op with
              | .load n _ => s.poisoned q.pa n
              | _ => false) then ok ((s.eccFault q).afterApply q)
          else if s.poisoned (line * 128) 128 then
            match q.op with
            | .load n x => ok ((s.applyLoad q n x).afterApply q)
            | _ => ok (s.dropReq r)
          else
            let s := s.cachePut u line ((List.range 128).map fun i => s.homeByte (dieOfTile u) (line * 128 + i))
            match q.op with
            | .load n x => ok ((s.applyCached q u n x).afterApply q)
            | _ => ok (s.dropReq r)

/-! ## Structure words (R255-R257) -/

/-- The readers queued at a word, in order. -/
def State.readers (s : State) (key : Nat) : List Req :=
  let qs := s.reqs.filter fun r => r.stage == .queued && r.op == .isread && r.pa == key
  (sortReaders qs)
where
  /-- Insertion by place in the queue. -/
  sortReaders : List Req → List Req
    | [] => []
    | r :: rs => insertReader r (sortReaders rs)
  insertReader (r : Req) : List Req → List Req
    | [] => [r]
    | q :: qs => if r.qpos ≤ q.qpos then r :: q :: qs else q :: insertReader r qs

/-- Deferred-reader records of a buffer tile in use (R255). -/
def State.readerRecords (s : State) (t : Nat) : List Nat :=
  (s.reqs.filter fun r => r.stage == .queued && r.op == .isread && (regionOf false r.tile r.pa) == (0, t)).map (·.recNo)

/-- The data bits of a DEFERRED word: head, tail and count (R255). -/
def State.deferWord (s : State) (key : Nat) : State :=
  let rs := s.readers key
  let v := (rs.head?.map (·.recNo)).getD 0 + (rs.getLast?.map (·.recNo)).getD 0 * 2 ^ 12 + rs.length * 2 ^ 24
  s.writeNat key 8 v

/-- Queue a reader; a store without a free record refuses it for 256 cycles (R257). -/
def State.queueReader (s : State) (r : Req) (key : Nat) : State :=
  let t := (regionOf false r.tile key).2
  match freePlace 4096 (s.readerRecords t) with
  | none => s.modReq r.id fun x => { x with stage := .refused (s.cycleOf t + 256) }
  | some i =>
      let s := (s.modReq r.id fun x => { x with stage := .queued, qpos := s.nextId + 1, recNo := i }).fresh
      (s.setWordState key sDeferred).deferWord key

/-- ISWRITE on a word that takes it: FULL, and the queued readers are answered in order (R256, R257). -/
def State.fillWord (s : State) (key : Nat) (v : Word) : State :=
  let rs := s.readers key
  let s := (s.writeNat key 8 v.toNat).setWordState key sFull
  rs.foldl (fun s r => s.answer r v false) s

/-- ISCLR on one word (R256). -/
def State.clearWord (s : State) (key : Nat) : State :=
  let st := s.wordState key
  if st = sPlain ∨ st = sFull then (s.writeNat key 8 0).setWordState key sEmpty else s

/-- A structure operation acts by the word's state (R256). -/
def State.applyStructure (s : State) (r : Req) : State :=
  let key := r.pa
  let st := s.wordState key
  let die := key / 2 ^ 40
  match r.op with
  | .isread =>
      if st = sPlain then
        let s := s.recordAt die (s.issuerRecord r cAccessFault 0 0 0)
        s.answer r 0 r.refusedP
      else if st = sFull then
        if s.poisoned key 8 then s.eccFault r else s.answer r (s.readWord key) false
      else s.queueReader r key
  | .iswrite v =>
      if st = sPlain then (s.recordAt die (s.issuerRecord r cAccessFault 0 0 0)).answer r 0 r.refusedP
      else if st = sFull then
        (s.recordAt die (s.issuerRecord r cDoubleWrite (s.readWord key) v 0)).answer r 0 r.refusedP
      else (s.fillWord key v).answer r 0 false
  | .isclr n avail =>
      let s := (List.range avail).foldl (fun s i => s.clearWord (key + 8 * i)) s
      if avail < n then s.requestFault { r with va := r.va + BitVec.ofNat 64 (8 * avail) } cAccessFault
      else s.answer r 0 false
  | _ => s

/-- STRUCTURE_OPERATION_APPLY (R256). -/
def execStructureOperationApply (r : Nat) (s : State) : Out :=
  match s.req? r with
  | none => ok s
  | some q => if s.accepts q && q.op.structural then ok ((s.applyStructure q).afterApply q) else ok s

/-! ## Pending results -/

/-- A pending result of a unit of the die: held by the four-load limit and the slots, else the unit acts and its answer is on
its way (R121, R387). -/
def State.unitOp (s : State) (d : RegNo) (go : State → Word × State) : State :=
  if 4 ≤ s.me.ldout || !s.slotFree s.myTile then s.hold
  else
    let dest := s.me.preg d
    let r := go s
    r.2.sendReq { r.2.threadReq .unit 0 dest true with stage := .reply r.1 false } dest true

/-- A result that stays pending until its unit writes it, and is none of the four loads (R49, R330). -/
def State.lateResult (s : State) (d : RegNo) (v : Word) : State :=
  let dest := s.me.preg d
  let r : Req := { s.threadReq .unit 0 dest false with stage := .reply v false, slot := false }
  ({ s with reqs := s.reqs ++ [r], nextId := s.nextId + 1 }).modMe fun t => { t.setPending dest true with pc := s.nextPc }

/-! ## Replies and retries -/

/-- A reader queued before this one at the same word has not had its reply (R257); one whose tile stands still has it in the
skid buffer (R25). -/
def State.readerAhead (s : State) (r : Req) : Bool :=
  r.qpos != 0 && s.reqs.any fun q =>
    q.qpos != 0 && decide (q.qpos < r.qpos) && q.pa == r.pa && !s.stopped q.tile && (match q.stage with
      | .reply _ _ => true
      | _ => false)

/-- The acquire of an atomic or barrier request at its reply (R342, R331). -/
def State.takeAcquire (s : State) (r : Req) : State :=
  match r.op with
  | .atomic _ | .bar _ _ | .barwait _ => if acqOrder r.order then s.dropBanks r.snap r.tile else s
  | _ => s

/-- A request fails with nothing parked: the register gets zero and is free, a deferred trap follows (R317, R350). -/
def State.failThread (s : State) (r : Req) (th : Nat) (d : PReg) (c : Bool) (code : Nat) (v : Word) : State :=
  (s.dropReq r.id).modThread th fun t =>
    let t := t.takeReply d c 0
    { t with deferred := t.deferred ++ [{ code := code, va := v, req := none }] }

/-- A node's request fails: a record with its tag, operands and an address, a zero payload with P (R317, R350). -/
def State.failNode (s : State) (r : Req) (f : Firing) (code : Nat) (op0 op1 addr : Word) : State :=
  ((s.dropReq r.id).record { s.issuerRecord r code op0 op1 0 with addr := addr }).nodeResult f 0 true false

/-- A combined request's reply of class FLT reaches a requester (R336, R348, R350). -/
def State.takeFlt (s : State) (r : Req) (code : Nat) : State :=
  match r.who with
  | .thread th d c =>
      if code = cAtomicLost then s.failThread r th d c code r.va
      else if code = cAccessFault then (s.dropReq r.id).modThread th fun t => t.takeReply d c 0
      else s.requestFault r code
  | .node f _ =>
      if code = cAtomicLost then s.failNode r f code (firstWord f.l) (firstWord f.r) r.va
      else if code = cAccessFault then (s.dropReq r.id).nodeResult f 0 true false
      else s.requestFault r code
  | _ => s

/-- A held translation that TLBINV removes: `.page`, `.asid`, `.all` (R446). -/
def TlbEntry.invalidBy (e : TlbEntry) (form asid va : Nat) : Bool :=
  match form with
  | 0 => e.covers asid va
  | 1 => e.asid == asid
  | _ => true

/-- TLBINV on a die: the die's TLB and the micro-TLBs of its tiles (R446). -/
def State.tlbDrop (s : State) (die form asid va : Nat) : State :=
  let s := { s with tiles := s.tiles.map fun (e : Nat × Tile) =>
    (e.1, if dieOfTile e.1 = die then { e.2 with tlb := e.2.tlb.filter fun h => !h.invalidBy form asid va } else e.2) }
  s.modDie die fun d => { d with tlb := d.tlb.filter fun e => !e.invalidBy form asid va }

/-- Nothing that was held before TLBINV answers is used after it. -/
def State.dropHeld (s : State) (r : Req) : State :=
  match r.op with
  | .inval form asid => s.tlbDrop (dieOfTile r.tile) form asid r.va.toNat
  | _ => s

/-- The words that an evaluated SXPROP's reply brings are in the pool before its register is free (R405). -/
def State.landWords (s : State) (r : Req) : State :=
  match r.op with
  | .sxwords a bs =>
      match s.poolStore r.tile a bs.length (bytesToNat bs) with
      | (true, s) => s
      | (false, s) => s.record { s.issuerRecord r cAccessFault 0 0 0 with addr := BitVec.ofNat 64 a }
  | _ => s

/-- MEMORY_REPLY_ARRIVAL (R121, R246, R267): the register is written, or the node's token leaves, and the slot is
free; a frozen tile's skid buffer holds it. -/
def execMemoryReplyArrival (r : Nat) (s : State) : Out :=
  match s.req? r with
  | none => ok s
  | some q =>
      match q.stage with
      | .reply v p =>
          if s.stopped q.tile || s.readerAhead q || s.replyOut r then ok s
          else
            let s := ((s.takeAcquire q).dropHeld q).landWords q
            match q.who with
            | .thread th d c => ok (((s.dropReq r).modThread th fun t => t.takeReply d c v).waveSweepTile q.tile)
            | .threadPair th d1 d2 =>
                let hi : Word := match q.op with
                  | .draw _ x => x
                  | _ => 0
                ok ((s.dropReq r).modThread th fun t => (t.takeReply d1 true v).takeReply d2 false hi)
            | .node f _ => ok (((s.dropReq r).nodeResult f v (p || ordP f q.op) q.op.wide).waveSweepTile q.tile)
            | .bobbin _ => ok s
            | .none | .engine _ _ => ok (s.dropReq r)
      | .flt code => if s.stopped q.tile || s.replyOut r then ok s else ok ((s.takeFlt q code).settleTile q.tile)
      | _ => ok s

/-- REQUEST_RETRY (R257): a refused request is sent again. -/
def execRequestRetry (r : Nat) (s : State) : Out :=
  match s.req? r with
  | none => ok s
  | some q =>
      match q.stage with
      | .refused c =>
          if s.cycleOf q.tile < c || s.stopped q.tile then ok s
          else ok (s.modReq r fun x => { x with stage := .region })
      | _ => ok s

end Sys2Proof.Machine
end

