-- ==== Sys2Proof/Machine/Engines.lean ====
section
/-! DEFINITION. The copy and gather engines on both carriers (10_remote_memory_class.md R269-R274, R299-R301). A
command's run is one step, COPY_ENGINE_TAKE or GATHER_ENGINE_TAKE; ENGINE_COMMAND_COMPLETE makes it observable. -/

namespace Sys2Proof.Machine

/-! ## Chunks (R272) -/

/-- A page's bytes cut at multiples of 128 (R270). -/
def linePieces (va pa n off : Nat) : List EngPiece :=
  (List.range ((pa + n - 1) / 128 - pa / 128 + 1)).map fun i =>
    let lo := max pa ((pa / 128 + i) * 128)
    { pool := false, tile := 0, a := lo, va := va + (lo - pa), n := min (pa + n) ((pa / 128 + i + 1) * 128) - lo, off := off + (lo - pa) }

/-- The pieces of a place, translated (R272): a code and an address where that fails, or where a byte is protected (R453). -/
def locPieces (s : State) (t asid : Nat) (l : Loc) (n : Nat) (write : Bool) : Except (Nat × Nat) (List EngPiece) :=
  if l.pool then .ok [{ pool := true, tile := l.tile, a := l.a, va := l.a, n := n, off := 0 }]
  else
    (pagePieces l.a n).foldlM (fun acc p =>
      if 2 ^ 56 ≤ p.1 then .error (cAccessFault, p.1 % 2 ^ 64)
      else
        match translateAt s t asid (BitVec.ofNat 64 p.1) write with
        | .error c => .error (c, p.1)
        | .ok pa =>
            match (if s.isPeer (dieOfTile t) pa then none else s.guardHit pa p.2) with
            | some i => .error (cAccessFault, p.1 + i)
            | none => .ok (acc ++ linePieces p.1 pa p.2 (p.1 - l.a))) []

/-- The memory keys of a pool range. -/
def poolKeys (s : State) (t a n : Nat) : List Nat := (List.range n).map fun i => poolKey s t (a + i)

/-- A chunk's checks (R272), then its move: what lies in the pool is read at once. -/
def chunkMove (s : State) (t : Nat) (c : EngCmd) (num : Nat) (x : Chunk) : Except (Nat × Nat) EngMove :=
  let asid := s.taskAsid c.task
  match x.bad with
  | some a => .error (cAccessFault, a)
  | none =>
      match locPieces s t asid x.src x.n false, x.dsts.mapM fun l => locPieces s t asid l x.n true with
      | .error e, _ => .error e
      | .ok _, .error e => .error e
      | .ok rs, .ok ws =>
          if x.src.pool then
            if s.poolPoisoned x.src.tile x.src.a x.n then .error (cEccUncorr, x.src.a)
            else
              .ok { num := num, reads := [], writes := ws.flatten,
                    data := (poolKeys s x.src.tile x.src.a x.n).map s.plainByte, bad := none }
          else .ok { num := num, reads := rs, writes := ws.flatten, data := List.replicate x.n 0, bad := none }

/-! ## Requests of a command (R270) -/

/-- A request of a command; the slots and the bank's quota have room for it. -/
def State.engSend (s : State) (t : Nat) (c : EngCmd) (op : ReqOp) (p : EngPiece) : State :=
  let r : Req :=
    { id := s.nextId, who := .engine t c.id, tile := t, task := c.task, asid := s.taskAsid c.task, op := op, va := BitVec.ofNat 64 p.va,
      pool := false, pa := p.a, bank := none, stage := .transit, slot := true, slotNo := s.freeSlot t, snap := default, after := [], order := 0,
      cycle := s.cycleOf t, seq := s.nextId, qpos := 0, recNo := 0, pc := c.pc, since := 0, again := false }
  ({ s with reqs := s.reqs ++ [r], nextId := s.nextId + 1 }).send clsReq (dieOfTile t) (p.a / 2 ^ 40) (.req r.id)

def State.engRoom (s : State) (t : Nat) (p : EngPiece) : Bool := s.slotFree t && s.bankFree t (some p.a)

/-- A read of a chunk is sent; none while it must wait. -/
def readPiece (t : Nat) (c : EngCmd) (num : Nat) (p : EngPiece) (s : State) : Option State :=
  if s.engRoom t p then some (s.engSend t c (.eread num p.off p.n) p) else none

/-- Bytes of a chunk are written: into a pool at once, else they are sent. A structure word refuses a pool write with a record
(R256). -/
def putPiece (t : Nat) (c : EngCmd) (num : Nat) (p : EngPiece) (bs : List Byte) (s : State) : Option State :=
  if p.pool then
    match writeKeys (poolKeys s p.tile p.a p.n) bs s with
    | (s, true) =>
        some (s.record { code := cAccessFault, die := dieOfTile t, io := false, tileByte := tileByte t, unit := 0xFF,
                         flags := numOfThread (c.th.getD 0) * 16, node := (c.pc.extractLsb' 0 16).toNat, tag := 0,
                         task := s.instanceId c.task, cycle := s.cycleOf t, op0 := 0, op1 := 0, addr := BitVec.ofNat 64 p.a })
    | (s, false) => some s
  else if s.engRoom t p then some (s.engSend t c (.ewrite num bs) p)
  else none

/-- Two pieces touch one aligned 8-byte word. -/
def EngPiece.meets (x p : EngPiece) : Bool :=
  x.pool == p.pool && x.tile == p.tile && decide (x.a / 8 ≤ (p.a + p.n - 1) / 8) && decide (p.a / 8 ≤ (x.a + x.n - 1) / 8)

/-- The held parts of words that a piece meets: one that the piece goes on from becomes part of it, another is written before it. -/
def takeTails (put : EngPiece → List Byte → State → Option State) (p : EngPiece) (bs : List Byte) :
    List (EngPiece × List Byte) → State → Option (State × List (EngPiece × List Byte) × EngPiece × List Byte)
  | [], s => some (s, [], p, bs)
  | x :: xs, s =>
      match takeTails put p bs xs s with
      | none => none
      | some (s, rest, q, cs) =>
          if !x.1.meets q then some (s, x :: rest, q, cs)
          else if x.1.a + x.1.n = q.a then some (s, rest, { x.1 with n := x.1.n + q.n }, x.2 ++ cs)
          else (put x.1 x.2 s).map fun s => (s, rest, q, cs)

/-- A write of a chunk (R271): an aligned word of which the piece holds only the first part is held, to be written whole with what
follows it. -/
def writePiece (t : Nat) (c : EngCmd) (m : EngMove) (tails : List (EngPiece × List Byte)) (p : EngPiece) (s : State) :
    Option (List (EngPiece × List Byte) × State) :=
  match takeTails (putPiece t c m.num) p ((m.data.drop p.off).take p.n) tails s with
  | none => none
  | some (s, rest, q, bs) =>
      let n := (q.a + q.n) / 8 * 8 - q.a
      if (q.a + q.n) % 8 = 0 then (putPiece t c m.num q bs s).map fun s => (rest, s)
      else if n = 0 then some (rest ++ [(q, bs)], s)
      else
        let tail : EngPiece := { q with a := q.a + n, va := q.va + n, n := q.n - n }
        (putPiece t c m.num { q with n := n } (bs.take n) s).map fun s => (rest ++ [(tail, bs.drop n)], s)

/-- Pieces in turn while they go; those left. -/
def goPieces (go : EngPiece → State → Option State) : List EngPiece → State → State × List EngPiece
  | [], s => (s, [])
  | p :: ps, s =>
      match go p s with
      | some s => goPieces go ps s
      | none => (s, p :: ps)

/-- The same for the writes of a chunk, with the words that are held. -/
def goWrites (t : Nat) (c : EngCmd) (m : EngMove) : List EngPiece → List (EngPiece × List Byte) → State →
    State × List EngPiece × List (EngPiece × List Byte)
  | [], tails, s => (s, [], tails)
  | p :: ps, tails, s =>
      match writePiece t c m tails p s with
      | some (tails, s) => goWrites t c m ps tails s
      | none => (s, p :: ps, tails)

/-- The held parts of words, once nothing follows them. -/
def flushTails (t : Nat) (c : EngCmd) (num : Nat) : List (EngPiece × List Byte) → State → State × List (EngPiece × List Byte)
  | [], s => (s, [])
  | x :: xs, s =>
      match putPiece t c num x.1 x.2 s with
      | some s => flushTails t c num xs s
      | none => (s, x :: xs)

/-- Reads of a chunk are on their way. -/
def State.readsOut (s : State) (t id num : Nat) : Bool :=
  s.reqs.any fun r => r.who == .engine t id && match r.op with
    | .eread m _ _ => m == num
    | _ => false

/-- Requests of a command are on their way. -/
def State.engOut (s : State) (t id : Nat) : Bool := s.reqs.any fun r => r.who == .engine t id

/-- The reads of the chunks begun, in order. -/
def readMoves (t : Nat) (c : EngCmd) : List EngMove → State → State × List EngMove
  | [], s => (s, [])
  | m :: ms, s =>
      let r := goPieces (readPiece t c m.num) m.reads s
      if r.2.isEmpty then
        let x := readMoves t c ms r.1
        (x.1, { m with reads := [] } :: x.2)
      else (r.1, { m with reads := r.2 } :: ms)

/-- What the writes of the chunks begun leave: the chunks and held words still to be written, and the read that failed. -/
structure WriteEnd where
  s : State
  moves : List EngMove
  tails : List (EngPiece × List Byte)
  bad : Option (Nat × Nat × Nat)
  deriving Repr, Inhabited

/-- The writes of the chunks whose bytes are there, in order; a read that failed stops the command before its chunk writes. -/
def writeMoves (t : Nat) (c : EngCmd) : List EngMove → List (EngPiece × List Byte) → State → WriteEnd
  | [], tails, s => ⟨s, [], tails, none⟩
  | m :: ms, tails, s =>
      if !m.reads.isEmpty || s.readsOut t c.id m.num then ⟨s, m :: ms, tails, none⟩
      else
        match m.bad with
        | some e => ⟨s, [], tails, some (m.num, e)⟩
        | none =>
            let r := goWrites t c m m.writes tails s
            if r.2.1.isEmpty then writeMoves t c ms r.2.2 r.1 else ⟨r.1, { m with writes := r.2.1 } :: ms, r.2.2, none⟩

/-- The next chunk is begun once every read before it has been sent. -/
def EngJob.begin (j : EngJob) (s : State) (t : Nat) : EngJob :=
  match j.stop, j.xs with
  | none, x :: xs =>
      if j.moves.any fun m => !m.reads.isEmpty then j
      else
        match chunkMove s t j.cmd j.next x with
        | .error (code, a) => { j with xs := [], stop := some (j.next, code, a) }
        | .ok m => { j with xs := xs, next := j.next + 1, moves := j.moves ++ [m] }
  | _, _ => j

/-- The piece a command waits to send. -/
def EngJob.waiting (j : EngJob) : Option EngPiece :=
  ((j.moves.findSome? fun m => m.reads.head?).or ((j.moves.head?).bind fun m => if m.reads.isEmpty then m.writes.head? else none)).or
    (j.tails.head?.map (·.1))

/-! ## What a command's chunks are (R299, R300) -/

/-- COPY and MCAST chunks of 4,096 bytes. -/
def copyChunks (src : Loc) (dsts : List Loc) (n : Nat) : List Chunk :=
  (List.range ((n + 4095) / 4096)).map fun i =>
    { src := { src with a := src.a + 4096 * i }, dsts := dsts.map fun l => { l with a := l.a + 4096 * i },
      n := min 4096 (n - 4096 * i), bad := none }

/-- Places overlap in one space. -/
def locMeet (x y : Loc) (n : Nat) : Bool :=
  x.pool == y.pool && (!x.pool || x.tile == y.tile) && decide (x.a < y.a + n) && decide (y.a < x.a + n)

/-- The first pool byte of places that the task may not use. -/
def locBad (s : State) (k : Nat) (n : Nat) (ls : List Loc) : Option Nat :=
  ls.findSome? fun l => if l.pool then firstBad s k l.tile l.a n false else none

/-- The chunks, or the fault before any byte moves. -/
def cmdChunks (c : EngCmd) (t : Nat) (s : State) : Except (Nat × Nat) (List Chunk) :=
  let fault (a : Nat) : Except (Nat × Nat) (List Chunk) := .error (cAccessFault, a)
  let simple (src : Loc) (dsts : List Loc) (n : Nat) : Except (Nat × Nat) (List Chunk) :=
    if n = 0 then .ok []
    else
      match locBad s c.task n (dsts ++ [src]) with
      | some a => fault a
      | none =>
          match dsts.find? fun d => locMeet src d n with
          | some d => fault d.a
          | none => .ok (copyChunks src dsts n)
  match c.op with
  | .copy o => simple ⟨bitOf o 0, t, c.a.toNat⟩ [⟨bitOf o 1, t, c.d.toNat⟩] c.b.toNat
  | .mcast o =>
      let tiles := mcastTiles t c.d
      let d := (c.d.extractLsb' 0 24).toNat
      if c.b.toNat ≠ 0 && !(tiles.all (s.region c.task).contains) then fault d
      else simple ⟨bitOf o 0, t, c.a.toNat⟩ ((tiles.filter fun u => !isMemTile u).map fun u => ⟨true, u, d⟩) c.b.toNat
  | .copy2d o =>
      let n := (c.b.extractLsb' 0 24).toNat
      let rows := (c.b.extractLsb' 24 16).toNat
      let strides := c.aux.headD 0
      let ss := asSigned 32 (strides.extractLsb' 0 32).toNat
      let ds := asSigned 32 (strides.extractLsb' 32 32).toNat
      let at_ (pool : Bool) (a : Nat) (st : Int) (r : Nat) : Loc := ⟨pool, t, vaAdd a (st * r)⟩
      let xs := (List.range rows).map fun r => (at_ (bitOf o 0) c.a.toNat ss r, at_ (bitOf o 1) c.d.toNat ds r)
      match locBad s c.task n (xs.flatMap fun x => [x.2, x.1]) with
      | some a => fault a
      | none =>
          match (xs.map (·.2)).find? fun d => xs.any fun x => locMeet x.1 d n with
          | some d => fault d.a
          | none => .ok (xs.map fun x => { src := x.1, dsts := [x.2], n := n, bad := none })
  | .gather o | .scatter o =>
      let arr := (c.b.extractLsb' 0 24).toNat
      let n := (c.b.extractLsb' 24 16).toNat
      let size := 2 ^ (c.b.extractLsb' 40 3).toNat
      let w := if bitOf o 0 then 8 else 4
      let out := match c.op with
        | .scatter _ => true
        | _ => false
      if n = 0 then .ok []
      else
        match (firstBad s c.task t c.d.toNat (n * size) false).or (firstBad s c.task t arr (w * n) false) with
        | some a => fault a
        | none =>
            if s.poolPoisoned t arr (w * n) then .error (cEccUncorr, arr)
            else
              .ok ((List.range n).map fun i =>
                let va := vaAdd c.a.toNat (asSigned (8 * w) (s.poolLoad t (arr + w * i) w) * size)
                let g : Loc := ⟨false, t, va⟩
                let p : Loc := ⟨true, t, c.d.toNat + i * size⟩
                { src := if out then p else g, dsts := [if out then g else p], n := size,
                  bad := if va % min size 8 = 0 then none else some va })
  | _ => .ok []

/-! ## Stops (R272-R274) -/

/-- The engine that performs an operation: 0 copy, 3 gather. -/
def engineOf (i : Instr) : Nat :=
  match i with
  | .gather _ | .scatter _ => 3
  | _ => 0

/-- A stopped sequencer command: its record and CERR or GERR. -/
def copyStop (c : EngCmd) (t code done addr : Nat) (s : State) : State :=
  let th := c.th.getD 0
  let e := engineOf c.op
  let r : FaultRec :=
    { code := code, die := dieOfTile t, io := false, tileByte := tileByte t, unit := 0xFF, flags := numOfThread th * 16,
      node := (c.pc.extractLsb' 0 16).toNat, tag := 0, task := s.instanceId c.task, cycle := s.cycleOf t, op0 := c.d,
      op1 := c.a, addr := BitVec.ofNat 64 addr }
  (s.record r).modThread th fun x =>
    { x with err := wordPut e (BitVec.ofNat 64 (code + 2 ^ 16 + c.op.opc.toNat % 16 * 2 ^ 20 + done % 2 ^ 20 * 2 ^ 24 +
        c.num % 2 ^ 20 * 2 ^ 44)) x.err }

/-- The chunks a node's command had done when it parked. -/
def EngCmd.doneChunks (c : EngCmd) : Nat := (c.aux.getD 1 0).toNat

/-- A command that stops once the chunks below are written: its record, and CERR or GERR of its thread; a node's PAGE_FAULT parks
it (R272, R274). -/
def State.stopJob (s : State) (t : Nat) (j : EngJob) (num code addr : Nat) : State :=
  let c := j.cmd
  let finish (s : State) : State := s.modJob t c.id fun j => { j with stop := none, over_ := true }
  match c.th with
  | some _ => finish (copyStop c t code num addr s)
  | none =>
      if code = cPageFault then
        (s.peRecord c.fir.pe c.task (s.relNode c.task c.fir.slot) code c.fir.tag (firstWord c.fir.l) (firstWord c.fir.r)
          (BitVec.ofNat 64 addr) parkFlag).modTile t fun x =>
            { x with engRun := x.engRun.filter (fun y => y.cmd.id != c.id),
                     engParked := x.engParked ++ [{ c with aux := [0, BitVec.ofNat 64 num] }] }
      else finish ((s.fireRecord c.fir code (BitVec.ofNat 64 addr)).modJob t c.id fun j => { j with cmd := { j.cmd with aux := [1] } })

/-- A command that has nothing left to do and no request out is over (R272, R276). -/
def State.settleJob (s : State) (t : Nat) (j : EngJob) : State :=
  if j.over_ || !j.xs.isEmpty || !j.moves.isEmpty || !j.tails.isEmpty || s.engOut t j.cmd.id then s
  else
    match j.stop with
    | some (num, code, addr) => s.stopJob t j num code addr
    | none => s.modJob t j.cmd.id fun j => { j with over_ := true }

/-- A command's turn: a chunk is begun, reads are sent, chunks whose bytes are there are written. One that a bank's quota holds is
traced once (R247, R270). -/
def State.jobTurn (t : Nat) (s : State) (j : EngJob) : State :=
  let j1 := j.begin s t
  let r := readMoves t j1.cmd j1.moves s
  let w := writeMoves t j1.cmd r.2 j1.tails r.1
  let xs := if w.bad.isSome then [] else j1.xs
  let last := if w.moves.isEmpty && xs.isEmpty then flushTails t j1.cmd (j1.next - 1) w.tails w.s else (w.s, w.tails)
  let j2 : EngJob := { j1 with moves := w.moves, stop := w.bad.or j1.stop, xs := xs, tails := last.2 }
  let parked := match j2.waiting with
    | some p => !last.1.bankFree t (some p.a) && !p.pool
    | none => false
  let s := if parked && !j.held then
      last.1.bankPark t 0 (j.cmd.pc.extractLsb' 0 16).toNat 0xFF (numOfThread (j.cmd.th.getD 0)) ((j2.waiting).map (·.a))
    else last.1
  let j3 : EngJob := { j2 with held := parked }
  (s.modJob t j.cmd.id fun _ => j3).settleJob t j3

/-- A command is taken at the chunk it stands at; one suppressed by its thread's error register does nothing (R272). -/
def runEngine (c : EngCmd) (t : Nat) (s : State) : State :=
  let suppressed := match c.th with
    | some th => (s.thread th).errValid (engineOf c.op)
    | none => false
  let done := if c.th.isNone then c.doneChunks else 0
  let j : EngJob := { cmd := c, xs := [], next := done, moves := [], stop := none, held := false, over_ := suppressed, tails := [] }
  let j : EngJob :=
    if suppressed then j
    else
      match cmdChunks c t s with
      | .error (code, addr) => { j with stop := some (0, code, addr) }
      | .ok xs => { j with xs := xs.drop done }
  (s.modTile t fun x => { x with engRun := x.engRun ++ [j] }).jobTurn t j

/-- A request of a command has had no reply: the command stops at its chunk (R272, R290). -/
def State.engineTimeout (s : State) (t id : Nat) (r : Req) : State :=
  let num := match r.op with
    | .eread m _ _ | .ewrite m _ => m
    | _ => 0
  s.modJob t id fun j =>
    { j with xs := [], moves := j.moves.filter fun m => decide (m.num < num),
             stop := match j.stop with
               | some (m, x) => if num < m then some (num, cReqTimeout, r.va.toNat) else some (m, x)
               | none => some (num, cReqTimeout, r.va.toNat) }

/-! ## Taking commands (R269-R271) -/

/-- `.ord` (R299, R300). -/
def EngCmd.ordered (c : EngCmd) : Bool :=
  match c.op with
  | .copy o | .copy2d o | .gather o | .scatter o | .mcast o => bitOf o 2
  | _ => false

/-- The command may be taken (R271): the stores before it are performed and, with `.ord`, the commands before it are
complete. A sequencer command keeps the stores' numbers behind its first snapshot word. -/
def engReady (s : State) (t : Nat) (c : EngCmd) : Bool :=
  match c.th with
  | none => true
  | some th =>
      ((c.aux.drop 1).all fun id => match s.req? id.toNat with
        | some r => !r.unperformed
        | none => true) &&
      (!c.ordered || !((s.tile t).engRun.any fun x => x.cmd.th == some th && engineOf x.cmd.op == engineOf c.op))

/-- Commands of an engine in progress. -/
def engBusy (s : State) (t e : Nat) : Nat := ((s.tile t).engRun.filter fun j => engineOf j.cmd.op == e).length

/-- Take the head of the per-thread queues. -/
def takeSeq (t e : Nat) (s : State) : Option State :=
  let last := if e = 0 then (s.tile t).copyLast else (s.tile t).gathLast
  match nextServed s t last e with
  | none => none
  | some th =>
      match (s.thread th).queue e with
      | [] => none
      | c :: rest =>
          if !engReady s t c then none
          else
            let s := (s.modThread th (·.setQueue e rest)).modTile t fun x =>
              if e = 0 then { x with copyLast := numOfThread th, copySeqNext := false }
              else { x with gathLast := numOfThread th, gathSeqNext := false }
            some (runEngine c t s)

/-- Take the head of the node-source queue. -/
def takeNode (t e : Nat) (s : State) : Option State :=
  match (if e = 0 then (s.tile t).copyNode else (s.tile t).gathNode) with
  | [] => none
  | c :: rest =>
      let s := s.modTile t fun x =>
        if e = 0 then { x with copyNode := rest, copySeqNext := true } else { x with gathNode := rest, gathSeqNext := true }
      some (runEngine c t s)

/-- Take a parked command that REPLAY has let go on (R274). -/
def takeAgain (t e : Nat) (s : State) : Option State :=
  match (s.tile t).engParked.find? fun c => c.aux.getD 2 0 == 1 && engineOf c.op == e with
  | none => none
  | some c =>
      let s := s.modTile t fun x => { x with engParked := x.engParked.filter fun y => y.id != c.id }
      some (runEngine { c with aux := [0, c.aux.getD 1 0] } t s)

/-- The next command an engine takes: one that REPLAY resumes, else the two sources alternately (R269, R274). -/
def takeNext (t e : Nat) (s : State) : Option State :=
  let seq := if e = 0 then (s.tile t).copySeqNext else (s.tile t).gathSeqNext
  (takeAgain t e s).or
    (if seq then (takeSeq t e s).or (takeNode t e s) else (takeNode t e s).or (takeSeq t e s))

/-- The commands in progress at an engine go on. -/
def State.engineGo (s : State) (t e : Nat) : State :=
  ((s.tile t).engRun.filter fun j => engineOf j.cmd.op == e).foldl (State.jobTurn t) s

/-- An engine's turn: what it has in progress goes on, then it takes a command while it holds fewer than n; e is 0 or 3 (R270). -/
def engineTake (t e n : Nat) (s : State) : State :=
  if s.stopped t || isMemTile t then s
  else
    let s := s.engineGo t e
    if n ≤ engBusy s t e then s else (takeNext t e s).getD s

/-- COPY_ENGINE_TAKE (R269-R272). -/
def execCopyEngineTake (tile : Nat) (s : State) : Out := ok (engineTake tile 0 8 s)

/-- GATHER_ENGINE_TAKE (R269-R272). -/
def execGatherEngineTake (tile : Nat) (s : State) : Out := ok (engineTake tile 3 4 s)

/-- A node's result: the destination of a GATHER, else 0 (R301). -/
def engPayload (c : EngCmd) : Nat :=
  match c.op with
  | .gather _ => c.d.toNat
  | _ => 0

/-- ENGINE_COMMAND_COMPLETE (R276, R274). -/
def execEngineCommandComplete (tile k : Nat) (s : State) : Out :=
  match (s.tile tile).engRun[k]? with
  | none => ok s
  | some j =>
      if s.stopped tile || !j.over_ then ok s
      else
        let c := j.cmd
        let s := s.modTile tile fun x => { x with engRun := x.engRun.eraseIdx k }
        match c.th with
        | some th => ok (s.modThread th (·.complete (engineOf c.op) (BitVec.ofNat 64 c.num)))
        | none => ok ((s.emit c.fir c.fir.tag [narrow (engPayload c) (c.aux.headD 0 == 1)]).settleNodes tile)

/-! ## Carrier A (R299, R300) -/

/-- An address operand: a pool address, or a VA that is checked apart. -/
def engAddrOk (pool : Bool) (w : Word) : Bool := !pool || (w.extractLsb' 24 40) == 0

/-- The first offending register of a command, in the order d, a, b, b+1 (R299, R300). -/
def engError (i : Instr) (d a b : Word) : Option Word :=
  let first (x y z : Bool) : Option Word := if !x then some d else if !y then some a else if !z then some b else none
  match i with
  | .copy o => first (engAddrOk (bitOf o 1) d) (engAddrOk (bitOf o 0) a) ((b.extractLsb' 32 32) == 0)
  | .copy2d o =>
      first (engAddrOk (bitOf o 1) d) (engAddrOk (bitOf o 0) a)
        ((b.extractLsb' 0 24) != 0 && (b.extractLsb' 40 24) == 0 && o.b != 0 && !o.b.getLsbD 0)
  | .mcast o =>
      first ((d.extractLsb' 40 24) == 0 && (d.extractLsb' 24 4).ule (d.extractLsb' 32 4) && (d.extractLsb' 28 4).ule (d.extractLsb' 36 4))
        (engAddrOk (bitOf o 0) a) (decide (b.toNat ≤ 0x200000))
  | _ => first (engAddrOk true d) true ((b.extractLsb' 0 3) == 0 && (b.extractLsb' 43 21) == 0)

/-- The first global address with bits [63:56] not zero (R299). -/
def engFar (i : Instr) (d a : Word) : Option Word :=
  let far (pool : Bool) (w : Word) : Bool := !pool && (w.extractLsb' 56 8) != 0
  match i with
  | .copy o | .copy2d o => if far (bitOf o 1) d then some d else if far (bitOf o 0) a then some a else none
  | .mcast o => if far (bitOf o 0) a then some a else none
  | _ => if far false a then some a else none

/-- The thread's stores that must be performed before the command is taken (R271). -/
def State.openStores (s : State) : List Word :=
  (s.reqs.filter fun r => r.thread? == some s.cur.th && r.unperformed && (match r.op with
    | .store _ _ | .iswrite _ | .isclr _ _ => true
    | _ => false)).map fun r => BitVec.ofNat 64 r.id

/-- A copy or gather command of a thread. -/
def issueEngine (i : Instr) (o : AR) (extra : Word) (s : State) : Out :=
  let d := s.greg o.d
  let a := s.greg o.a
  let b := s.greg o.b
  if isMemTile s.myTile then ok (s.trap cIllegalOp s.cur.word)
  else
    match engError i d a b, engFar i d a with
    | some w, _ => ok (s.trap cIllegalDesc w)
    | none, some w => ok (s.trap cAccessFault w)
    | none, none =>
        if s.me.queueFull (engineOf i) then ok s.hold
        else ok ((s.enqueue (engineOf i) i d a b 0 (extra :: s.openStores)).fresh.advance)

/-- COPY (R299). -/
def execCopy (o : AR) (s : State) : Out := issueEngine (.copy o) o 0 s

/-- COPY2D (R299). -/
def execCopy2d (o : AR) (s : State) : Out := issueEngine (.copy2d o) o (s.greg (o.b + 1)) s

/-- GATHER (R300). -/
def execGather (o : AR) (s : State) : Out := issueEngine (.gather o) o 0 s

/-- SCATTER (R300). -/
def execScatter (o : AR) (s : State) : Out := issueEngine (.scatter o) o 0 s

/-- MCAST (R299). -/
def execMcast (o : AR) (s : State) : Out := issueEngine (.mcast o) o 0 s

/-! ## Carrier N (R274, R301) -/

/-- The command of a node's scalar: the operation and d, a, b; `over` an operand word too long for its field. -/
structure EngOps where
  op : Instr
  d : Word
  a : Word
  b : Word
  excess : Option Word
  deriving DecidableEq, Repr, Inhabited

/-- GATHER's and SCATTER's descriptor from the index array and the literal. -/
def nodeIndexWord (n : NRec) (arr : Word) : Word :=
  (arr &&& 0xFFFFFF) ||| BitVec.ofNat 64 ((n.lit32.extractLsb' 0 16).toNat * 2 ^ 24 + (n.lit32.extractLsb' 16 3).toNat * 2 ^ 40)

def engNodeOps (op : AR → Instr) (f : Firing) : EngOps :=
  let n := f.node.r
  let l := portWord f.l
  let r := portWord f.r
  let c := portWord f.c
  match op default with
  | .copy _ =>
      let o : AR := { d := 0, a := 0, b := 0, f := BitVec.ofNat 6 ((if n.rnd.getLsbD 1 then 1 else 0) + if n.rnd.getLsbD 2 then 2 else 0) }
      { op := op o, d := r, a := l, b := n.lit32.setWidth 64, excess := none }
  | _ =>
      let o : AR := { d := 0, a := 0, b := 0, f := if n.lit32.getLsbD 19 then 1 else 0 }
      { op := op o, d := c, a := l, b := nodeIndexWord n r, excess := overWord r 24 }

/-- One scalar of a node command (R274, R301). -/
def engScalar (op : AR → Instr) (s : State) (f : Firing) : State :=
  let t := tileOfPe f.pe
  let x := engNodeOps op f
  let c : EngCmd :=
    { th := none, num := 0, op := x.op, d := x.d, a := x.a, b := x.b, shape := 0, exc := 0, pc := 0, aux := [],
      task := f.task, fir := f, id := s.nextId }
  let bad (code : Nat) (w : Word) : State := (s.fireRecord f code w).emit f f.tag [narrow (engPayload c) true]
  if f.nul then s.emit f f.tag f.nulls
  else if f.anyP then s.emit f f.tag [narrow (engPayload c) true]
  else
    match engError x.op x.d x.a x.b, x.excess, engFar x.op x.d x.a with
    | some w, _, _ => bad cIllegalDesc w
    | none, some w, _ => bad cIllegalDesc w
    | none, none, some w => bad cAccessFault w
    | none, none, none =>
        (s.modTile t fun y =>
          if engineOf x.op = 0 then { y with copyNode := y.copyNode ++ [c] } else { y with gathNode := y.gathNode ++ [c] }).fresh

/-- The node-source queue of an engine: 0 copy, 3 gather. -/
def Tile.engNode (x : Tile) (e : Nat) : List EngCmd := if e = 0 then x.copyNode else x.gathNode

/-- A copy or gather node fires into the node-source queue of its engine (R269). -/
def fireEngine (op : AR → Instr) (s : State) : Out :=
  let e := engineOf (op default)
  fireQueued e (fun x => ((x.tile (tileOfPe s.cur.fir.pe)).engNode e).length) (engScalar op) s

/-- COPY on a node (R301). -/
def execCopyNode (s : State) : Out := fireEngine .copy s

/-- GATHER on a node (R301). -/
def execGatherNode (s : State) : Out := fireEngine .gather s

/-- SCATTER on a node (R301). -/
def execScatterNode (s : State) : Out := fireEngine .scatter s

end Sys2Proof.Machine
end

