-- ==== Sys2Proof/Machine/Channels.lean ====
section
/-! DEFINITION. Stream ports in use: rings, delivery, credits, token FIFOs, circuits that change their route, role swaps
(10_remote_memory_class.md R283-R287, R292, R293, R302; 09_local_memory_class.md R240). -/

namespace Sys2Proof.Machine

/-! ## CHOPEN and CHCLOSE (R302) -/

def ringAddr (w : Word) : Nat := (w.extractLsb' 0 24).toNat
def ringSlots (w : Word) : Nat := 2 ^ (w.extractLsb' 24 4).toNat

def portWordOk (w : Word) : Bool := (w.extractLsb' 5 59) == 0

def ringWordOk (w : Word) : Bool :=
  (w.extractLsb' 0 4) == 0 && decide (2 ≤ (w.extractLsb' 24 4).toNat ∧ (w.extractLsb' 24 4).toNat ≤ 12) &&
    (w.extractLsb' 28 36) == 0

/-- The key of the port a port word names: bit 4 is the direction. -/
def portKey (w : Word) : Nat := (w.extractLsb' 0 5).toNat

/-- A port that the configuration gave to the task on this tile, without an address. -/
def State.openPort? (s : State) (w : Word) : Option Port :=
  (s.port? s.myTile (portKey w)).filter fun p => some p.task == s.myTask && p.addr.isNone

/-- CHOPEN (R302). -/
def execChopen (o : AR) (s : State) : Out :=
  let a := s.greg o.a
  let b := s.greg o.b
  if !portWordOk a then ok (s.trap cIllegalDesc a)
  else if !ringWordOk b then ok (s.trap cIllegalDesc b)
  else
    match s.openPort? a with
    | none => ok (s.trap cAccessFault a)
    | some p =>
        if !poolOk s s.myTask s.myTile (ringAddr b) (16 + 16 * ringSlots b) false then ok (s.trap cAccessFault a)
        else if p.ring.isSome then ok (s.result o.d 0)
        else ok ((s.setPort s.myTile (portKey a) { p with ring := some (s.cur.th, b, 0), part := 0 }).result o.d 1)

/-- TAIL and HEAD of a ring (R232). -/
def State.ringTail (s : State) (t : Nat) (w : Word) : Nat := s.poolLoad t (ringAddr w) 4
def State.ringHead (s : State) (t : Nat) (w : Word) : Nat := s.poolLoad t (ringAddr w + 4) 4

/-- CHCLOSE (R302): an outbound port's bundle does not issue until its ring is drained. -/
def execChclose (o : AR) (s : State) : Out :=
  let a := s.greg o.a
  if !portWordOk a then ok (s.trap cIllegalDesc a)
  else
    match s.openPort? a with
    | none => ok (s.trap cAccessFault a)
    | some p =>
        match p.ring with
        | none => ok (s.result o.d 0)
        | some (th, w, n) =>
            if th ≠ s.cur.th then ok (s.result o.d 0)
            else
              let key := portKey a
              let done (s : State) : State := s.result o.d (BitVec.ofNat 64 n)
              if key < 16 then ok (done (s.setPort s.myTile key { p with ring := none, part := 0 }))
              else if s.ringTail s.myTile w ≠ s.ringHead s.myTile w then ok s.hold
              else
                let s1 := s.setPort s.myTile key { p with ring := none }
                let e : Token := { tag := s.greg o.b, dest := 0, words := [countWord (n % 2 ^ 32) false], eos := true }
                ok (done (if o.f.getLsbD 0 then s1.portToken s.myTile key e else s1))

/-! ## Delivery at an inbound port (R283, R285) -/

/-- The source number of a stream port at a PE's input. -/
def portSource (t key : Nat) : Nat := 2 ^ 42 + t * 32 + key

/-- Beats leave an inbound port: their credits return. -/
def State.returnCredits (s : State) (p : Port) (n : Nat) : State :=
  match p.circuit with
  | none => s
  | some c => match s.circuit? c with
      | some x => s.sendCredits c x n
      | none => s

/-- Beats a token-FIFO tile's queue holds: its SRAM in equal parts (R286). -/
def State.fifoCap (s : State) (t : Nat) : Nat :=
  let ps := (s.tile t).ports
  let n := (ps.filter fun x => decide (x.1 < 16) && (mapFind? ps (16 + x.1)).isSome).length
  0x400000 / 16 / max n 1

/-- An inbound port delivers what it may: whole tokens to its address, beats to a FIFO queue with a partner. -/
def State.deliver (s : State) (t key : Nat) : State :=
  match s.port? t key with
  | none => s
  | some p =>
      if p.stop || s.stopped t then s
      else if isMemTile t && (s.tile t).mrole == 1 then
        if (s.port? t (16 + key)).isNone then s
        else
          let n := min p.beats.length (s.fifoCap t - s.fifoHeld t key)
          (s.setPort t key { p with beats := p.beats.drop n, fifo := p.fifo ++ p.beats.take n,
                                    deliv := (p.deliv + n) % 2 ^ 32 }).returnCredits p n
      else
        match p.addr, firstToken p.beats with
        | some d, some (tok, rest) =>
            let n := p.beats.length - rest.length
            let tok := { tok with dest := d }
            ((s.setPort t key { p with beats := rest, deliv := (p.deliv + n) % 2 ^ 32 }).returnCredits p n).toInput
              (t * 16 + (d.extractLsb' 12 4).toNat) (portSource t key) tok
        | _, _ => s

/-- STREAM_BEAT_ARRIVAL (R285): the next beat of a circuit reaches its inbound port, which holds 64; a complete token is
delivered. Once the consumer has completed its beats are discarded (R383). -/
def execStreamBeatArrival (c : Nat) (s : State) : Out :=
  match s.circuit? c with
  | none => ok s
  | some x =>
      match x.wire, (s.port? x.dst.1 x.dst.2).filter fun p => p.circuit == some c with
      | b :: rest, some p =>
          if s.stopped x.dst.1 then ok s
          else if 64 ≤ p.beats.length then ok (s.deliver x.dst.1 x.dst.2)
          else
            ok (((s.modCircuit c fun x => { x with wire := rest }).setPort x.dst.1 x.dst.2
              { p with beats := p.beats ++ [b] }).deliver x.dst.1 x.dst.2)
      | [], some _ => ok (s.deliver x.dst.1 x.dst.2)
      | _ :: rest, none => ok ((s.modCircuit c fun x => { x with wire := rest }).sendCredits c x 1)
      | [], none => ok s

/-- STREAM_CREDIT_RETURN (R285): a credit reaches the outbound port, which sends its next beat. -/
def execStreamCreditReturn (c : Nat) (s : State) : Out :=
  match s.circuit? c with
  | none => ok s
  | some x =>
      if x.creds = 0 || s.stopped x.src.1 then ok s
      else
        match s.port? x.src.1 x.src.2 with
        | none => ok s
        | some p =>
            ok (((s.modCircuit c fun x => { x with creds := x.creds - 1 }).setPort x.src.1 x.src.2
              { p with credits := p.credits + 1 }).portSend x.src.1 x.src.2)

/-- FIFO_FORWARD (R286): the oldest complete token of inbound port j is the next that outbound port j sends, with its own delivery
address stamped; its beats stay queued until a credit lets them go. -/
def execFifoForward (tile port : Nat) (s : State) : Out :=
  match s.port? tile port, s.port? tile (16 + port) with
  | some p, some q =>
      if 16 ≤ port || s.stopped tile || !isMemTile tile || (s.tile tile).mrole != 1 || !q.beats.isEmpty then ok s
      else
        match firstToken p.fifo with
        | none => ok s
        | some (_, rest) =>
            let n := p.fifo.length - rest.length
            let bs := restamp (s.farAddr q) 0 (p.fifo.take n)
            let s := (s.setPort tile port { p with fifo := rest }).setPort tile (16 + port) { q with beats := bs }
            ok ((s.portSend tile (16 + port)).deliver tile port)
  | _, _ => ok s

/-! ## Rings (R232, R302) -/

/-- The token of the record at HEAD of an outbound ring. -/
def State.ringRecord (s : State) (t : Nat) (w : Word) : Token :=
  let q := ringAddr w + 16 + 16 * (s.ringHead t w % ringSlots w)
  let flags := s.poolLoad t (q + 12) 1
  { tag := BitVec.ofNat 64 (s.poolLoad t q 8), dest := 0,
    words := [{ w := BitVec.ofNat 64 (s.poolLoad t (q + 8) 4), p := false, n := flags.testBit 0, wide := false }],
    eos := flags.testBit 1 }

/-- Write word i of a token as the record at TAIL of an inbound ring. -/
def State.ringWrite (s : State) (t k : Nat) (w : Word) (tok : Token) (i : Nat) : State :=
  let tail := s.ringTail t w
  let q := ringAddr w + 16 + 16 * (tail % ringSlots w)
  let x := tok.words.getD i default
  let tag := if tok.eos then tok.tag else s.withF0 k tok.tag (s.f0 k tok.tag + i)
  let flags := (if x.n then 1 else 0) + (if tok.eos then 2 else 0) + (if x.p then 4 else 0)
  (s.poolWrite t q (natToBytes 8 tag.toNat ++ natToBytes 4 x.w.toNat ++ [BitVec.ofNat 8 flags, 0, 0, 0])).poolWriteNat t
    (ringAddr w) 4 ((tail + 1) % 2 ^ 32)

/-- CHANNEL_RING_SCAN (R302): a bound port moves one record. -/
def execChannelRingScan (tile port : Nat) (out : Bool) (s : State) : Out :=
  let key := port % 16 + if out then 16 else 0
  match s.port? tile key with
  | none => ok s
  | some p =>
      match p.ring with
      | none => ok s
      | some (th, w, n) =>
          if s.stopped tile || p.stop then ok s
          else if out then
            if s.ringTail tile w = s.ringHead tile w ∨ !p.beats.isEmpty then ok s
            else
              let tok := s.ringRecord tile w
              let head := (s.ringHead tile w + 1) % 2 ^ 32
              let s := s.setPort tile key { p with ring := some (th, w, n + 1) }
              ok ((s.poolWriteNat tile (ringAddr w + 4) 4 head).portToken tile key tok)
          else
            match firstToken p.beats with
            | none => ok s
            | some (tok, rest) =>
                let used := (s.ringTail tile w + 2 ^ 32 - s.ringHead tile w) % 2 ^ 32
                if ringSlots w ≤ used then ok s
                else
                  let s := s.ringWrite tile p.task w tok p.part
                  let all := decide (tok.words.length ≤ p.part + 1)
                  let m := if all then p.beats.length - rest.length else 0
                  let q := { p with ring := some (th, w, (n + 1) % 2 ^ 64), part := if all then 0 else p.part + 1,
                                    beats := if all then rest else p.beats, deliv := (p.deliv + m) % 2 ^ 32 }
                  ok ((s.setPort tile key q).returnCredits p m)

/-! ## Links and circuits (R292, R293) -/

/-- STREAM_CIRCUIT_REROUTE (R292): the switch is made once the beats in flight have drained; the new route is the
router's choice. -/
def execStreamCircuitReroute (c : Nat) (s : State) : Out :=
  match s.circuit? c with
  | none => ok s
  | some x =>
      if !x.moving || s.beatsOut c x then ok s
      else
        let route := (Config.circuitRoute s.tick c).filter fun l => !s.withdrawn.contains l
        ok ((s.modCircuit c fun x => { x with moving := false, route := route }).portSend x.src.1 x.src.2)

/-! ## Role swaps (R240) -/

/-- ROLE_SWAP_FILL_COMPLETE (R240): the SRAM is zero and every word PLAIN; the tile accepts requests. -/
def execRoleSwapFillComplete (tile : Nat) (s : State) : Out :=
  match (s.tile tile).fill with
  | none => ok s
  | some until_ =>
      if s.cycleOf tile < until_ || s.stopped tile then ok s
      else
        let lo := sramKey tile 0
        let inTile (k : Nat) : Bool := decide (lo ≤ k ∧ k < lo + 0x400000)
        let s := { s with mem := s.mem.filter fun c => !inTile c.1,
                          sstate := s.sstate.filter fun x => !inTile (8 * x.1),
                          ecc := s.ecc.filter fun w => !inTile (8 * w) }
        ok (s.modTile tile fun x => { x with fill := none })

end Sys2Proof.Machine
end

