-- ==== Sys2Proof/Machine/Atomics.lean ====
section
/-! DEFINITION. Atomics on both carriers, their application, combining switches, reproducible groups, ACOMB
(12_atomic_class.md R335-R356). -/

namespace Sys2Proof.Machine

/-! ## The operations (R337, R338) -/

/-- old + v of a width, in floating point: rounded to nearest even, subnormals kept. -/
def fsum (wide : Bool) (a b : Nat) : Nat :=
  let t := if wide then FType.fp64 else .fp32
  (t.round .rne false false (xadd .rne (t.decode a) (t.decode b)).v).bits

/-- The value written (R338). -/
def atomValue (x : AtomArgs) (old : Nat) : Nat :=
  let w := if x.wide then 64 else 32
  let v := x.v.toNat % 2 ^ w
  let less : Bool := if x.sg then decide (asSigned w v < asSigned w old) else decide (v < old)
  match x.op with
  | .add => (old + v) % 2 ^ w
  | .fadd => fsum x.wide old v
  | .min => if less then v else old
  | .max => if less then old else v
  | .and => Nat.land old v
  | .or => Nat.lor old v
  | .xor => Nat.xor old v
  | .swap => v
  | .cas => if old = x.e.toNat % 2 ^ w then v else old

def AtomArgs.size (x : AtomArgs) : Nat := if x.wide then 8 else 4

/-- A failing ACAS performs no write (R338). -/
def AtomArgs.writes (x : AtomArgs) (old : Nat) : Bool := x.op != .cas || old == x.e.toNat % 2 ^ (8 * x.size)

/-! ## Carrier A (R336, R339, R340, R342) -/

/-- The group count of a REPRO AFADD or AREDN fadd (R339). -/
def State.groupWord (s : State) (o : AX) (fadd : Bool) : Option Word := if o.repro && fadd then some (s.greg (o.b + 1)) else none

/-- A request with a scope and an ORDER of the issuing thread: its release goes before it, its acquire at the reply
(R342, R331). -/
def State.issueScoped (s : State) (op : ReqOp) (o : AX) (dest : PReg) (counts : Bool) : State :=
  let th := s.cur.th
  let k := s.myTask.getD 0
  let idx := o.scope.toNat
  if s.scopeHolds k s.myTile idx then s.hold
  else
    match s.snapScope k s.myTile idx with
    | none => s.trap cScopeStale (BitVec.ofNat 64 idx)
    | some x =>
        let order := o.order.toNat
        let rel := if relOrder order then s.threadBefore th 2 x else []
        let before := s.threadBefore th order x
        let id := s.nextId
        let r := { s.threadReq op (s.greg o.a) dest counts with snap := x, after := rel, order := order }
        let s1 := s.issueReq r dest counts
        if s1.cur.held then s1
        else
          s1.modMe fun t =>
            { t with fence := before.map (fun i => (i, false)) ++ if acqOrder order then [(id, true)] else [] }

/-- An atomic of a thread. -/
def issueAtomic (op : AOp) (sg wide ret : Bool) (o : AX) (s : State) : Out :=
  let va := s.greg o.a
  let n := if wide then 8 else 4
  if !globalOk va n then ok (s.trap cAccessFault va)
  else
    let grp := s.groupWord o (op == .fadd)
    match grp with
    | some g =>
        if g = 0 ∨ 4096 < g.toNat then ok (s.trap cIllegalDesc g)
        else ok (go g.toNat (op == .fadd && o.repro))
    | none => ok (go 0 false)
where
  go (count : Nat) (repro : Bool) : State :=
    let x : AtomArgs :=
      { op := op, sg := sg, wide := wide, v := s.greg o.b, e := s.greg o.d, ret := ret, repro := repro,
        nocomb := o.nocomb || o.repro, count := count,
        key := [1, moduleOfTile s.myTile, s.myDie % 16, tileIdx s.myTile, numOfThread s.cur.th, s.me.order] }
    let dest := if ret then s.me.preg o.d else .none
    s.watched s.myAsid 3 false (s.greg o.a).toNat x.size fun s => s.issueScoped (.atomic x) o dest ret

def szBit (o : AX) : Bool := o.f.getLsbD 0
def sgBit (o : AX) : Bool := o.f.getLsbD 1

/-- AADD (R338). -/
def execAadd (o : AX) (s : State) : Out := issueAtomic .add false (szBit o) true o s

/-- AFADD (R338). -/
def execAfadd (o : AX) (s : State) : Out := issueAtomic .fadd false (szBit o) true o s

/-- AMIN (R338). -/
def execAmin (o : AX) (s : State) : Out := issueAtomic .min (sgBit o) (szBit o) true o s

/-- AMAX (R338). -/
def execAmax (o : AX) (s : State) : Out := issueAtomic .max (sgBit o) (szBit o) true o s

/-- AAND (R338). -/
def execAand (o : AX) (s : State) : Out := issueAtomic .and false (szBit o) true o s

/-- AOR (R338). -/
def execAor (o : AX) (s : State) : Out := issueAtomic .or false (szBit o) true o s

/-- AXOR (R338). -/
def execAxor (o : AX) (s : State) : Out := issueAtomic .xor false (szBit o) true o s

/-- ASWAP (R338). -/
def execAswap (o : AX) (s : State) : Out := issueAtomic .swap false (szBit o) true o s

/-- ACAS (R338): g[d] holds the expected value. -/
def execAcas (o : AX) (s : State) : Out := issueAtomic .cas false (szBit o) true o s

/-- AREDN's operation code (R339). -/
def arednOp (c : Nat) : AOp :=
  match c with
  | 0 => .add | 1 => .fadd | 2 => .min | 3 => .max | 4 => .and | 5 => .or | _ => .xor

/-- AREDN (R338, R340): posted, it writes no register. -/
def execAredn (o : AX) (s : State) : Out := issueAtomic (arednOp (o.f.extractLsb' 2 3).toNat) (sgBit o) (szBit o) false o s

/-! ## Carrier N (R341) -/

/-- The word of port C. -/
def cOf (f : Firing) : Word :=
  match f.c with
  | x :: _ => if x.wide then x.w else x.w &&& 0xFFFFFFFF
  | [] => 0

/-- The request of a node's scalar with its snapshot and the release set of its context: it is translated once its requests, its
fired wave operations and its engine commands are performed (R310, R324, R342). -/
def State.nodeScoped (s : State) (f : Firing) (op : ReqOp) : State :=
  let t := tileOfPe f.pe
  let order := f.node.r.litOrder.toNat
  match s.snapScope f.task t f.node.r.litScope.toNat with
  | none => (s.fireRecord f cScopeStale (addrOf f)).nodeResult f 0 true false
  | some x =>
      let n := s.nodeFence f (.scoped s.nextId) 2 x
      let loads := s.nodeFence f .order 1 x
      let s2 := s.nodeReq f false op (addrOf f) false order x (if relOrder order then n.reqs else [])
      let s2 := if acqOrder order && !(loads.reqs.isEmpty && loads.firs.isEmpty) then
          s2.modTile t fun y => { y with fences := y.fences ++ [loads] }
        else s2
      if relOrder order && !(n.firs.isEmpty && n.cmds.isEmpty) then
        s2.modTile t fun y => { y with fences := y.fences ++ [{ n with reqs := [] }] }
      else s2

/-- One scalar of an atomic node. -/
def atomScalar (op : AOp) (ret : Bool) (s : State) (f : Firing) : State :=
  let n := f.node.r
  let wide := f.r.any (·.wide)
  let counted := n.repro && op == .fadd
  let data := counted || op == .cas
  if f.nul then s.emitNull f
  else if f.l.any (·.p) || f.r.any (·.p) || (data && f.c.any (·.p)) then
    (s.fireRecord f cPoisonStore (addrOf f)).nodeResult f 0 true false
  else if counted && (cOf f == 0 || decide (4096 < (cOf f).toNat)) then
    (s.fireRecord f cIllegalDesc (addrOf f)).nodeResult f 0 true false
  else if !globalOk (addrOf f) (if wide then 8 else 4) then
    (s.fireRecord f cAccessFault (addrOf f)).nodeResult f 0 true false
  else
    s.nodeScoped f (.atomic
      { op := op, sg := n.etype == .i32, wide := wide, v := dataOf f, e := cOf f, ret := ret, repro := counted,
        nocomb := n.repro, count := if counted then (cOf f).toNat else 0, key := [0, f.tag.toNat] })

/-- A node of classes 10 or 11 fires: an E passes, a marked scope entry, a fence of its context or a full
admission queue holds it (R247, R311, R324). -/
def fireScoped (each : State → Firing → State) (s : State) : Out :=
  let f := s.cur.fir
  let t := tileOfPe f.pe
  if f.eos then ok ((s.beginFire.traceFire f f.tag f.l).passE f)
  else if s.scopeHolds f.task t f.node.r.litScope.toNat || s.contextHolds f then ok s.hold
  else
    let s2 := (s.scalars f).foldl each (s.beginFire.traceFire f f.tag f.l)
    if s2.queueFits t then ok s2 else ok s.hold

/-- The access of an atomic node's scalar as the comparators see it. -/
def atomAccess (f : Firing) : NodeAccess :=
  let n := if f.r.any (·.wide) then 8 else 4
  { op := .pref, size := n, span := n, pool := false, store := false }

/-- An atomic node fires, unless a watch stops it (R464). -/
def fireAtomic (each : State → Firing → State) (s : State) : Out :=
  let f := s.cur.fir
  let r := fireScoped each (s.clearPass f)
  let held := match r with
    | .next s => s.cur.held
    | _ => true
  if held || f.eos then r
  else
    match s.nodeWatch f atomAccess 3 with
    | none => r
    | some n =>
        match s.cause (tileOfPe f.pe) 2 0 n 0 n (s.nodeStop f) with
        | (true, s) => ok (s.standFiring f)
        | (false, s) => fireScoped each s

/-- AADD on a node (R341). -/
def execAaddNode (s : State) : Out := fireAtomic (atomScalar .add true) s

/-- AFADD on a node (R341). -/
def execAfaddNode (s : State) : Out := fireAtomic (atomScalar .fadd true) s

/-- AMIN on a node (R341). -/
def execAminNode (s : State) : Out := fireAtomic (atomScalar .min true) s

/-- AMAX on a node (R341). -/
def execAmaxNode (s : State) : Out := fireAtomic (atomScalar .max true) s

/-- AAND on a node (R341). -/
def execAandNode (s : State) : Out := fireAtomic (atomScalar .and true) s

/-- AOR on a node (R341). -/
def execAorNode (s : State) : Out := fireAtomic (atomScalar .or true) s

/-- AXOR on a node (R341). -/
def execAxorNode (s : State) : Out := fireAtomic (atomScalar .xor true) s

/-- ASWAP on a node (R341). -/
def execAswapNode (s : State) : Out := fireAtomic (atomScalar .swap true) s

/-- ACAS on a node (R341). -/
def execAcasNode (s : State) : Out := fireAtomic (atomScalar .cas true) s

/-- AREDN on a node (R341): the operation in RND. -/
def execArednNode (s : State) : Out := fireAtomic (atomScalar (arednOp s.cur.fir.node.r.rnd.toNat) false) s

/-! ## At the region (R336, R338) -/

/-- A refusal at the target: a record; the requester gets zero, with P on a node. -/
def State.refuse (s : State) (r : Req) : State :=
  let s := s.recordAt (r.pa / 2 ^ 40) (s.issuerRecord r cAccessFault 0 0 0)
  match r.who with
  | .bobbin _ => s.fltFrom (r.pa / 2 ^ 40) r (.flt cAccessFault)
  | .node _ _ => s.answer r 0 true
  | _ => s.answer r 0 false

/-- The accesses of the issuers that a combined request stands for, in serial order, through as many switches as there are bobbins;
of another request, itself. -/
def State.partsOf (s : State) : Nat → Req → List Req
  | 0, _ => []
  | n + 1, r =>
      match r.who with
      | .bobbin b => (((mapFind? s.bobbins b).map Bobbin.reqs).getD []).flatMap fun q => ((s.req? q.id).map (s.partsOf n)).getD []
      | _ => [r]

def State.issuers (s : State) (r : Req) : List Req := s.partsOf (s.bobbins.length + 1) r

/-- The request's turn has come at its region: no access of one of its issuers that it does not stand for goes before (R250,
R344, R347). -/
def State.turnAt (s : State) (r : Req) : Bool :=
  let mine := s.issuers r
  let others : State := { s with reqs := s.reqs.filter fun q => !mine.any fun z => z.id == q.id }
  s.accepts r && mine.all fun q => !others.behind { q with pa := r.pa }

/-- An atomic is applied: nothing falls between its read and its write. -/
def State.applyAtomic (s : State) (r : Req) (x : AtomArgs) : State :=
  let n := x.size
  if !s.writable r.pa n then s.refuse r
  else if s.poisoned r.pa n then s.eccFault r
  else
    let old := s.readNat r.pa n
    let s := if x.writes old then s.writeNat r.pa n (atomValue x old) else s
    s.answer r (if x.ret then BitVec.ofNat 64 old else 0) false

/-- ATOMIC_APPLY (R338). -/
def execAtomicApply (r : Nat) (s : State) : Out :=
  match s.req? r with
  | none => ok s
  | some q =>
      match q.op with
      | .atomic x => if s.turnAt q && !x.repro then ok ((s.applyAtomic q x).afterApply q) else ok s
      | _ => ok s

/-! ## Reproducible groups (R351, R352) -/

/-- Lexicographic order of keys. -/
def keyLe : List Nat → List Nat → Bool
  | [], _ => true
  | _ :: _, [] => false
  | a :: as, b :: bs => decide (a < b) || (a == b && keyLe as bs)

/-- Insertion by key, equal keys in arrival order. -/
def insertContrib (c : Contrib) : List Contrib → List Contrib
  | [] => [c]
  | d :: ds => if keyLe c.key d.key then c :: d :: ds else d :: insertContrib c ds

def sortContribs : List Contrib → List Contrib
  | [] => []
  | c :: cs => insertContrib c (sortContribs cs)

/-- The die whose clock a region keeps. -/
def dieOfRegion (r : Nat × Nat) : Nat := r.2 / 256

def regionTileByte (r : Nat × Nat) : Nat := if r.1 = 0 then tileByte r.2 else 0

/-- A full group is applied (R351). On a location that an uncorrectable error has poisoned it writes nothing, and those who wait
for the old value meet the error (R429; log 55, DEDUCED). -/
def State.applyGroup (s : State) (gs : List Contrib) (pa : Nat) (wide : Bool) : State :=
  let t := if wide then FType.fp64 else .fp32
  let n := if wide then 8 else 4
  let terms := (sortContribs gs).map fun c => t.decode (c.v.toNat % 2 ^ (8 * n))
  let sum := (pairSum t false terms.length terms).1
  let old := s.readNat pa n
  let new := (t.round .rne false false (xadd .rne (t.decode old) sum).v).bits
  let bad := s.poisoned pa n
  let s : State := { s with contribs := s.contribs.filter fun c => !gs.contains c }
  gs.foldl (fun s c => match c.req.bind s.req? with
    | some r => if bad then s.eccFault r else s.answer r (BitVec.ofNat 64 old) false
    | none => s) (if bad then s else s.writeNat pa n new)

/-- REPRO_CONTRIBUTION_ARRIVAL (R351, R352): a contribution is held; a full group is applied. -/
def execReproContributionArrival (r : Nat) (s : State) : Out :=
  match s.req? r with
  | none => ok s
  | some q =>
      match q.op with
      | .atomic x =>
          if !x.repro || !s.turnAt q then ok s
          else if !s.writable q.pa x.size then ok ((s.refuse q).afterApply q)
          else
            let reg := regionOf false 0 q.pa
            if 4096 ≤ (s.contribs.filter fun c => heldStore c.pa == heldStore q.pa).length then
              ok (s.modReq r fun z => { z with stage := .refused (s.cycleOf q.tile + 256) })
            else
              let c : Contrib :=
                { region := reg, pa := q.pa, n := x.count, key := x.key, v := x.v, wide := x.wide,
                  req := if x.ret then some r else none, cycle := (s.die (dieOfRegion reg)).cycle }
              let s := { s with contribs := s.contribs ++ [c] }
              let s := if x.ret then s.modReq r fun z => { z with stage := .queued } else s.answer q 0 false
              let gs := s.contribs.filter fun d => d.pa == q.pa && d.n == x.count
              let s := if x.count ≤ gs.length then s.applyGroup gs q.pa x.wide else s
              ok (s.afterApply q)
      | _ => ok s

/-- REPRO_GROUP_ABANDON (R352): the group of the k-th held contribution, open 2^23 cycles after its first. -/
def execReproGroupAbandon (k : Nat) (s : State) : Out :=
  match s.contribs[k]? with
  | none => ok s
  | some c =>
      let gs := s.contribs.filter fun d => d.pa == c.pa && d.n == c.n
      let die := dieOfRegion c.region
      let first := (gs.head?.map (·.cycle)).getD 0
      if (s.die die).cycle < first + 2 ^ 23 then ok s
      else
        let s := { s with contribs := s.contribs.filter fun d => !gs.contains d }
        let s := s.recordAt die
          { code := cAtomicLost, die := die, io := false, tileByte := regionTileByte c.region, unit := 0, flags := 0, node := 0,
            tag := 0, task := 0, cycle := (s.die die).cycle, op0 := BitVec.ofNat 64 gs.length, op1 := BitVec.ofNat 64 c.n,
            addr := BitVec.ofNat 64 c.pa }
        ok (gs.foldl (fun s d => match d.req.bind s.req? with
          | some r => s.fltFrom (c.pa / 2 ^ 40) r (.flt cAtomicLost)
          | none => s) s)

/-! ## ACOMB (R354-R356) -/

/-- The operation on two 32-bit words with the classes it raises. -/
def acombOp (n : NRec) (ftz : Bool) (x y : Nat) : ERes :=
  let t := n.etype
  let r : RndSat := ⟨.rne, false⟩
  match n.rnd.toNat with
  | 0 => eAdd t r ftz x y 0
  | 1 => eMin t r ftz x y 0
  | 2 => eMax t r ftz x y 0
  | 3 => eAnd t r ftz x y 0
  | 4 => eOr t r ftz x y 0
  | _ => eXor t r ftz x y 0

/-- The count entry of a key at an ACOMB. -/
def State.acombEntry (s : State) (pe slot : Nat) (key : Word) : Option WEntry :=
  (s.pe pe).entry? fun e => e.slot == slot && e.tag == key && match e.kind with
    | .count _ _ _ _ => true
    | _ => false

/-- Contributions held whole for a key. -/
def State.held (s : State) (pe k slot : Nat) (key : Word) : List WEntry :=
  (s.pe pe).entries.filter fun e => e.kind == .contribution && e.slot == slot && s.keyOf k e.tag == key

/-- Insertion by tag, equal tags in arrival order. -/
def insertByTag (e : WEntry) : List WEntry → List WEntry
  | [] => [e]
  | d :: ds => if e.tag.toNat < d.tag.toNat ∨ (e.tag = d.tag ∧ e.seq ≤ d.seq) then e :: d :: ds else d :: insertByTag e ds

def sortByTag : List WEntry → List WEntry
  | [] => []
  | e :: es => insertByTag e (sortByTag es)

/-- The word of held contributions: pairsum for a floating add, else in order. One alone passes with its bits unchanged
(log 112). -/
def acombAll (n : NRec) (ftz : Bool) (ws : List Nat) : ERes :=
  if n.rnd = 0 ∧ n.etype = .fp32 ∧ ws.length ≠ 1 then
    let p := pairSum .fp32 ftz ws.length (ws.map fun w => FType.fp32.read ftz w)
    let v := FType.fp32.round .rne false ftz p.1
    (v.bits, p.2 ||| v.raised)
  else
    match ws with
    | [] => (0, 0)
    | w :: ws => ws.foldl (fun a x => let r := acombOp n ftz a.1 x; (r.1, a.2 ||| r.2)) (w, 0)

/-- COUNT_MISMATCH: the two counts in bytes 32-39 (R356). -/
def State.countRecord (s : State) (f : Firing) (a b : Nat) : State :=
  s.peRecord f.pe f.task (s.relNode f.task f.slot) cCountMismatch f.tag
    (BitVec.ofNat 64 (a % 2 ^ 32 + b % 2 ^ 32 * 2 ^ 32)) 0 0 0

/-- The combined word leaves under the key's tag, with its classes judged (R356, R111, R112). -/
def State.acombEmit (s : State) (f : Firing) (key : Word) (v : ERes) (p nul : Bool) : State :=
  let x := judge (s.taskModes f.task) v.2
  let s := s.emit f key [{ narrow v.1 (p || x != .clean) with n := nul }]
  match x with
  | .trap code => s.nodeTrap f code
  | _ => s

/-- A contribution is held whole under REPRO (R355): the entry, whether it found room, and the state. -/
def State.holdContribution (s : State) (f : Firing) (w : TWord) : Bool × State :=
  s.placeOf f.pe (s.newEntry f.pe f.task f.slot 0 f.seq f.tag .contribution [w]) f.tag (f.l ++ f.r)

/-- The contribution of a firing held for its group goes again. -/
def State.unholdContribution (s : State) (f : Firing) : State :=
  match (s.pe f.pe).entries.find? fun e => e.kind == .contribution && e.slot == f.slot && e.tag == f.tag && e.seq == f.seq with
  | some e => s.dropEntry f.pe e
  | none => s

/-- The first contribution of a group; a piece that finds no room is discarded and counts nothing (R209, R355). -/
def acombFirst (s : State) (f : Firing) (key : Word) (cnt : Nat) (w : TWord) (nul : Bool) : State :=
  let repro := f.node.r.repro
  let own := if repro && !nul then s.holdContribution f w else (true, s)
  if !own.1 then own.2
  else
    let words := if repro || nul then [] else [w]
    let put := own.2.placeOf f.pe (own.2.newEntry f.pe f.task f.slot 0 f.seq key
      (.count 1 (if nul then 0 else 1) (BitVec.ofNat 64 cnt) w.p) words) f.tag (f.l ++ f.r)
    if put.1 || !repro || nul then put.2 else put.2.unholdContribution f

/-- One contribution (R354-R356). A contribution that is the only one of its group that is not null passes with its bits unchanged: no
operation reads it (log 112; DESIGN CHOICE: the spec does not say whether it is made canonical or flushed). -/
def acombWord (s : State) (f : Firing) : State :=
  let n := f.node.r
  let repro := n.repro
  let ftz := s.taskFtz f.task
  let key := s.keyOf f.task f.tag
  let l := f.l.headD default
  let r := f.r.headD default
  let cnt := r.w.toNat % 2 ^ 32
  let inRange : Bool := decide (1 ≤ cnt ∧ cnt ≤ if repro then 4096 else 65535)
  let lw := l.w.toNat % 2 ^ 32
  let nul := l.n || r.n
  let p := l.p || r.p
  match s.acombEntry f.pe f.slot key with
  | none =>
      if !inRange then (s.countRecord f cnt 0).emit f key [{ narrow lw true with n := nul }]
      else if cnt = 1 then s.acombEmit f key (lw, 0) p nul
      else acombFirst s f key cnt (narrow lw p) nul
  | some e =>
      match e.kind with
      | .count c m want p0 =>
          let bad := !inRange || cnt != want.toNat
          let hs := s.held f.pe f.task f.slot key
          let ecc := (e :: hs).filter (s.entryBad f.pe)
          let last := decide (want.toNat ≤ c + 1)
          let q := p || p0 || bad || s.entryBad f.pe e || (last && !ecc.isEmpty)
          let m1 := m + if nul then 0 else 1
          let old := (e.words.head?.map (·.w.toNat)).getD 0
          let v : ERes := if nul then (old, 0) else if m = 0 || repro then (lw, 0) else acombOp n ftz old lw
          let s := if bad then s.countRecord f want.toNat cnt else s
          let s := (if last then ecc else ecc.filter (· == e)).foldl (fun s e => s.entryEcc f.pe e) s
          if !last then
            let own := if repro && !nul then s.holdContribution f (narrow lw p) else (true, s)
            if !own.1 then own.2
            else
              let words := if repro then [] else if m1 = 0 then [] else [narrow v.1 q]
              let verdict := judge (s.taskModes f.task) v.2
              let s := own.2.swapEntry f.pe e { e with kind := .count (c + 1) m1 want (q || verdict != .clean), words := words }
              match verdict with
              | .trap code => s.nodeTrap f code
              | _ => s
          else if repro then
            let mine := s.newEntry f.pe f.task f.slot 0 f.seq f.tag .contribution [narrow lw p]
            let ws := (sortByTag (hs ++ if nul then [] else [mine])).map fun e => (e.words.head?.map (·.w.toNat)).getD 0
            ((hs.foldl (fun s h => s.dropEntry f.pe h) s).dropEntry f.pe e).acombEmit f key (acombAll n ftz ws) q (m1 == 0)
          else (s.dropEntry f.pe e).acombEmit f key v q (m1 == 0)
      | _ => s

/-- ACOMB (R354-R356): it fires on nulls too, which count and add nothing. -/
def execAcomb (s : State) : Out :=
  let f := s.cur.fir
  let s := s.beginFire.traceFire f f.tag f.l
  if f.eos then ok (s.passE f) else ok ((s.scalars f).foldl acombWord s)

end Sys2Proof.Machine
end

