-- ==== Sys2Proof/Machine/Routes.lean ====
section
/-! DEFINITION. Routes of packets, and the streams in which they keep their order (01_machine.md R13; 10_remote_memory_class.md R248,
R287, R292, R295). -/

namespace Sys2Proof.Machine

/-! ## Routes (R13, R292, R295) -/

def moduleOfLoc (loc : Nat) : Nat := if isIo loc then ioNum loc / 2 else moduleOfDie loc

/-- One hop in the 4 by 4 arrangement: the row first, or the column first. -/
def gridNext (yx : Bool) (a b : Nat) : Nat :=
  let base := a - a % 16
  let x := a % 16 % 4
  let y := a % 16 / 4
  let tx := b % 16 % 4
  let ty := b % 16 / 4
  let along (x y : Nat) : Nat := base + 4 * y + x
  let stepX := along (if x < tx then x + 1 else x - 1) y
  let stepY := along x (if y < ty then y + 1 else y - 1)
  if yx then (if y = ty then stepX else stepY) else if x = tx then stepY else stepX

/-- The compute die by which traffic of die d's row enters or leaves IO die n. -/
def ioDoor (d n : Nat) : Nat := d - d % 4 + if n % 2 = 0 then 0 else 3

/-- The next place on the way to IO die n of the same module; from the other IO die through row 0 (log 11). -/
def towardIo (a n : Nat) : Nat :=
  if isIo a then ioNum a / 2 * 16 + (if ioNum a % 2 = 0 then 0 else 3)
  else if a = ioDoor a n then ioLoc n
  else gridNext false a (ioDoor a n)

/-- The next place of a packet at a on its way to a place of the same module. -/
def nextHop (yx : Bool) (a dst : Nat) : Nat :=
  if isIo dst then towardIo a (ioNum dst) else if isIo a then ioDoor dst (ioNum a) else gridNext yx a dst

/-- Where a packet's leg through its module ends: its target, or the IO die that sends it to the target's module (R295). -/
def Packet.leg (p : Packet) : Nat :=
  let m := moduleOfLoc p.at_
  let dm := moduleOfLoc p.dst
  if m = dm then p.dst else ioLoc (2 * m + dm % 2)

/-- The IO die by which a packet enters its target's module (R295). -/
def Packet.entry (p : Packet) : Nat := 2 * moduleOfLoc p.dst + moduleOfLoc p.at_ % 2

/-- A link by its two ends. -/
def linkOf (a b : Nat) : Nat := min a b * 2 ^ 21 + max a b

/-- A UALink port by its IO die and number. -/
def portLink (n port : Nat) : Nat := 2 ^ 43 + n * 128 + port

/-- A direction of a link. -/
def linkDir (a b : Nat) : Nat := 2 * linkOf a b + if a < b then 0 else 1

/-- A route within a module crosses a withdrawn link. -/
def routeCut (s : State) (yx : Bool) (dst : Nat) : Nat → Nat → Bool
  | 0, _ => false
  | n + 1, a => if a = dst then false else s.withdrawn.contains (linkOf a (nextHop yx a dst)) || routeCut s yx dst n (nextHop yx a dst)

/-- The next place by the routes that the router at a keeps: X then Y, unless a withdrawn link is on it and not on the other (R292,
R293). To and from an IO die R13 leaves one path. -/
def State.hop (s : State) (a dst : Nat) : Nat := nextHop (routeCut s false dst 8 a && !routeCut s true dst 8 a) a dst

/-- The places still to come on the way to a place of the same module. -/
def State.path (s : State) (dst : Nat) : Nat → Nat → List Nat
  | 0, _ => []
  | n + 1, a => if a = dst then [] else s.hop a dst :: s.path dst n (s.hop a dst)

/-! ## Packets -/

/-- The streams in which packets keep their order: REQ packets from one tile to one region (R248), a combined one in those of all its
issuers (log 55), the beats of a circuit (R287), the batching messages from one die to another (R413; log 113). -/
def State.packetStreams (s : State) (p : Packet) : List (Nat × Nat × Nat × Nat) :=
  match p.body with
  | .req id => ((s.req? id).map fun r => (s.issuers r).map fun q => (0, q.tile, regionOf r.pool q.tile r.pa)).getD []
  | .beats c _ => [(1, c, 0, 0)]
  | .data 4 _ | .data 6 _ | .data 7 _ => [(2, p.src, p.dst, 0)]
  | _ => []

/-- Packets of a stream of this one. -/
def State.sameStream (s : State) (p : Packet) : List Packet :=
  let mine := s.packetStreams p
  s.net.filter fun q => q.id != p.id && (s.packetStreams q).any mine.contains

/-- Where the head of a packet is. -/
def Packet.head (p : Packet) : Nat := (p.worm.head?.map (·.at_)).getD p.at_

/-- A packet of its stream sent before it has its head in the same place, or is under way in its module by another route (R248,
R287, R292). -/
def State.packetWaits (s : State) (p : Packet) : Bool :=
  let ahead := (s.net.takeWhile fun q => q.id != p.id).map (·.id)
  let way := s.path p.leg 10 p.head
  (s.sameStream p).any fun q =>
    ahead.contains q.id && (q.head == p.head || (moduleOfLoc q.head == moduleOfLoc p.head && !way.contains q.head))

/-- The supply of an IO die's module is on (R14). -/
def State.ioUp (s : State) (io : Nat) : Bool := (s.module (io / 2)).powered

/-- A clock that stands still at a place. -/
def State.placeStopped (s : State) (loc : Nat) : Bool := if isIo loc then !s.ioUp (ioNum loc) else (s.die loc).tripped

end Sys2Proof.Machine
end

