-- ==== Sys2Proof/Machine/Combining.lean ====
section
/-! DEFINITION. Combining switches at the cluster, the compute die and the IO die (01_machine.md R31; 12_atomic_class.md R345-R349).
The spec numbers no switch port; the numbers here are the model's (log 55). -/

namespace Sys2Proof.Machine

/-! ## Sums in serial order (R347) -/

/-- The sum of two operands. -/
def atomSum (x : AtomArgs) (a b : Word) : Word :=
  BitVec.ofNat 64 (atomValue { x with v := b } (a.toNat % 2 ^ (8 * x.size)))

/-- The running sum of operands in serial order. -/
def atomTotal (x : AtomArgs) : List Word → Word
  | [] => 0
  | v :: vs => vs.foldl (atomSum x) (BitVec.ofNat 64 (v.toNat % 2 ^ (8 * x.size)))

/-! ## The queue of an output port -/

/-- The port of a switch by which it is joined to a neighbouring place. -/
def portToward (a b : Nat) : Nat :=
  if isIo a then 1 + b % 16 / 4
  else if isIo b then 5 + ioNum b % 2
  else if b = a + 1 then 1 else if a = b + 1 then 2 else if b = a + 4 then 3 else 4

/-- The live port of an IO die that packets to a module use (R295). -/
def Io.portFor (x : Io) (m : Nat) : Option Nat := (x.ports[m % max 1 x.ports.length]?).map (·.1)

/-- The output port that a packet waits for where its head is: toward the region of its request, to another module, or to the next
place. -/
def State.outPort (s : State) (p : Packet) (r : Req) : Nat :=
  let a := p.head
  if a = p.dst then
    let g := regionOf r.pool r.tile r.pa
    if g.1 = 0 then 16 + clusterOf g.2 else 0
  else if a = p.leg then 64 + ((s.io (ioNum a)).portFor (moduleOfLoc p.dst)).getD 0
  else portToward a (s.hop a p.leg)

/-- All of the packet is where its head is. -/
def Packet.whole (p : Packet) : Bool := p.worm.isEmpty || (p.left == 0 && p.worm.length == 1)

/-- The queue of REQ packets in which a request that may combine stands: its level, its switch, its output port. -/
def State.queueOf (s : State) (p : Packet) (r : Req) : Option (Nat × Nat × Nat) :=
  if !r.op.combines || r.stage != .transit || !p.whole || p.num.isSome || p.alone then none
  else if p.sw then some (0, p.head * 256 + clusterOf r.tile, s.outPort p r)
  else some (if isIo p.head then 2 else 1, p.head, s.outPort p r)

/-- The request of a packet. -/
def State.reqOf (s : State) (p : Packet) : Option Req :=
  match p.body with
  | .req id => s.req? id
  | _ => none

def State.packetOf (s : State) (r : Nat) : Option Packet := s.net.find? fun p => p.body == .req r

/-- The bobbin of a combined request. -/
def State.bobbinOf (s : State) (r : Req) : Option Bobbin :=
  match r.who with
  | .bobbin b => mapFind? s.bobbins b
  | _ => none

/-- The request is combined in this very queue; its bobbin. -/
def State.bobbinHere (s : State) (q : Nat × Nat × Nat) (r : Req) : Option Bobbin :=
  (s.bobbinOf r).filter fun b => (b.level, b.loc, b.port) == q

/-- It holds the eight requesters that a combined request may hold. -/
def State.fullHere (s : State) (q : Nat × Nat × Nat) (r : Req) : Bool := (s.bobbinHere q r).any fun b => decide (8 ≤ b.reqs.length)

/-- Two requests that stand in one queue and differ in nothing that R345 names. -/
def State.alike (s : State) (p q : Packet) (a b : Req) : Bool :=
  match a.op, b.op with
  | .atomic x, .atomic y =>
      x.op == y.op && x.wide == y.wide && a.pa == b.pa && a.snap.idx == b.snap.idx && a.order == b.order &&
        (s.queueOf p a).isSome && s.queueOf p a == s.queueOf q b
  | _, _ => false

/-- The order of acceptance: the cycle, then the input port; one input brings its packets one after another (R347). -/
def Packet.accepted (p q : Packet) (a b : Req) : Bool :=
  decide (p.came < q.came) || (p.came == q.came && (decide (p.inp < q.inp) || (p.inp == q.inp && decide (a.seq < b.seq))))

/-- A packet sent between two others is of a stream of the first: the first cannot pass it (R248, R344). -/
def State.between (s : State) (p q : Packet) : Bool :=
  let ids := s.net.map (·.id)
  let i := ids.idxOf p.id
  let j := ids.idxOf q.id
  ((s.net.take (max i j)).drop (min i j + 1)).any fun z => (s.packetStreams z).any (s.packetStreams p).contains

/-- The packet of request a joins that of request b: b is combined here or was accepted before a, it is the first accepted of those
that can take a, and each one accepted before a has joined or is full (R345). -/
def State.canJoin (s : State) (p q : Packet) (a b : Req) : Bool :=
  let here := (s.queueOf p a).getD default
  let room (z : Packet) (c : Req) : Bool := z.id != p.id && z.id != q.id && s.alike z q c b && !s.fullHere here c
  p.id != q.id && s.alike p q a b && ((s.bobbinHere here b).isSome || q.accepted p b a) && (s.bobbinHere here a).isNone &&
    !s.fullHere here b && !s.between p q &&
    !(s.net.any fun z => match s.reqOf z with
      | some c => room z c && (z.accepted p c a || ((s.bobbinHere here c).isSome && z.accepted q c b))
      | none => false)

/-- A packet that a join is due with stays in its queue. -/
def State.joinDue (s : State) (p : Packet) : Bool :=
  match s.reqOf p with
  | none => false
  | some a => a.op.combines && s.net.any fun q => match s.reqOf q with
      | some b => s.canJoin p q a b || s.canJoin q p b a
      | none => false

/-! ## Joins (R345-R347) -/

/-- The operand of a request. -/
def ReqOp.operand : ReqOp → Word
  | .atomic x => x.v
  | _ => 0

/-- Its identity at a switch (R346). -/
def Packet.identity (p : Packet) (r : Req) : Identity := { id := r.id, v := r.op.operand, came := p.came, port := p.inp }

/-- The combined request carries the total of its operands (R347). -/
def ReqOp.withTotal (ids : List Identity) : ReqOp → ReqOp
  | .atomic x => .atomic { x with v := atomTotal x (ids.map (·.v)) }
  | x => x

/-- A request waits in a bobbin for the reply of the combined one. -/
def State.joined (s : State) (r : Nat) : State := s.modReq r fun z => { z with stage := .joined }

/-- An identity takes its place among those of a bobbin: the order of acceptance, by cycle, then by input port (R347). -/
def placeIdentity (x : Identity) : List Identity → List Identity
  | [] => [x]
  | y :: ys =>
      if x.came < y.came ∨ (x.came = y.came ∧ x.port < y.port) then x :: y :: ys else y :: placeIdentity x ys

/-- The packet stands in the queue as its first requester does. -/
def Packet.placed (q : Packet) (ids : List Identity) : Packet :=
  match ids with
  | [] => q
  | y :: _ => { q with came := y.came, inp := y.port }

/-- Request a joins the combined request b of this queue, at its place in the serial order. -/
def State.joinNext (s : State) (p q : Packet) (a b : Req) (k : Nat) (x : Bobbin) : State :=
  let ids := placeIdentity (p.identity a) x.reqs
  let at_ := ids.findIdx fun y => y.id == a.id
  let x := { x with reqs := ids, lostIds := x.lostIds.map fun i => if at_ ≤ i then i + 1 else i }
  let s1 : State := { s with bobbins := mapPut k x s.bobbins,
                             net := (s.net.filter fun z => z.id != p.id).map fun z => if z.id = q.id then z.placed ids else z }
  (s1.modReq b.id fun z => { z with op := z.op.withTotal ids }).joined a.id

/-- The first join to a queued request: a combined request takes its place in the queue, with a free entry of the port's table of
64 (R346). -/
def State.joinFirst (s : State) (p q : Packet) (a b : Req) (here : Nat × Nat × Nat) : State :=
  let k := s.nextId
  let c := s.nextId + 1
  let ids := [q.identity b, p.identity a]
  let x : Bobbin := { level := here.1, loc := here.2.1, port := here.2.2, creq := c, reqs := ids, lost := false, lostIds := [] }
  let comb := { b with id := c, who := .bobbin k, slot := false, op := b.op.withTotal ids }
  let s1 : State :=
    { s with net := (s.net.filter fun z => z.id != p.id).map fun z => if z.id = q.id then { z with body := .req c } else z,
             bobbins := mapPut k x s.bobbins, nextId := s.nextId + 2, reqs := s.reqs ++ [comb] }
  (s1.joined b.id).joined a.id

/-- The table of the port has an entry free. -/
def State.tableRoom (s : State) (here : Nat × Nat × Nat) : Bool :=
  decide ((s.bobbins.filter fun z => (z.2.level, z.2.loc, z.2.port) == here).length < 64)

/-- COMBINING_JOIN (R345, R346): request r joins request q in the queue of an output port; where the port's table is full the join is
refused, and both pass uncombined. -/
def execCombiningJoin (r q : Nat) (s : State) : Out :=
  match s.req? r, s.req? q, s.packetOf r, s.packetOf q with
  | some a, some b, some p, some pq =>
      if !s.canJoin p pq a b then ok s
      else
        let here := (s.queueOf p a).getD default
        match s.bobbinHere here b, b.who with
        | some x, .bobbin k => ok (s.joinNext p pq a b k x)
        | _, _ =>
            if s.tableRoom here then ok (s.joinFirst p pq a b here)
            else
              let part (z : Packet) : Bool := z.id == p.id || z.id == pq.id
              ok { s with net := s.net.map fun z => if part z then { z with alone := true } else z }
  | _, _, _, _ => ok s

/-! ## Replies (R347-R349) -/

/-- Drop a bobbin and its combined request. -/
def State.dropBobbin (s : State) (b : Nat) (x : Bobbin) : State :=
  { s with bobbins := mapDel b s.bobbins }.dropReq x.creq

/-- The loss record of R349. -/
def State.lossRecord (s : State) (x : Bobbin) (total base : Word) (pa : Nat) : State :=
  let io := decide (2 ^ 20 ≤ x.loc)
  let die := if x.level = 0 then x.loc / 256 else if io then x.loc - 2 ^ 20 else x.loc
  let r : FaultRec :=
    { code := cAtomicLost, die := die, io := io, tileByte := x.level * 64 + if x.level = 0 then x.loc % 16 else 0,
      unit := x.port % 256, flags := 1, node := x.reqs.length, tag := 0, task := 0,
      cycle := if io then 0 else (s.die die).cycle, op0 := total, op1 := base, addr := BitVec.ofNat 64 pa }
  if io then s.recordIo die r else s.recordAt die r

/-- Each requester whose identity is intact gets what `give` sends it; the bobbin is freed. -/
def State.splitReply (s : State) (b : Nat) (x : Bobbin) (give : State → Nat → Req → State) : State :=
  ((List.range x.reqs.length).foldl (fun s i =>
    if x.lostIds.contains i then s
    else match (x.reqs[i]?).bind fun q => s.req? q.id with
      | some r => give s i r
      | none => s) s).dropBobbin b x

/-- A reply reaches a bobbin that an error in its header or an operand has lost: a record, and ATOMIC_LOST to each requester (R349).
A reply of class FLT brings no base value: the record's is free (log 55). -/
def State.loseBobbin (s : State) (b : Nat) (x : Bobbin) (c : Req) (base : Word) : State :=
  (s.lossRecord x c.op.operand base c.pa).splitReply b x fun s _ r => s.fltFrom x.place r (.flt cAtomicLost)

/-- COMBINED_REPLY_SPLIT (R347, R349): every requester whose identity is intact gets its reply once the combined one has arrived. -/
def execCombinedReplySplit (b : Nat) (s : State) : Out :=
  match mapFind? s.bobbins b with
  | none => ok s
  | some x =>
      match s.req? x.creq with
      | none => ok s
      | some c =>
          match c.stage, c.op with
          | .reply v p, .atomic y =>
              if s.replyOut c.id then ok s
              else if x.lost then ok (s.loseBobbin b x c v)
              else
                ok (s.splitReply b x fun s i r =>
                  s.answerFrom x.place r (if i = 0 then v else atomSum y v (atomTotal y ((x.reqs.take i).map (·.v)))) p)
          | _, _ => ok s

/-- COMBINED_FAULT_COPY (R348, R349). -/
def execCombinedFaultCopy (b : Nat) (s : State) : Out :=
  match mapFind? s.bobbins b with
  | none => ok s
  | some x =>
      match s.req? x.creq with
      | none => ok s
      | some c =>
          let copy (st : Stage) : Out :=
            if s.replyOut c.id then ok s
            else if x.lost then ok (s.loseBobbin b x c (BitVec.ofNat 64 (Config.freeNat s.tick 24)))
            else ok (s.splitReply b x fun s _ r => s.fltFrom x.place r st)
          match c.stage with
          | .flt code => copy (.flt code)
          | .miss => copy .miss
          | _ => ok s

end Sys2Proof.Machine
end

