-- ==== Sys2Proof/Machine/Crypto.lean ====
section
/-! DEFINITION. CRC-32C, SHA-256, AES-256 and RSA-3072 verification as their standards define them
(10_remote_memory_class.md R288; 14_generation_class.md R399, R419; 15_system_class.md R451, R452). -/

namespace Sys2Proof.Machine

/-! ## CRC-32C -/

def crcBit (c : BitVec 32) : BitVec 32 := if c.getLsbD 0 then (c >>> 1) ^^^ 0x82F63B78 else c >>> 1

def crcByte (c : BitVec 32) (b : Byte) : BitVec 32 := (List.range 8).foldl (fun c _ => crcBit c) (c ^^^ b.setWidth 32)

def crc32c (bs : List Byte) : BitVec 32 := ~~~(bs.foldl crcByte 0xFFFFFFFF)

/-! ## SHA-256 (FIPS 180-4) -/

/-- The first primes. -/
def primes (n : Nat) : List Nat :=
  (List.range 330).filter (fun p => decide (2 ≤ p) && (List.range 20).all fun d => decide (d < 2) || d == p || p % d != 0) |>.take n

/-- The cube root rounded down. -/
def icbrtGo (n : Nat) : Nat → Nat → Nat
  | 0, x => x
  | k + 1, x => icbrtGo n k (if (x + 2 ^ k) ^ 3 ≤ n then x + 2 ^ k else x)

/-- The first 32 fraction bits of the cube roots of the first 64 primes. -/
def shaK : List HWord := (primes 64).map fun p => BitVec.ofNat 32 (icbrtGo (p * 2 ^ 96) 40 0 % 2 ^ 32)

/-- The first 32 fraction bits of the square roots of the first 8 primes. -/
def shaH : List HWord := (primes 8).map fun p => BitVec.ofNat 32 (isqrt (p * 2 ^ 64) % 2 ^ 32)

def shaS (x : HWord) (a b c : Nat) : HWord := x.rotateRight a ^^^ x.rotateRight b ^^^ x.rotateRight c
def shaG (x : HWord) (a b c : Nat) : HWord := x.rotateRight a ^^^ x.rotateRight b ^^^ (x >>> c)

/-- The message schedule, the latest word first. -/
def shaExpand : Nat → List HWord → List HWord
  | 0, w => w
  | n + 1, w => shaExpand n ((shaG (w.getD 1 0) 17 19 10 + w.getD 6 0 + shaG (w.getD 14 0) 7 18 3 + w.getD 15 0) :: w)

def shaRound (v : List HWord) (kw : HWord × HWord) : List HWord :=
  match v with
  | [a, b, c, d, e, f, g, h] =>
      let t1 := h + shaS e 6 11 25 + ((e &&& f) ^^^ (~~~e &&& g)) + kw.1 + kw.2
      let t2 := shaS a 2 13 22 + ((a &&& b) ^^^ (a &&& c) ^^^ (b &&& c))
      [t1 + t2, a, b, c, d + t1, e, f, g]
  | v => v

/-- Big-endian words of bytes. -/
def beWords : List Byte → List HWord
  | a :: b :: c :: d :: rest => BitVec.ofNat 32 (bytesToNat [d, c, b, a]) :: beWords rest
  | _ => []

def shaBlock (h : List HWord) (block : List Byte) : List HWord :=
  let w := (shaExpand 48 (beWords block).reverse).reverse
  (h.zip ((shaK.zip w).foldl shaRound h)).map fun x => x.1 + x.2

/-- Blocks of 64 bytes. -/
def shaBlocks : Nat → List Byte → List HWord → List HWord
  | 0, _, h => h
  | n + 1, bs, h => shaBlocks n (bs.drop 64) (shaBlock h (bs.take 64))

def sha256 (bs : List Byte) : List Byte :=
  let n := bs.length
  let z := (119 - n % 64) % 64
  let m := bs ++ [0x80] ++ List.replicate z 0 ++ (natToBytes 8 (8 * n)).reverse
  (shaBlocks (m.length / 64) m shaH).flatMap fun w => (natToBytes 4 w.toNat).reverse

/-! ## AES-256 (FIPS 197) -/

/-- Multiplication in the field of AES. -/
def gfMulGo : Nat → Nat → Nat → Nat → Nat
  | 0, _, _, r => r
  | k + 1, a, b, r =>
      gfMulGo k (if 128 ≤ a then Nat.xor (a * 2 % 256) 0x1B else a * 2) (b / 2) (if b % 2 = 1 then Nat.xor r a else r)

def gfMul (a b : Nat) : Nat := gfMulGo 8 a b 0

/-- The inverse, as the 254th power; 0 for 0. -/
def gfInv (a : Nat) : Nat :=
  let a2 := gfMul a a
  let a4 := gfMul a2 a2
  let a8 := gfMul a4 a4
  let a16 := gfMul a8 a8
  let a32 := gfMul a16 a16
  let a64 := gfMul a32 a32
  let a128 := gfMul a64 a64
  gfMul a128 (gfMul a64 (gfMul a32 (gfMul a16 (gfMul a8 (gfMul a4 a2)))))

def aesSub (b : Byte) : Byte :=
  let x : Byte := BitVec.ofNat 8 (gfInv b.toNat)
  x ^^^ x.rotateLeft 1 ^^^ x.rotateLeft 2 ^^^ x.rotateLeft 3 ^^^ x.rotateLeft 4 ^^^ 0x63

def xorBytes (a b : List Byte) : List Byte := (a.zip b).map fun x => x.1 ^^^ x.2

/-- Key words, the latest first; n counts the words there are. -/
def aesExpand : Nat → Nat → Nat → List (List Byte) → List (List Byte)
  | 0, _, _, w => w
  | k + 1, n, rc, w =>
      let t := w.headD []
      let t := if n % 8 = 0 then
          match t with
          | [a, b, c, d] => xorBytes [aesSub b, aesSub c, aesSub d, aesSub a] [BitVec.ofNat 8 rc, 0, 0, 0]
          | t => t
        else if n % 8 = 4 then t.map aesSub else t
      aesExpand k (n + 1) (if n % 8 = 0 then gfMul rc 2 else rc) (xorBytes (w.getD 7 []) t :: w)

def chunks4 : List Byte → List (List Byte)
  | a :: b :: c :: d :: rest => [a, b, c, d] :: chunks4 rest
  | _ => []

/-- The fifteen round keys. -/
def aesKeys (key : List Byte) : List (List Byte) :=
  let w := (aesExpand 52 8 1 (chunks4 key).reverse).reverse
  (List.range 15).map fun i => ((w.drop (4 * i)).take 4).flatten

def aesShift (s : List Byte) : List Byte := (List.range 16).map fun i => s.getD ((i + 4 * (i % 4)) % 16) 0

def aesMixCol (c : List Byte) : List Byte :=
  (List.range 4).map fun i =>
    let x (j : Nat) : Nat := (c.getD ((i + j) % 4) 0).toNat
    BitVec.ofNat 8 (Nat.xor (Nat.xor (gfMul (x 0) 2) (gfMul (x 1) 3)) (Nat.xor (x 2) (x 3)))

def aesRound (s k : List Byte) : List Byte := xorBytes ((chunks4 (aesShift (s.map aesSub))).flatMap aesMixCol) k

/-- AES-256 of one block. -/
def aes256 (key block : List Byte) : List Byte :=
  let ks := aesKeys key
  let s := ((ks.drop 1).take 13).foldl aesRound (xorBytes block (ks.headD []))
  xorBytes (aesShift (s.map aesSub)) (ks.getD 14 [])

/-! ## RSA-3072 with exponent 65,537 -/

/-- x to the 2^k modulo n. -/
def sqrMod (n : Nat) : Nat → Nat → Nat
  | 0, x => x
  | k + 1, x => sqrMod n k (x * x % n)

def bigEndian (bs : List Byte) : Nat := bs.foldl (fun a b => a * 256 + b.toNat) 0

/-- RSASSA-PKCS1-v1_5 with SHA-256: the encoded message equals the signature raised to 65,537. -/
def rsaVerify (modulus sig msg : List Byte) : Bool :=
  let n := bigEndian modulus
  let m := bigEndian sig
  let info : List Byte := [0x30, 0x31, 0x30, 0x0D, 0x06, 0x09, 0x60, 0x86, 0x48, 0x01, 0x65, 0x03, 0x04, 0x02, 0x01, 0x05, 0x00, 0x04, 0x20]
  let t := info ++ sha256 msg
  let em := [0x00, 0x01] ++ List.replicate (384 - 3 - t.length) 0xFF ++ [0x00] ++ t
  decide (m < n) && sqrMod n 16 m * m % n == bigEndian em

end Sys2Proof.Machine
end

