-- ==== Sys2Proof/Machine/Sync.lean ====
section
/-! DEFINITION. Fences, barriers, updates of scope entries, scope misses and their ring (11_scope_class.md R310-R317,
R321, R322, R327-R332). -/

namespace Sys2Proof.Machine

/-! ## Fences (R328, R332) -/

/-- FENCE and WIDEN on carrier A. -/
def State.fenceOp (s : State) (o : AX) : State :=
  let th := s.cur.th
  let k := s.myTask.getD 0
  let idx := o.scope.toNat
  let order := o.order.toNat
  if s.scopeHolds k s.myTile idx then s.hold
  else
    match s.snapScope k s.myTile idx with
    | none => s.trap cScopeStale (BitVec.ofNat 64 idx)
    | some x =>
        let before := (s.threadBefore th order x).map fun i => (i, false)
        ((s.modMe fun t => { t with fence := before, acquire := some (x, acqOrder order) }).settleFence th).advance

/-- FENCE (R328). -/
def execFence (o : AX) (s : State) : Out := ok (s.fenceOp o)

/-- WIDEN (R328): exactly as FENCE. -/
def execWiden (o : AX) (s : State) : Out := ok (s.fenceOp o)

/-- One scalar of a fence node: its word waits for the accesses of its context. -/
def fenceScalar (s : State) (f : Firing) : State :=
  let t := tileOfPe f.pe
  let order := f.node.r.litOrder.toNat
  if f.nul then s.emitNull f
  else
    match s.snapScope f.task t f.node.r.litScope.toNat with
    | none => (s.fireRecord f cScopeStale 0).emit f f.tag (f.l.map fun x => { x with p := true })
    | some x =>
        (s.modTile t fun y => { y with fences := y.fences ++ [s.nodeFence f .pass order x] }).settleNodes t

/-- A fence node fires unless its scope entry is marked. -/
def fireFence (s : State) : Out :=
  let f := s.cur.fir
  if f.eos then ok ((s.beginFire.traceFire f f.tag f.l).passE f)
  else if s.scopeHolds f.task (tileOfPe f.pe) f.node.r.litScope.toNat then ok s.hold
  else ok ((s.scalars f).foldl fenceScalar (s.beginFire.traceFire f f.tag f.l))

/-- FENCE on a node (R332). -/
def execFenceNode (s : State) : Out := fireFence s

/-- WIDEN on a node (R332). -/
def execWidenNode (s : State) : Out := fireFence s

/-! ## Barriers (R321, R322, R331) -/

/-- The checks of BAR and BARWAIT, then the request. -/
def State.barOp (s : State) (op : ReqOp) (o : AX) (bad : Bool) : State :=
  let v := s.greg o.b
  if bad then s.trap cIllegalDesc v
  else if !globalOk (s.greg o.a) 8 then s.trap cAccessFault (s.greg o.a)
  else s.issueScoped op o (s.me.preg o.d) true

/-- BAR (R331). -/
def execBar (o : AX) (s : State) : Out :=
  let n := (s.greg o.b).toNat
  ok (s.barOp (.bar n none) o (n == 0 || decide (2 ^ 32 ≤ n)))

/-- BARWAIT (R331). -/
def execBarwait (o : AX) (s : State) : Out :=
  let p := s.greg o.b
  ok (s.barOp (.barwait p) o (decide (2 ^ 32 ≤ p.toNat)))

/-- One scalar of a barrier node (R332). -/
def barScalar (s : State) (f : Firing) : State :=
  let n := (dataOf f).toNat
  let lit := f.node.r.lit32
  let pk := (lit.extractLsb' 24 3).toNat
  let fl := s.fieldAt f.task pk
  let ph := if lit.getLsbD 27 then some (getTag fl f.tag, fl.1) else none
  let bad (code : Nat) : State := (s.fireRecord f code (addrOf f)).nodeResult f 0 true false
  if f.nul then s.emitNull f
  else if f.l.any (·.p) || f.r.any (·.p) then bad cPoisonStore
  else if n = 0 ∨ 2 ^ 32 ≤ n then bad cIllegalDesc
  else if !globalOk (addrOf f) 8 then bad cAccessFault
  else s.nodeScoped f (.bar n ph)

/-- BAR on a node (R332). -/
def execBarNode (s : State) : Out := fireScoped barScalar s

/-- BARRIER_ARRIVAL_APPLY (R321, R322): an arrival or a wait at its region. -/
def execBarrierArrivalApply (r : Nat) (s : State) : Out :=
  match s.req? r with
  | none => ok s
  | some q =>
      if !q.op.barrier || !s.accepts q then ok s
      else if !s.writable q.pa 8 then ok ((s.refuse q).afterApply q)
      else if s.poisoned q.pa 8 then ok (s.eccFault q)
      else
        let s := s.applyBar q
        ok (s.settleBars.afterApply q)

/-! ## Updates of scope entries (R308, R311, R312, R329) -/

def pkMark : Nat := 1
def pkAck : Nat := 2
def pkInstall : Nat := 3

def State.packet? (s : State) (k : Nat) : Option Packet := s.net.find? fun p => p.id == k

def State.body? (s : State) (k : Nat) : Option PBody := (s.packet? k).map Packet.body

def State.dropPacket (s : State) (k : Nat) : State := { s with net := s.net.filter fun p => p.id != k }

/-- A control packet within the die of a task. -/
def State.ctl (s : State) (die kind : Nat) (args : List Nat) : State := s.send clsCtl die die (.data kind args)

/-- The update of an entry in progress. -/
def Die.update? (d : Die) (k j : Nat) : Option ScopeUpd := d.updates.find? fun u => u.task == k && u.entry == j && u.begun

def Die.modUpdate (d : Die) (k j : Nat) (f : ScopeUpd → ScopeUpd) : Die :=
  { d with updates := d.updates.map fun u => if u.task = k ∧ u.entry = j ∧ u.begun then f u else u }

/-- The update is over: g[d] receives GEN. -/
def State.endUpdate (s : State) (die : Nat) (u : ScopeUpd) : State :=
  (s.modDie die fun d => { d with updates := d.updates.filter fun v => !(v.task == u.task && v.entry == u.entry && v.begun) }).modThread
    u.th fun t => t.takeReply u.dest true (BitVec.ofNat 64 u.gen)

/-- Every tile has acknowledged the mark: the installs go out. -/
def State.sendInstalls (s : State) (die : Nat) (u : ScopeUpd) : State :=
  let tiles := s.region u.task
  let gen := ((s.scopeEntry u.task (tiles.headD 0) u.entry).gen + 1) % 256
  let m := moduleOfDie die
  let body : List Nat := match u.set with
    | none => [0, 0]
    | some (img, mods) =>
        let ms := if imagePlist img = 0 then [] else (s.plist? m (imagePlist img)).getD mods
        [1, ms.length] ++ ms ++ img.map (·.toNat)
  let s := s.modDie die fun d => d.modUpdate u.task u.entry fun v => { v with installing := true, waits := tiles, gen := gen }
  tiles.foldl (fun s t => s.ctl die pkInstall ([u.task, u.entry, t, gen] ++ body)) s

/-- The first update of each entry begins: its marks go out (R310, R311). -/
def State.beginUpdates (s : State) (die : Nat) : State :=
  (s.die die).updates.foldl (fun s u =>
    if u.begun || ((s.die die).update? u.task u.entry).isSome then s
    else
      let tiles := s.region u.task
      let us := (s.die die).updates
      let s := s.modDie die fun d => { d with updates := begins us u tiles }
      if tiles.isEmpty then s.endUpdate die { u with begun := true }
      else tiles.foldl (fun s t => s.ctl die pkMark [u.task, u.entry, t]) s) s
where
  /-- The update that begins. -/
  begins (us : List ScopeUpd) (u : ScopeUpd) (tiles : List Nat) : List ScopeUpd :=
    match us with
    | [] => []
    | v :: vs => if v = u then { v with begun := true, waits := tiles } :: vs else v :: begins vs u tiles

/-- SCOPEW and SCOPEKILL go to the dispatcher of the task; g[d] is pending until the update is over. -/
def State.startUpdate (s : State) (o : AX) (set : Option (List Byte × List Nat)) : State :=
  let k := s.myTask.getD 0
  let dest := s.me.preg o.d
  if 4 ≤ s.me.ldout then s.hold
  else
    let u : ScopeUpd :=
      { task := k, entry := o.scope.toNat, th := s.cur.th, dest := dest, set := set, begun := false, installing := false,
        waits := [], gen := 0 }
    let s := s.modMe fun t => { t.setPending dest true with ldout := t.ldout + 1, pc := s.nextPc }
    (s.modDie (dieOfTask k) fun d => { d with updates := d.updates ++ [u] }).beginUpdates (dieOfTask k)

/-- The address of an image, and its bytes lie in granules of the task (R329). -/
def State.imageAt (s : State) (a : Word) (mask : Nat) : Bool :=
  (a.extractLsb' 24 40) == 0 && a.toNat % 16 == 0 && poolOk s s.myTask s.myTile a.toNat (imageLen mask) false

/-- An image that describes a set (R329). -/
def imageValid (img : List Byte) : Bool :=
  ((img.drop 7).take 9).all (· == 0) && !(imageDies img == 0 && imageDram img == 0 && imagePlist img == 0)

/-- SCOPEW (R311, R329). -/
def execScopew (o : AX) (s : State) : Out :=
  let a := s.greg o.a
  if !s.imageAt a 0 then ok (s.trap cAccessFault a)
  else
    let mask := s.poolLoad s.myTile a.toNat 2
    let n := imageLen mask
    if !s.imageAt a mask then ok (s.trap cAccessFault a)
    else if s.poolPoisoned s.myTile a.toNat n then ok (s.trap cEccUncorr a)
    else
      let img := natToBytes n (s.poolLoad s.myTile a.toNat n)
      if !imageValid img then ok (s.trap cIllegalDesc a)
      else
        match (if imagePlist img = 0 then some [] else s.plist? (moduleOfTile s.myTile) (imagePlist img)) with
        | none => ok (s.unitOp o.d fun s => (0xFFFFFFFFFFFFFFFF, s))
        | some ms => ok (s.startUpdate o (some (img, ms)))

/-- SCOPEKILL (R311, R329). -/
def execScopekill (o : AX) (s : State) : Out := ok (s.startUpdate o none)

/-- The summary word of SCOPER (R330). -/
def scopeSummary (idx : Nat) (e : ScopeEntry) : Word :=
  if idx < 11 then BitVec.ofNat 64 (2 ^ 48 + 2 ^ 50)
  else
    BitVec.ofNat 64 (imageDies e.image + imageDram e.image * 2 ^ 16 + imagePlist e.image * 2 ^ 32 + e.gen % 256 * 2 ^ 40 +
      (if e.live then 2 ^ 48 else 0) + if e.updating then 2 ^ 49 else 0)

/-- SCOPER (R330): the image of a live programmable entry is written with `.img`, whose result is pending (R49). -/
def execScoper (o : AX) (s : State) : Out :=
  let idx := o.scope.toNat
  let e := if idx < 11 then ScopeEntry.none else s.scopeEntry (s.myTask.getD 0) s.myTile idx
  let w := scopeSummary idx e
  let a := s.greg o.a
  if !o.f.getLsbD 0 then ok (s.result o.d w)
  else if !s.imageAt a (imageDies e.image) then ok (s.trap cAccessFault a)
  else if !e.live then ok (s.lateResult o.d w)
  else
    match s.poolStore s.myTile a.toNat e.image.length (bytesToNat e.image) with
    | (true, s) => ok (s.lateResult o.d w)
    | (false, s) => ok ((s.record { s.threadRecord s.cur.th cAccessFault s.cur.pc 0 false with addr := a }).lateResult o.d w)

/-- SCOPE_MARK_ARRIVAL (R311): new operations that name the entry wait from now on. -/
def execScopeMarkArrival (k : Nat) (s : State) : Out :=
  match s.body? k with
  | some (.data 1 [task, j, t]) =>
      if s.stopped t then ok s
      else
        let e := s.scopeEntry task t j
        let s := (s.dropPacket k).modTaskTile task t fun x => { x with scopes := mapPut j { e with updating := true } x.scopes }
        ok (s.modTile t fun y => { y with marks := y.marks ++ [(task, j)] })
  | _ => ok s

/-- The operations of a tile that were snapshotted from an entry have drained (R312). -/
def State.drained (s : State) (t task j : Nat) : Bool :=
  let y := s.tile t
  let mine (x : ScopeSnap) (k : Nat) : Bool := x.idx == j && k == task
  !(y.fences.any fun n => mine n.snap n.fir.task) &&
    !((List.range 8).any fun i => match (s.thread (8 * t + i)).acquire with
      | some (x, _) => mine x ((s.thread (8 * t + i)).task.getD 0)
      | none => false) &&
    !(s.reqs.any fun r => r.tile == t && r.op.scoped && mine r.snap r.task && match r.stage with
      | .held | .walk | .transit | .miss | .flt _ | .joined => true
      | _ => false)

/-- SCOPE_MARK_ACKNOWLEDGE (R312): the k-th mark of a tile whose operations have drained. -/
def execScopeMarkAcknowledge (tile k : Nat) (s : State) : Out :=
  match (s.tile tile).marks[k]? with
  | none => ok s
  | some (task, j) =>
      if s.stopped tile then ok s
      else
      let s := ((List.range 8).foldl (fun s i => s.settleFence (8 * tile + i)) s).settleNodes tile
      if !s.drained tile task j then ok s
      else ok ((s.modTile tile fun y => { y with marks := y.marks.eraseIdx k }).ctl (dieOfTask task) pkAck [task, j, tile])

/-- SCOPE_INSTALL_ARRIVAL (R311): the tile installs, clears the mark and acknowledges. -/
def execScopeInstallArrival (k : Nat) (s : State) : Out :=
  match s.body? k with
  | some (.data 3 (task :: j :: t :: gen :: live :: n :: rest)) =>
      if s.stopped t then ok s
      else
        let e : ScopeEntry :=
          { live := live == 1, gen := gen, updating := false, image := (rest.drop n).map (BitVec.ofNat 8), mods := rest.take n }
        let s := (s.dropPacket k).modTaskTile task t fun x => { x with scopes := mapPut j e x.scopes }
        ok (s.ctl (dieOfTask task) pkAck [task, j, t])
  | _ => ok s

/-- SCOPE_UPDATE_ACK_ARRIVAL (R311). -/
def execScopeUpdateAckArrival (k : Nat) (s : State) : Out :=
  match s.body? k with
  | some (.data 2 [task, j, t]) =>
      let die := dieOfTask task
      let s := s.dropPacket k
      match (s.die die).update? task j with
      | none => ok s
      | some u =>
          let u := { u with waits := u.waits.erase t }
          let s := s.modDie die fun d => d.modUpdate task j fun _ => u
          if !u.waits.isEmpty then ok s
          else if !u.installing then ok (s.sendInstalls die u)
          else ok ((s.endUpdate die u).beginUpdates die)
  | _ => ok s

/-! ## Scope misses (R314-R317) -/

/-- A write of MS.MISSRING (R315). -/
def State.ringOk (s : State) (k t : Nat) (v : Word) : Bool :=
  let a := (v.extractLsb' 0 24).toNat
  let n := 2 ^ (v.extractLsb' 24 4).toNat
  !v.getLsbD 28 ||
    (decide (2 ≤ (v.extractLsb' 24 4).toNat ∧ (v.extractLsb' 24 4).toNat ≤ 12) && a % 16 == 0 && scratchOk s k t a (16 + 32 * n))

def missRingAddr (v : Word) : Nat := (v.extractLsb' 0 24).toNat
def missRingSize (v : Word) : Nat := 2 ^ (v.extractLsb' 24 4).toNat

/-- TAIL and HEAD of a task's miss ring on a tile. -/
def State.missTail (s : State) (k t : Nat) : Nat := s.poolLoad t (missRingAddr (s.taskTile k t).missring) 4
def State.missHeadWord (s : State) (k t : Nat) : Nat := s.poolLoad t (missRingAddr (s.taskTile k t).missring + 4) 4

/-- MISSRING_WRITE (R315): by a thread of the task on its tile. -/
def execMissringWrite (v : Word) (s : State) : Out :=
  let t := s.myTile
  let k := s.myTask.getD 0
  let x := s.taskTile k t
  let en := x.missring.getLsbD 28
  if (en && s.missTail k t != x.missHead) || x.misses.any (fun m => m.rcd.isNone) || !s.ringOk k t v then ok s
  else
    let s := if v.getLsbD 28 then (s.poolStore t (missRingAddr v) 8 0).2 else s
    ok (s.modTaskTile k t fun y => { y with missring := v &&& 0x1FFFFFFF, missHead := if v.getLsbD 28 then 0 else y.missHead })

/-- The opcode of a request's instruction. -/
def Req.opcode (r : Req) : Nat :=
  match r.who, r.op with
  | .node f _, _ => f.node.op.opc.toNat
  | _, .atomic x =>
      if !x.ret then (Instr.aredn default).opc.toNat
      else
        (match x.op with
          | .add => Instr.aadd default
          | .fadd => .afadd default
          | .min => .amin default
          | .max => .amax default
          | .and => .aand default
          | .or => .aor default
          | .xor => .axor default
          | .swap => .aswap default
          | .cas => .acas default).opc.toNat
  | _, .barwait _ => (Instr.barwait default).opc.toNat
  | _, _ => (Instr.bar default).opc.toNat

/-- A miss record (R316). -/
def State.missRecord (_s : State) (r : Req) : List Byte :=
  let who : List Byte := match r.who with
    | .node f _ => [BitVec.ofNat 8 (f.pe % 16), 0]
    | _ => [0xFF, BitVec.ofNat 8 (numOfThread (r.thread?.getD 0))]
  let tag : Word := match r.who with
    | .node f _ => f.tag
    | _ => r.pc
  natToBytes 8 r.va.toNat ++ natToBytes 8 tag.toNat ++ natToBytes 2 r.slotNo ++ who ++
    natToBytes 2 r.opcode ++ [BitVec.ofNat 8 r.snap.idx, 0xFF] ++ List.replicate 8 0

/-- Publish waiting misses in order while the ring has space (R317). -/
def publishMisses (k t : Nat) : Nat → State → State
  | 0, s => s
  | n + 1, s =>
      let x := s.taskTile k t
      let a := missRingAddr x.missring
      let tail := s.missTail k t
      match x.misses.find? fun m => m.rcd.isNone with
      | none => s
      | some m =>
          if missRingSize x.missring ≤ (tail + 2 ^ 32 - x.missHead) % 2 ^ 32 then s
          else
            let bs := match s.req? m.req with
              | some r => s.missRecord r
              | none => []
            let s := s.poolWrite t (a + 16 + 32 * (tail % missRingSize x.missring)) bs
            let s := s.poolWriteNat t a 4 ((tail + 1) % 2 ^ 32)
            publishMisses k t n (s.modTaskTile k t fun y =>
              { y with misses := y.misses.map fun z => if z = m then { z with rcd := some tail } else z })

/-- A missed operation is abandoned (R317). -/
def State.abandonMiss (s : State) (r : Req) : State :=
  match r.who with
  | .thread th _ _ => s.deferFault r th cScopeMiss r.va
  | .node f _ => s.failNode r f cScopeMiss (BitVec.ofNat 64 r.snap.idx) 0 r.va
  | _ => s

/-- An operation that names a dead entry at its reissue fails (R313, R317). -/
def State.staleReq (s : State) (r : Req) (idx : Nat) : State :=
  match r.who with
  | .thread th d c => s.failThread r th d c cScopeStale (BitVec.ofNat 64 idx)
  | .node f _ => s.failNode r f cScopeStale (firstWord f.l) (firstWord f.r) r.va
  | _ => s

/-- An operation is issued anew with a scope index: a fresh snapshot, its original operands, its watchdog from now (R290, R317,
R343). -/
def State.reissue (s : State) (r : Req) (idx : Nat) : State :=
  match s.snapScope r.task r.tile idx with
  | none => s.staleReq r idx
  | some x => s.modReq r.id fun q => { q with snap := x, stage := (if q.slot then .walk else .held), cycle := s.cycleOf q.tile }

/-- A parked request of a unit goes there again; a draw's registers are pending again (R406, R418). A unit that acted at the issue
gives the answer that was lost, one that has not answered yet is waited for (R290, log 77). -/
def State.resubmitUnit (s : State) (r : Req) : State :=
  let s := s.modReq r.id fun q =>
    { q with stage := (match q.op with
               | .unit | .inval _ _ => (q.kept.map fun v => .reply v false).getD .queued
               | _ => .region),
             slot := true, slotNo := s.freeSlot q.tile, cycle := s.cycleOf q.tile }
  match r.who with
  | .threadPair th d1 d2 => s.modThread th fun t => { (t.setPending d1 true).setPending d2 true with ldout := t.ldout + 1 }
  | _ => s

/-- A parked operation is submitted again (R133, R259, R312, R450); a wave operation's number is done once it is performed
(R253). -/
def State.resubmit (s : State) (r : Req) : State :=
  if r.stage ≠ .parked then s
  else if r.op.ofUnit then s.resubmitUnit r
  else if r.op.scoped then s.reissue r r.snap.idx
  else
    s.modReq r.id fun q => { q with stage := if !q.slot then .held else if q.pool then .region else .walk, again := true }

/-- A parked operation names an entry that is being updated, so its submission waits (R311). -/
def State.resubmitHolds (s : State) (r : Req) : Bool :=
  r.stage == .parked && r.op.scoped && s.scopeHolds r.task r.tile r.snap.idx

/-- SCOPE_MISS_REPLY (R314, R317): the request parks; it is published, or abandoned without a ring. -/
def execScopeMissReply (r : Nat) (s : State) : Out :=
  match s.req? r with
  | none => ok s
  | some q =>
      match q.stage, q.who with
      | .miss, .bobbin _ => ok s
      | .miss, _ =>
          if s.stopped q.tile || s.replyOut r then ok s
          else
            let s := s.modReq r fun x => { x with stage := .parked }
            if !(s.taskTile q.task q.tile).missring.getLsbD 28 then ok (s.abandonMiss q)
            else
              let s := s.modTaskTile q.task q.tile fun x => { x with misses := x.misses ++ [{ req := r, rcd := none }] }
              ok (publishMisses q.task q.tile 1 s)
      | _, _ => ok s

/-- The records a HEAD store has consumed, one by one (R317). -/
def takeMisses (k t : Nat) : Nat → State → State
  | 0, s => s
  | n + 1, s =>
      let x := s.taskTile k t
      let head := s.missHeadWord k t
      if head = x.missHead ∨ s.missTail k t = x.missHead then s
      else
        let a := missRingAddr x.missring + 16 + 32 * (x.missHead % missRingSize x.missring)
        let scope := (s.poolLoad t (a + 23) 1)
        match x.misses.find? fun m => m.rcd == some x.missHead with
        | none => takeMisses k t n (s.modTaskTile k t fun y => { y with missHead := (y.missHead + 1) % 2 ^ 32 })
        | some m =>
            if decide (scope < 32) && s.scopeHolds k t scope then s
            else
              let s := s.modTaskTile k t fun y =>
                { y with missHead := (y.missHead + 1) % 2 ^ 32, misses := y.misses.filter fun z => z.req != m.req }
              let s := match s.req? m.req with
                | none => s
                | some r => if scope < 32 then s.reissue r scope else s.abandonMiss r
              takeMisses k t n s

/-- MISS_RING_REISSUE (R317) of task k on a tile; misses that waited for space are published. -/
def execMissRingReissue (tile k : Nat) (s : State) : Out :=
  if s.stopped tile || !(s.taskTile k tile).missring.getLsbD 28 then ok s
  else
    let s := takeMisses k tile 4096 s
    ok (publishMisses k tile 4096 s)

end Sys2Proof.Machine
end

