-- ==== Sys2Proof/Machine/Network.lean ====
section
/-! DEFINITION. The packet network: routes, arrival, watchdogs, withdrawn links, UALink, PCIe (01_machine.md R13;
10_remote_memory_class.md R288-R297; 15_system_class.md R453). -/

namespace Sys2Proof.Machine

/-! ## Packets between modules, requests that miss their scope -/

/-- The number of a packet that crosses between the same modules by a port (R295). -/
def Packet.numberOn (p : Packet) (port sm dm : Nat) : Option Nat :=
  match p.num with
  | some (port', n) => if port' = port ∧ moduleOfLoc p.src = sm ∧ moduleOfLoc p.dst = dm then some n else none
  | none => none

/-- A packet of the same sending port with an earlier number has still to be delivered by the receiving IO die (R295). -/
def State.numberWaits (s : State) (p : Packet) : Bool :=
  match p.num with
  | none => false
  | some (port, n) => s.net.any fun q => match q.numberOn port (moduleOfLoc p.src) (moduleOfLoc p.dst) with
      | some j => decide (j < n)
      | none => false

/-- The request of a packet is checked at the IO die that sends it on (R296, R314). -/
def State.ioMisses (s : State) (p : Packet) : Option Req :=
  match p.body with
  | .req id => (s.req? id).filter fun r => r.op.scoped && r.who != .none && !s.scopeHas r.snap r.tile r.pa
  | _ => none

/-! ### Flits and input buffers (R291-R293) -/

/-- Flits of input buffer that a direction of a link still has (R291, R292). -/
def State.usable (s : State) (a b : Nat) : Nat := 192 - mapGet 0 s.retired (linkDir a b)

/-- Flits that lie in the input buffer of a direction of a link: their class, and whether they hold a reserved place. What has
reached the end of its leg has left it. -/
def State.buffered (s : State) (a b : Nat) : List (Nat × Bool) :=
  s.net.flatMap fun q => if b = q.leg then [] else
    (q.worm.filter fun h => h.prev == a && h.at_ == b).flatMap fun h => h.flits.map fun r => (q.cls, r)

/-- The place that a flit of a packet finds on a link: shared while shared places last, else one of the eight of its class. On a
withdrawn link the remaining places are shared (R291, R293). -/
def State.flitPlace (s : State) (p : Packet) (a b : Nat) : Option Bool :=
  let cap := s.usable a b
  let used := s.buffered a b
  if s.placeStopped a || s.placeStopped b || cap == 0 then none
  else if b = p.leg then some false
  else if s.withdrawn.contains (linkOf a b) then (if used.length < cap then some false else none)
  else if (used.filter fun x => !x.2).length < cap - 48 then some false
  else if (used.filter fun x => x.1 == p.cls && x.2).length < 8 then some true
  else none

/-- The head of a packet stays where it is: it is at the end of its leg, or an order or a join that is due keeps it (R248, R295,
R345). -/
def State.headStays (s : State) (p : Packet) : Bool :=
  p.sw || p.head == p.leg || s.packetWaits p || s.numberWaits p || s.joinDue p

/-- The links that a packet has a flit ready for: from its head's place on, and along its worm. -/
def State.wants (s : State) (p : Packet) : List (Nat × Nat) :=
  let rec_ (hs : List Hop) : List (Nat × Nat) :=
    (hs.zip (hs.drop 1)).filterMap (fun x => if x.2.flits.isEmpty then none else some (x.1.prev, x.1.at_)) ++
      match hs.getLast? with
      | some h => if p.left = 0 then [] else [(h.prev, h.at_)]
      | none => []
  (if s.headStays p then [] else [(p.head, s.hop p.head p.leg)]) ++ rec_ p.worm

/-- A packet is part way over a link: its head has crossed it and its tail has not. -/
def Packet.astride (p : Packet) (a b : Nat) : Bool :=
  match p.worm.dropWhile fun h => !(h.prev == a && h.at_ == b) with
  | [] => false
  | _ :: hs => p.left != 0 || hs.any fun h => !h.flits.isEmpty

/-- Another packet takes the link before this one: one of a higher class with a flit ready and a place for it, or one of its own
class that is part way over (R30, R291). -/
def State.outranked (s : State) (p : Packet) (a b : Nat) : Bool :=
  s.net.any fun q => q.id != p.id &&
    ((decide (q.cls < p.cls) && (s.wants q).contains (a, b) && (s.flitPlace q a b).isSome) || (q.cls == p.cls && q.astride a b))

/-- One flit moves on over the link nearest the head that has one to take and room for it: the hops, head first, and the flits
still at the start. -/
def State.crawl (s : State) (p : Packet) : List Hop → Option (List Hop × Nat)
  | [] => none
  | h :: hs =>
      let place := if s.outranked p h.prev h.at_ then none else s.flitPlace p h.prev h.at_
      let here := match place, hs with
        | none, _ => none
        | some r, [] => if p.left = 0 then none else some ([{ h with flits := h.flits ++ [r] }], p.left - 1)
        | some r, g :: gs => match g.flits with
            | [] => none
            | _ :: fs => some ({ h with flits := h.flits ++ [r] } :: { g with flits := fs } :: gs, p.left)
      here.or ((s.crawl p hs).map fun x => (h :: x.1, x.2))

/-- Hops that no flit is on any more and none will reach. -/
def tidyWorm (left : Nat) (hs : List Hop) : List Hop :=
  let hs := hs.dropWhile fun h => h.flits.isEmpty
  if left = 0 then (hs.reverse.dropWhile fun h => h.flits.isEmpty).reverse else hs

/-! ### Headers (R288, R289) -/

/-- KIND of a request and of its reply (R289). -/
def ReqOp.kind : ReqOp → Nat
  | .store _ _ => 1
  | .atomic _ | .bar _ _ | .barwait _ => 2
  | .isread | .iswrite _ | .isclr _ _ => 3
  | .eread _ _ _ => 5
  | .ewrite _ _ => 6
  | _ => 0

def ReqOp.rspKind : ReqOp → Nat
  | .eread _ _ _ => 4
  | .ewrite _ _ => 1
  | x => x.kind

/-- KIND of a packet (R289). -/
def State.kindOf (s : State) : PBody → Nat
  | .req id => ((s.req? id).map fun r => r.op.kind).getD 0
  | .rsp id => ((s.req? id).map fun r => r.op.rspKind).getD 0
  | .flt id => if (s.req? id).any fun r => r.stage == .miss then 1 else 0
  | .ack _ _ _ | .trace _ => 1
  | .token _ _ _ => 4
  | .data 4 _ => 1
  | .data 5 _ => 2
  | .data 6 _ | .data 7 _ => 3
  | .data _ _ => 4
  | .credit _ _ => 5
  | .fault _ | .decrement _ _ | .beats _ _ => 0

/-- The index of the tile that a region lies in; 0 for DRAM. -/
def homeTile (pa : Nat) : Nat := if isDram pa then 0 else (pa % 2 ^ 40 - 0xF000000000) / 0x400000 % 256

/-- The tile indices that a header names as source and target (R288). -/
def State.headTiles (s : State) (p : Packet) : Nat × Nat :=
  match p.body with
  | .req id => (((s.req? id).map fun r => tileIdx r.tile).getD 0, 0)
  | .rsp id | .flt id => match s.req? id with
      | some r => (homeTile r.pa, tileIdx r.tile)
      | none => (0, 0)
  | .ack t home _ => (homeTile home, tileIdx t)
  | .token a b _ => (tileIdx a, tileIdx b)
  | .trace r => (tileIdx r.tile, 0)
  | .beats c _ => match mapFind? s.circuits c with
      | some x => (tileIdx x.src.1, tileIdx x.dst.1)
      | none => (0, 0)
  | .credit c _ => match mapFind? s.circuits c with
      | some x => (tileIdx x.dst.1, tileIdx x.src.1)
      | none => (0, 0)
  | _ => (0, 0)

/-- INFO of a packet: the requester's slot number in a reply (R289), a decrement's index and amount (R369), the count of a credit
return; the kinds whose word the spec does not give have 0 (log 113). -/
def State.infoOf (s : State) : PBody → Nat
  | .rsp id | .flt id => ((s.req? id).map (·.slotNo)).getD 0
  | .ack _ _ n => n
  | .decrement idx a => idx + (a - 1) * 2 ^ 18
  | .credit _ n => n
  | _ => 0

/-- A place as the fields of a header: the die, whether it is an IO die. -/
def headPlace (loc : Nat) : Nat × Bool := if isIo loc then (ioNum loc % 2, true) else (loc % 16, false)

/-- REPRO and NOCOMB of a request (R54, R288). -/
def ReqOp.headFlags : ReqOp → Nat
  | .atomic x => (if x.repro then 1 else 0) + if x.nocomb then 2 else 0
  | _ => 0

/-- Bytes 0 to 11 of a packet's header (R288). -/
def State.header (s : State) (p : Packet) : Nat :=
  let a := headPlace p.src
  let b := headPlace p.dst
  let t := s.headTiles p
  let target := match p.body with
    | .req id => ((s.req? id).map (·.pa)).getD 0
    | body => s.infoOf body % 2 ^ 32 + t.2 * 2 ^ 32 + b.1 * 2 ^ 40 + moduleOfLoc p.dst * 2 ^ 44
  let flags := match p.body with
    | .req id => ((s.req? id).map fun r => r.op.headFlags).getD 0
    | _ => 0
  p.cls - 1 + s.kindOf p.body * 8 + p.len * 2 ^ 8 + t.1 * 2 ^ 16 + a.1 * 2 ^ 24 + moduleOfLoc p.src * 2 ^ 28 + target % 2 ^ 54 * 2 ^ 38 +
    (if b.2 then 2 ^ 92 else 0) + (if a.2 then 2 ^ 93 else 0) + flags * 2 ^ 94

/-- PACKET_BAD: the header in bytes 32-47 (R290), with a CRC field. -/
def packetBad (die : Nat) (io : Bool) (tileByte cycle head : Nat) : FaultRec :=
  { code := cPacketBad, die := die, io := io, tileByte := tileByte, unit := 0, flags := 0, node := 0, tag := 0, task := 0, cycle := cycle,
    op0 := BitVec.ofNat 64 head, op1 := BitVec.ofNat 64 (head / 2 ^ 64), addr := 0 }

/-- A packet is no more: a reply is lost with it. -/
def State.lose (s : State) (p : Packet) : State :=
  match p.body with
  | .rsp id | .flt id => (s.dropPacket p.id).modReq id fun x => { x with stage := .lost }
  | _ => s.dropPacket p.id

/-- A packet that a link has corrupted is discarded at the end of its leg, with a record of the tile or IO die (R290); the CRC that
it carries is free. -/
def State.discard (s : State) (p : Packet) : State :=
  let head := s.header p + Config.freeNat s.tick 20 % 2 ^ 32 * 2 ^ 96
  let t := p.leg * 256 + match p.body with
    | .req id => ((s.req? id).map fun r => homeTile r.pa).getD 0
    | _ => (s.headTiles p).2
  let s1 := s.lose p
  if isIo p.leg then s1.recordIo (ioNum p.leg) (packetBad (ioNum p.leg) true 0 0 head)
  else s1.recordAt p.leg (packetBad p.leg false (tileByte t) (s1.die p.leg).cycle head)

/-! ### Moving and arriving -/

/-- A packet arrives where it is going. -/
def State.deliverPacket (s : State) (p : Packet) : State :=
  match p.body with
  | .req id => (s.dropPacket p.id).modReq id fun r => if r.stage = .transit then { r with stage := .region } else r
  | .token _ tile t =>
      (s.dropPacket p.id).toInput (tile * 16 + (t.dest.extractLsb' 12 4).toNat) (freeSource s) t
  | .rsp _ | .ack _ _ _ | .flt _ => s.dropPacket p.id
  | .beats c bs => (s.dropPacket p.id).modCircuit c fun x => { x with wire := x.wire ++ bs }
  | .credit c n => (s.dropPacket p.id).modCircuit c fun x => { x with creds := x.creds + n }
  | _ => s

/-- A whole packet at the IO die that sends it to another module: its scope is checked, and it takes the next number of its port
while at most eight are in flight (R295, R314). -/
def State.leaveModule (s : State) (p : Packet) : State :=
  let n := ioNum p.at_
  match s.ioMisses p with
  | some r => (s.dropPacket p.id).fltFrom p.at_ r .miss
  | none =>
      match (s.io n).portFor (moduleOfLoc p.dst) with
      | none => s
      | some port =>
          let key := port * 2 ^ 11 + p.entry
          let i := mapGet 0 (s.io n).sent key
          let waiting (q : Packet) : Bool := q.at_ == p.at_ && q.num.isNone && moduleOfLoc q.dst == moduleOfLoc p.dst && decide (q.cls < p.cls)
          let flying (q : Packet) : Bool := match q.numberOn port (moduleOfLoc p.src) (moduleOfLoc p.dst) with
            | some j => decide (j + 8 ≤ i)
            | none => false
          if s.isPeer (n / 2 * 16) (p.dst * 2 ^ 40) || s.packetWaits p || s.joinDue p || s.net.any waiting || s.net.any flying then s
          else
            { s.modIo n fun x => { x with sent := mapPut key (i + 1) x.sent } with
              net := s.net.map fun q => if q.id = p.id then { q with num := some (port, i) } else q }

/-- A flit has moved: the receiving IO die has delivered its packet on (R295); a packet whose last flit has come stands whole at the
end of its leg, or is discarded there. -/
def State.settleLeg (s : State) (p : Packet) : State :=
  let whole := p.left == 0 && p.worm.length == 1 && p.head == p.leg
  let p := { p with num := if moduleOfLoc p.at_ = moduleOfLoc p.dst then none else p.num }
  let q := if whole then { p with at_ := p.leg, worm := [] } else p
  let s1 := { s with net := s.net.map fun x => if x.id = p.id then q else x }
  if whole && p.bad then s1.discard p else s1

/-- A packet whose head has moved on is queued at a port of the next switch. -/
def Packet.queuedAfter (p : Packet) (s : State) (old : Nat) : Packet :=
  if p.head = old then p else { p with came := s.clockAt p.head, inp := portToward p.head old, alone := false }

/-- A request that may combine leaves the switch of its cluster for that of its die (R31), unless a join there is due or one of its
stream is still before it. -/
def State.leaveCluster (s : State) (p : Packet) : State :=
  let ahead := s.net.takeWhile fun q => q.id != p.id
  let first := !((s.sameStream p).any fun q => q.sw && q.head == p.head && ahead.any fun z => z.id == q.id)
  if s.joinDue p || !first then s
  else
    let cluster := ((s.reqOf p).map fun r => clusterOf r.tile).getD 0
    let q := { p with sw := false, came := s.clockAt p.head, inp := 16 + cluster, alone := false }
    { s with net := s.net.map fun z => if z.id = p.id then q else z }

/-- The tile that a packet is for belongs to a frozen cluster, and the packet comes from outside it: the links hold it (R461). What
the cluster's own tiles sent earlier, and replies, go on. -/
def State.heldAtHome (s : State) (p : Packet) : Bool :=
  match p.body with
  | .req id =>
      match s.req? id with
      | some r => (match regionOf r.pool r.tile r.pa with
          | (0, t) => s.heldInbound r.tile t
          | _ => false)
      | none => false
  | .token a b _ => s.heldInbound a b
  | _ => false

/-- PACKET_RECEIVE (R13, R248, R291-R293, R295, R314): packet k is delivered where it is going, takes its number at the IO die that
sends it to another module, leaves the switch of its cluster, or one of its flits moves over one link. It crosses with the writes of UALINK_CHUNK_RECEIVE. -/
def execPacketReceive (k : Nat) (s : State) : Out :=
  match s.packet? k with
  | none => ok s
  | some p =>
      if s.placeStopped p.at_ then ok s
      else if p.sw then ok (s.leaveCluster p)
      else if p.at_ = p.dst then (if s.packetWaits p || s.joinDue p || s.heldAtHome p then ok s else ok (s.deliverPacket p))
      else if p.at_ = p.leg then (if p.num.isSome then ok s else ok (s.leaveModule p))
      else
        let ahead : List Hop :=
          if s.headStays p then p.worm
          else { prev := p.head, at_ := s.hop p.head p.leg, flits := [] } :: p.worm
        match s.crawl p ahead with
        | none => ok s
        | some x => ok (s.settleLeg ({ p with worm := tidyWorm x.2 x.1, left := x.2 }.queuedAfter s p.head))

/-! ## Watchdogs (R290, R321, R350) -/

/-- What a freed slot leaves behind: the request goes on without its requester, and its reply is discarded. -/
def State.ghost (s : State) (r : Req) : State :=
  if r.op.ofUnit then s
  else
  match r.stage with
  | .transit | .region | .queued =>
      let id := s.nextId
      let g := { r with id := id, who := .none, slot := false }
      { s with reqs := s.reqs ++ [g], nextId := id + 1,
               net := s.net.map fun p => if p.body = PBody.req r.id then { p with body := PBody.req id } else p,
               contribs := s.contribs.map fun c => if c.req = some r.id then { c with req := some id } else c }
  | _ => s

/-- A request's reply has not come for 2^24 cycles. A unit that acted at the issue has its answer kept for the resubmission (log
63). -/
def State.expire (s : State) (r : Req) : State :=
  let lost := match r.op with
    | .atomic _ => true
    | .bar _ none => r.thread?.isSome
    | _ => false
  let s := s.ghost r
  let kept : Option Word := match r.op, r.stage with
    | .unit, .reply v _ | .inval _ _, .reply v _ => some v
    | _, _ => none
  match r.who with
  | .thread th d c =>
      if lost then s.failThread r th d c cAtomicLost r.va
      else if c then (s.deferFault r th cReqTimeout r.va).modReq r.id fun x => { x with slot := false, qpos := 0, bank := none, kept := kept }
      else (s.dropReq r.id).record (s.issuerRecord r cReqTimeout 0 0 0)
  | .threadPair th _ _ => (s.deferFault r th cReqTimeout r.va).modReq r.id fun x => { x with slot := false }
  | .node f _ => s.failNode r f (if lost then cAtomicLost else cReqTimeout) (firstWord f.l) (firstWord f.r) r.va
  | .engine t id => (s.dropReq r.id).engineTimeout t id r
  | _ => s

/-- REQUEST_WATCHDOG_EXPIRY (R290). -/
def execRequestWatchdogExpiry (r : Nat) (s : State) : Out :=
  match s.req? r with
  | none => ok s
  | some q =>
      let d := s.die (dieOfTile q.tile)
      if !q.slot || q.stage == .parked || d.cycle < q.cycle + 2 ^ 24 || d.tripped || !d.frozen.isEmpty then ok s
      else ok ((s.expire q).afterApply q)

/-! ## Withdrawn links (R292, R293) -/

/-- LINK_RESERVE: a circuit without another path discards its beats. -/
def State.breakCircuit (s : State) (c : Nat) (x : Circuit) : State :=
  let t := x.src.1
  let k := ((s.port? t x.src.2).map (·.task)).getD 0
  let s := (s.modCircuit c fun y => { y with broken := true }).portSend x.src.1 x.src.2
  s.record { code := cLinkReserve, die := dieOfTile t, io := false, tileByte := tileByte t, unit := x.src.2 - 16, flags := 0, node := 0,
             tag := 0, task := s.instanceId k, cycle := s.cycleOf t, op0 := 0, op1 := 0, addr := 0 }

/-- The ends of a link. -/
def linkEnds (lnk : Nat) : Nat × Nat := (lnk / 2 ^ 21, lnk % 2 ^ 21)

/-- A link is withdrawn: because retired rows leave it fewer than 48 flits, else because it has lost lanes and has no usable buffer
(R292). -/
def State.cutLink (s : State) (lnk : Nat) : State :=
  let e := linkEnds lnk
  let few := s.usable e.1 e.2 < 48 || s.usable e.2 e.1 < 48
  { s with withdrawn := s.withdrawn ++ [lnk],
           retired := if few then s.retired else mapPut (linkDir e.1 e.2) 192 (mapPut (linkDir e.2 e.1) 192 s.retired) }

/-- A link, or a UALink port, is withdrawn, and each circuit on it moves to the route its router finds (R292, R293). -/
def State.withdrawLink (s : State) (lnk : Nat) : State :=
  if s.withdrawn.contains lnk then s
  else
    let s := s.cutLink lnk
    let s := if 2 ^ 43 ≤ lnk then s.modIo ((lnk - 2 ^ 43) / 128) fun x => { x with ports := mapDel (lnk % 128) x.ports } else s
    s.circuits.foldl (fun s c =>
      if !c.2.route.contains lnk || c.2.broken then s
      else
        let route := Config.circuitRoute s.tick c.1
        if route.isEmpty || route.any s.withdrawn.contains then s.breakCircuit c.1 c.2
        else s.modCircuit c.1 fun y => { y with moving := true }) s

/-- LINK_WITHDRAW (R292, R293): lanes are lost. -/
def execLinkWithdraw (lnk : Nat) (s : State) : Out := ok (s.withdrawLink lnk)

/-! ## UALink (R288, R290, R294, R295) -/

/-- UALINK_PORT_TRAINING (R294): ports 0 to 35 are on IO die 0, 36 to 71 on IO die 1. -/
def execUalinkPortTraining (io port lanes speed : Nat) (s : State) : Out :=
  if port / 36 ≠ io % 2 ∨ 72 ≤ port ∨ !s.ioUp io then ok s
  else if lanes = 4 ∧ speed = 200 then ok (s.modIo io fun x => { x with ports := mapPut port 1 x.ports })
  else
    ok ((s.modIo io fun x => { x with ports := mapDel port x.ports }).modModule (io / 2) fun m =>
      { m with reports := m.reports ++ [[1, io, port, lanes, speed]] })

/-- KINDs of a class (R289). -/
def kindsOf (cls : Nat) : Nat :=
  match cls with
  | 0 => 5 | 1 => 2 | 2 => 6 | 3 => 7 | 4 => 1 | 5 => 2 | _ => 0

/-- A field of a header. -/
def headField (h lo n : Nat) : Nat := h / 2 ^ lo % 2 ^ n

/-- A packet's bytes are well formed (R290). -/
def packetGood (bs : List Byte) : Bool :=
  let h := bytesToNat (bs.take 16)
  let len := headField h 8 8
  decide (headField h 0 3 < 6) && decide (headField h 3 5 < kindsOf (headField h 0 3)) && decide (len ≤ 128) &&
    bs.length == 16 + 32 * len && (crc32c (bs.take 12 ++ bs.drop 16)).toNat == headField h 96 32

/-- The chunks of a packet, when all that its LEN asks for are there. -/
def assembled (cs : List (Nat × Nat × Nat × List Byte)) (src num : Nat) : Option (List Byte) :=
  let mine := cs.filter fun c => c.1 == src && c.2.1 == num
  let piece (i : Nat) : Option (List Byte) := (mine.find? fun c => c.2.2.1 == i).map (·.2.2.2)
  match piece 0 with
  | none => none
  | some b =>
      let len := headField (bytesToNat (b.take 16)) 8 8
      let n := if 128 < len then 1 else (16 + 32 * len + 255) / 256
      ((List.range n).mapM piece).map List.flatten

/-- The packet with a number that is in flight from an IO die to another and has a header's bytes 0 to 11. -/
def State.crossing (s : State) (src dst num head : Nat) : Option Packet :=
  s.net.find? fun p =>
    p.at_ == ioLoc src && moduleOfLoc p.dst != src / 2 && p.entry == dst && (p.num.map fun x => x.2 % 8) == some num &&
      s.header p == head % 2 ^ 96

/-- A whole packet reaches an IO die: PACKET_BAD, or it stands there to be forwarded in the order of its port's numbers. -/
def State.takePacket (s : State) (io src num : Nat) (bs : List Byte) : State :=
  let head := bytesToNat (bs.take 16)
  if !packetGood bs then
    let lost := s.net.filter fun p => p.at_ == ioLoc src && moduleOfLoc p.dst != src / 2 && p.entry == io && (p.num.map fun x => x.2 % 8) == some num
    (lost.foldl (fun s p => s.lose p) s).recordIo io (packetBad io true 0 0 head)
  else
    match s.crossing src io num head with
    | none => s
    | some p =>
        let input := 64 + (p.num.map (·.1)).getD 0
        { s with net := s.net.map fun q =>
            if q.id = p.id then
              { q with at_ := ioLoc io, left := q.len + 1, worm := [], came := s.tick, inp := input, alone := false }
            else q }

/-- UALINK_CHUNK_RECEIVE (R295): a write of at most 256 bytes to IO die io's receive window by IO die src. -/
def execUalinkChunkReceive (io src off : Nat) (data : List Byte) (jequa : Bool) (s : State) : Out :=
  let m := s.module (io / 2)
  let num := off / 2 ^ 8 % 8
  let chunk := off / 2 ^ 11
  if !s.ioUp io || !jequa || !m.filter.contains (src / 2) || off % 256 ≠ 0 || 16 < chunk || 256 < data.length || (s.io io).ports.isEmpty then ok s
  else
    let cs := ((s.io io).chunks.filter fun c => !(c.1 == src && c.2.1 == num && c.2.2.1 == chunk)) ++ [(src, num, chunk, data)]
    match assembled cs src num with
    | none => ok (s.modIo io fun x => { x with chunks := cs })
    | some bs =>
        ok ((s.modIo io fun x => { x with chunks := cs.filter fun c => !(c.1 == src && c.2.1 == num) }).takePacket io src num bs)

/-- TRANSACTION_LAYER_RESPONSE (R296): an accelerator answers the request that has left through the IO die. -/
def execTransactionLayerResponse (r : Nat) (v : Word) (s : State) : Out :=
  match s.req? r, s.packetOf r with
  | some q, some p =>
      if !(isIo p.at_ && s.ioUp (ioNum p.at_) && s.isPeer (dieOfTile q.tile) q.pa && (s.ioMisses p).isNone) || s.packetWaits p then ok s
      else
        let s := s.dropPacket p.id
        let w := match q.op with
          | .load n x => extendLoad n x (v.toNat % 2 ^ (8 * n))
          | .atomic x => BitVec.ofNat 64 (v.toNat % 2 ^ (8 * x.size))
          | _ => 0
        match q.op with
        | .eread num off n => ok ((s.applyEread q num off n).afterApply q)
        | _ => ok ((s.answerFrom p.at_ q w false).afterApply q)
  | _, _ => ok s

/-! ## PCIe (R453) -/

/-- A device access lies inside one of the root port's windows. -/
def Io.inWindow (x : Io) (a n : Nat) : Bool := x.windows.any fun w => decide (w.2.1 ≤ a) && decide (a + n ≤ w.2.2 + 1)

/-- PCIE_DMA_ACCESS (R453): addr lies in the module's physical space; data gives the length of a read. It waits for memory that does
not answer (R459, R461). -/
def execPcieDmaAccess (io : Nat) (wr : Bool) (addr : Nat) (data : List Byte) (s : State) : Out :=
  let n := data.length
  let pa := io / 2 * 2 ^ 44 + addr
  let backed := (List.range n).all fun i =>
    !s.guarded (pa + i) && match backing s (pa + i) with
      | .unbacked => false
      | _ => true
  if n = 0 ∨ !s.ioUp io ∨ !((List.range n).all fun i => s.homeUp (io / 2 * 16) (pa + i)) then ok s
  else if (s.io io).inWindow addr n && backed && (!wr || s.writable pa n) then
    ok (if wr then s.writeBytes pa data else s)
  else
    ok (s.recordIo io
      { code := cAccessFault, die := io, io := true, tileByte := 0, unit := 0, flags := 0, node := 0, tag := 0, task := 0, cycle := 0,
        op0 := 0, op1 := 0, addr := BitVec.ofNat 64 addr })

end Sys2Proof.Machine
end

