-- ==== Sys2Proof/Machine/Allot.lean ====
section
/-! DEFINITION. The dispatcher at work: what fits, the reservation of the pool, prefetch, the configuration loader, the start
of a task, its completion (13_task_class.md R370-R383; 02_formats.md R72-R76; 03_assembly.md R92; 11_scope_class.md R320). -/

namespace Sys2Proof.Machine

/-! ## Reading through an address space -/

/-- A range of VAs cut at the 4 KiB bounds of pages: start and length of each piece. -/
def virtPieces (va n : Nat) : List (Nat × Nat) :=
  ((List.range ((va % 4096 + n + 4095) / 4096)).map fun k =>
    let lo := max va ((va / 4096 + k) * 4096)
    (lo, min (va + n) ((va / 4096 + k + 1) * 4096) - lo)).filter fun x => x.2 != 0

/-- The memory keys of a range of VAs, translated page by page; a fault with the address it meets: what is protected (R453), what
does not answer (R290; log 63), then what `bad` names that a key is refused for. -/
def State.virtKeys (s : State) (die asid va n : Nat) (write : Bool) (bad : Nat → Option Nat) : Except (Nat × Nat) (List Nat) :=
  (virtPieces va n).foldl (fun acc x =>
    match acc with
    | .error e => .error e
    | .ok ks =>
        match translate s die asid (BitVec.ofNat 64 x.1) write with
        | .error c => .error (c, x.1)
        | .ok pa =>
            let hit := if s.isPeer die pa then none else s.guardHit pa x.2
            match (hit.map fun i => (cAccessFault, x.1 + i)).or
              ((if s.homeUp die pa then none else some (cReqTimeout, x.1)).or
                ((List.range x.2).findSome? fun i => (bad (pa + i)).map fun c => (c, x.1 + i))) with
            | some e => Except.error e
            | none => .ok (ks ++ (List.range x.2).map fun i => pa + i)) (.ok [])

/-- Bytes from a VA, each read at its home; a fault with the address it meets. -/
def State.readVirt (s : State) (die asid va n : Nat) : Except (Nat × Nat) (List Byte) :=
  match s.virtKeys die asid va n false fun k => if s.poisoned k 1 then some cEccUncorr else none with
  | .error e => .error e
  | .ok ks => .ok (ks.map (s.homeByte die))

/-! ## Pool bytes set to zero (R371, R378) -/

/-- Zero-fill of a pool range. -/
def State.zeroPool (s : State) (t a n : Nat) : State :=
  let gone (key : Nat) : Bool := match s.poolAddr? t key with
    | some x => decide (a ≤ x ∧ x < a + n)
    | none => false
  { s with mem := s.mem.filter fun (c : Host.Cell) => !gone c.1, ecc := s.ecc.filter fun (w : Nat) => !gone (8 * w) }

/-- Zero-fill of a range of memory keys. -/
def State.zeroKeys (s : State) (a n : Nat) : State :=
  { s with mem := s.mem.filter fun (c : Host.Cell) => !decide (a ≤ c.1 ∧ c.1 < a + n),
           ecc := s.ecc.filter fun (w : Nat) => !decide (a ≤ 8 * w ∧ 8 * w < a + n) }

/-! ## Placing the parts of a task (R377) -/

/-- First fit: the lowest base from lo whose n units end by lim and are not in use. -/
def firstFit (lo lim n : Nat) (used : List (Nat × Nat)) : Option Nat :=
  let free (b : Nat) : Bool :=
    decide (lo ≤ b ∧ b + n ≤ lim) && (n == 0 || used.all fun u => u.2 == 0 || decide (b + n ≤ u.1 ∨ u.1 + u.2 ≤ b))
  ((lo :: used.map fun u => u.1 + u.2).filter free).foldl (fun m b => match m with
    | none => some b
    | some x => some (min x b)) none

/-- Tasks of a die that have been started and still hold their allotment. -/
def State.started (s : State) (die : Nat) : List (Nat × TaskRun) :=
  (s.die die).runs.filter fun x => ((s.record? (taskKey die x.1)).map (·.state)) == some 5

/-- The started tasks that hold a part of a tile. -/
def State.tileRuns (s : State) (t : Nat) : List (TaskRun × TaskTile) :=
  (s.started (dieOfTile t)).filterMap fun x => (mapFind? x.2.tiles t).map fun y => (x.2, y)

def State.computeTiles (s : State) (k : Nat) : List Nat := (s.region k).filter fun t => !isMemTile t

/-- The record can never be reserved: its type entry may not be used, or its region can never fit (R366, R377). -/
def State.neverFits (s : State) (k : Nat) (type : List Word) : Bool :=
  !typeValid type || (s.region k).isEmpty || ((s.computeTiles k).isEmpty && typeMthreads type == 0)

/-- The lowest granule base of a compute tile for n granules. -/
def State.granuleBase (s : State) (t n : Nat) : Option Nat :=
  firstFit 0 32 n ((s.tile t).owners.map fun x => (x.1, 1))

def poolNeed (type : List Word) : Nat := typeFrame type + typeScratch type + typeAcc type

/-- The pool part fits on every compute tile. -/
def State.poolFits (s : State) (k : Nat) (type : List Word) : Bool :=
  (s.computeTiles k).all fun t => (s.granuleBase t (poolNeed type)).isSome

/-- Where the parts of a start go on a tile. -/
structure Place where
  tile : Nat
  nodeBase : Nat
  thrBase : Nat
  thrCount : Nat
  table : Nat
  ovfBase : Nat
  deriving DecidableEq, Repr, Inhabited

/-- The places on one tile; `ovf` are the parts of the overflow area in use. -/
def State.placeTile (s : State) (type : List Word) (ovf : List (Nat × Nat)) (t : Nat) : Option Place :=
  let rs := s.tileRuns t
  let thr := if isMemTile t then typeMthreads type else typeThreads type
  let thrBase := firstFit 0 (if isMemTile t then 4 else 8) thr (rs.map fun x => (x.2.thrBase, x.2.thrCount))
  if isMemTile t then
    thrBase.map fun b => { tile := t, nodeBase := 0, thrBase := b, thrCount := thr, table := 0, ovfBase := 0 }
  else
    let area := ((s.die (dieOfTile t)).overflow).getD { base := 0, len := 0 }
    match thrBase, firstFit 0 1024 (typeNodes type) (rs.map fun x => (x.2.nodeBase, typeNodes x.1.type)),
        freePlace 16 (rs.map fun x => x.2.table), firstFit area.base (area.base + area.len) (typeOvf type * 65536) ovf with
    | some b, some n, some g, some o => some { tile := t, nodeBase := n, thrBase := b, thrCount := thr, table := g, ovfBase := o }
    | _, _, _, _ => none

/-- The places on every tile of a list. -/
def State.placeTiles (s : State) (type : List Word) : List Nat → List (Nat × Nat) → Option (List Place)
  | [], _ => some []
  | t :: ts, ovf =>
      match s.placeTile type ovf t with
      | none => none
      | some p =>
          let ovf := if isMemTile t then ovf else (p.ovfBase, typeOvf type * 65536) :: ovf
          (s.placeTiles type ts ovf).map fun ps => p :: ps

/-- Parts of a die's overflow area in use. -/
def State.overflowUsed (s : State) (die : Nat) : List (Nat × Nat) :=
  (s.started die).flatMap fun x =>
    x.2.tiles.filterMap fun y => if isMemTile y.1 then none else some (y.2.ovfBase, typeOvf x.2.type * 65536)

/-- The lowest context free on every compute tile of the region (R216). -/
def State.commonCtx (s : State) (k : Nat) : Option Nat :=
  ((List.range 65535).find? fun i => (s.computeTiles k).all fun t => (mapFind? (s.tile t).ctx (i + 1)).isNone).map (· + 1)

/-! ## Roles (R27, R92, R240) -/

/-- The tile at an offset from a task's anchor, inside its region. -/
def TaskRec.tileAt (r : TaskRec) (die x y : Nat) : Option Nat :=
  if x ≤ r.rw ∧ y ≤ r.rh then some (die * 256 + (r.ay + y) * 16 + r.ax + x) else none

/-- The role a configuration gives a memory tile of the region. -/
def roleOf (r : TaskRec) (die : Nat) (f : FabricCfg) (t : Nat) : Nat :=
  ((f.roles.find? fun x => r.tileAt die x.1 x.2.1 == some t).map (·.2.2)).getD 0 % 3

/-- A request is outstanding in the role of a memory tile. -/
def State.roleBusy (s : State) (t : Nat) : Bool :=
  s.reqs.any fun r => r.bank == some t || (match s.reqPa r with
    | some pa => regionOf r.pool r.tile pa == (0, t)
    | none => r.pool && r.tile == t)

/-- Every memory tile that a start would give its role finds no request outstanding (R27). -/
def State.rolesFree (s : State) (k : Nat) : Bool :=
  ((s.region k).filter isMemTile).all fun t => !s.roleBusy t

/-- A configuration gives a memory tile its role (R27); an addressed buffer is zero-filled, one that was a buffer too (R240). -/
def State.swapRole (s : State) (t role : Nat) : State :=
  let c := s.cycleOf t
  s.modTile t fun x => { x with mrole := role, cache := [], fill := if role = 0 then some (c + 65536) else none }

/-- What a start needs beside the pool (R377). -/
def State.fits (s : State) (k : Nat) : Option (Nat × List Place) :=
  match s.run? k, s.record? k with
  | some run, some _ =>
      if !s.rolesFree k then none
      else
        match s.placeTiles run.type (s.region k) (s.overflowUsed (dieOfTask k)), s.commonCtx k with
        | some ps, some c => some (c, ps)
        | _, _ => none
  | _, _ => none

/-! ## Reservation and prefetch (R363, R371-R373) -/

/-- A used operand: its number, distribution, buffer slot, length and offset in bytes. -/
structure Opd where
  j : Nat
  dist : Nat
  buf : Nat
  len : Nat
  off : Nat
  deriving DecidableEq, Repr, Inhabited

def TaskRec.opds (r : TaskRec) : List Opd :=
  ((r.opd.zip (List.range 4)).map fun x =>
    { j := x.2, dist := (x.1.extractLsb' 0 2).toNat, buf := (x.1.extractLsb' 2 4).toNat,
      len := ((x.1.extractLsb' 6 11).toNat + 1) * 1024, off := (x.1.extractLsb' 17 15).toNat * 1024 }).filter fun o => o.dist != 0

/-- A tile receives an operand. -/
def State.receives (s : State) (k t : Nat) (o : Opd) : Bool := o.dist != 2 || (s.computeTiles k).head? == some t

/-- Where a receiving tile places operand j, from the start of its SCRATCH range. -/
def State.opdPlace (s : State) (k t : Nat) (r : TaskRec) (o : Opd) : Nat :=
  ((r.opds.filter fun q => decide (q.j < o.j) && s.receives k t q).map (·.len)).sum

/-- The first SCRATCH byte of a task on a tile. -/
def State.scratchBase (s : State) (k t : Nat) : Nat :=
  ((s.taskTile k t).granBase + typeFrame (s.taskType k)) * 0x10000

/-- The use word of granules from a base. -/
def poolUse (b : Nat) (type : List Word) (i : Nat) : Nat :=
  if i < b then 0
  else if i < b + typeFrame type then 1
  else if i < b + typeFrame type + typeScratch type then 2
  else if i < b + poolNeed type then 3
  else 0

/-- Granules are reserved on a compute tile, and the SCRATCH bytes that no operand covers are zero (R371). -/
def State.reserveTile (k : Nat) (r : TaskRec) (type : List Word) (s : State) (t : Nat) : State :=
  let b := (s.granuleBase t (poolNeed type)).getD 0
  let s := s.modTile t fun x =>
    { x with owners := (List.range (poolNeed type)).foldl (fun m i => mapPut (b + i) k m) x.owners,
             poolpart := (List.range 32).foldl (fun w i =>
               if b ≤ i ∧ i < b + poolNeed type then setField w (2 * i) 2 (poolUse b type i) else w) x.poolpart }
  let s := s.modTaskTile k t fun x => { x with granBase := b }
  let covered := ((r.opds.filter (s.receives k t)).map (·.len)).sum
  s.zeroPool t (s.scratchBase k t + covered) (typeScratch type * 0x10000 - covered)

/-- The buffer VA an operand names. -/
def State.bufVa (s : State) (k : Nat) (r : TaskRec) (buf : Nat) : Nat :=
  (((s.inst? (dieOfTask k) r.inst).map Inst.bufs).getD []).getD buf 0 |>.toNat

/-- The first malformed operand (R373). -/
def State.badOpd (s : State) (k : Nat) (r : TaskRec) : Option Opd :=
  r.opds.find? fun o =>
    s.bufVa k r o.buf % 128 != 0 ||
      (s.computeTiles k).any fun t => s.receives k t o && decide (typeScratch (s.taskType k) * 0x10000 < s.opdPlace k t r o + o.len)

/-- Every operand has landed: READY (R372). -/
def State.makeReady (s : State) (k : Nat) : State :=
  let die := dieOfTask k
  ((s.setTaskState k 4).modRun k fun x => { x with since := (s.die die).cycle }).modDie die fun d =>
    d.enqueueReady (typePrio (s.taskType k)) (idxOfTask k)

/-- TASK_BAD and failure (R365, R381). -/
def State.taskBad (s : State) (k : Nat) (v : Word) : State :=
  ((s.dispRecord k cTaskBad 0 v 0).modDie (dieOfTask k) fun d => d.unqueue (idxOfTask k)).failTask k
    (BitVec.ofNat 64 cTaskBad)

/-- A head of a pending queue that fits is reserved (R371). -/
def State.reserve (s : State) (k : Nat) (r : TaskRec) (type : List Word) : State :=
  let s := s.modDie (dieOfTask k) fun d => d.unqueue (idxOfTask k)
  let s := (s.computeTiles k).foldl (State.reserveTile k r type) s
  let s := s.setTaskState k 3
  match s.badOpd k r with
  | some o => s.taskBad k (BitVec.ofNat 64 (s.bufVa k r o.buf))
  | none =>
      if r.opds.isEmpty then s.makeReady k
      else s.modRun k fun x => { x with prefetch := r.opds.map (·.j) }

/-- The heads of the pending queues from a priority down; the first that fits is reserved. -/
def pendingGo (die : Nat) : Nat → State → State
  | 0, s => s
  | q + 1, s =>
      match (mapGet [] (s.die die).pending q).head? with
      | none => pendingGo die q s
      | some idx =>
          let k := taskKey die idx
          match s.record? k with
          | none => pendingGo die q (s.modDie die fun d => d.unqueue idx)
          | some r =>
              let type := s.taskType k
              if s.neverFits k type then pendingGo die q (s.taskBad k 0)
              else if s.poolFits k type then s.reserve k r type
              else pendingGo die q s

/-- PENDING_PASS (R371). -/
def execPendingPass (die : Nat) (s : State) : Out := if (s.die die).tripped then ok s else ok (pendingGo die 8 s)

/-! ## The configuration loader (R92, R283, R320, R383) -/

/-- The lowest free port of a direction on a tile: keys from lo. -/
def State.freePort (s : State) (t lo : Nat) : Option Nat :=
  ((List.range 16).find? fun i => (s.port? t (lo + i)).isNone).map (lo + ·)

/-- A circuit between two ports; a far end that is no port has completed, and takes no beat (R383). -/
def State.connect (s : State) (src dst : Nat × Nat) (width : Nat) : State :=
  let c := s.nextId
  let route := Config.circuitRoute s.tick c
  let x : Circuit := { src := src, dst := dst, width := width, wire := [], creds := 0, route := route, moving := false, broken := false }
  let s := { s with circuits := mapPut c x s.circuits, nextId := c + 1 }
  let far := s.port? dst.1 dst.2
  let s := match far with
    | some q => s.setPort dst.1 dst.2 { q with circuit := some c }
    | none => s
  match s.port? src.1 src.2 with
  | some p =>
      (s.setPort src.1 src.2
        { p with circuit := some c, credits := 64, beats := restamp ((far.bind (·.addr)).getD 0) 0 p.beats }).portSend src.1 src.2
  | none => s

/-- The port that belongs to a graph-level stream. -/
def State.graphPort (s : State) (key : Nat) (out : Bool) : Option (Nat × Nat) :=
  s.tiles.findSome? fun t => (t.2.ports.find? fun p => p.2.graph == some key && decide (16 ≤ p.1) == out).map fun p => (t.1, p.1)

/-- The consumer of a graph-level stream has completed before its producer starts. -/
def State.consumerGone (s : State) (key : Nat) : Bool := s.dies.any fun d => d.2.gone.contains key

/-- A key of a port that no tile has. -/
def noPort : Nat := 32

/-- A stream of the configuration gets its ports (R283); none where a tile has no free port or an end lies outside. A graph-level
circuit is made when the later of its tasks starts (R383). -/
def State.addStream (k : Nat) (r : TaskRec) (s : State) (d : StreamDecl) : Option State :=
  let die := dieOfTask k
  let outPort (t : Nat) (g : Option Nat) : Option (Nat × State) :=
    (s.freePort t 16).map fun j => (j, s.setPort t j { Port.fresh with task := k, addr := d.at_, graph := g })
  let inPort (s : State) (t : Nat) (g : Option Nat) : Option (Nat × State) :=
    (s.freePort t 0).map fun j => (j, s.setPort t j { Port.fresh with task := k, addr := d.into_, graph := g })
  match d.graph with
  | none =>
      match r.tileAt die d.fx d.fy, r.tileAt die d.tx d.ty with
      | some a, some b =>
          (outPort a none).bind fun x => (inPort x.2 b none).map fun y => y.2.connect (a, x.1) (b, y.1) d.width
      | _, _ => none
  | some (name, true) =>
      let key := graphKey d.pod die r.inst name
      (r.tileAt die d.fx d.fy).bind fun a => (outPort a (some key)).map fun x =>
        match x.2.graphPort key false with
        | some b => x.2.connect (a, x.1) b d.width
        | none => if s.consumerGone key then x.2.connect (a, x.1) (a, noPort) d.width else x.2
  | some (name, false) =>
      let key := graphKey d.pod die r.inst name
      (r.tileAt die d.tx d.ty).bind fun b => (inPort s b (some key)).map fun x =>
        let s := x.2.modDie die fun y => { y with gone := y.gone.filter fun g => g != key }
        match s.graphPort key true with
        | some a => s.connect a (b, x.1) d.width
        | none => s

def State.addStreams (k : Nat) (r : TaskRec) : List StreamDecl → State → Option State
  | [], s => some s
  | d :: ds, s => (s.addStream k r d).bind (State.addStreams k r ds)

/-- Each stream with the state that its ports are chosen in, the earlier ones having theirs (R283). -/
def streamTurns (k : Nat) (r : TaskRec) : List StreamDecl → State → List (StreamDecl × State)
  | [], _ => []
  | d :: ds, s => (d, s) :: streamTurns k r ds ((State.addStream k r s d).getD s)

/-! ### The scope check (R320) -/

/-- Application cores and PCIe devices of a module, and the accelerators (R306). -/
def ScopeSnap.hasCores (x : ScopeSnap) (t m : Nat) : Bool :=
  match x.idx with
  | 6 => moduleOfTile t == m
  | 7 => x.mods.contains m
  | 8 | 10 => true
  | _ => false

def ScopeSnap.hasDevices (x : ScopeSnap) (t m : Nat) : Bool := if x.idx = 9 then moduleOfTile t == m else x.idx == 10

/-- set(x, t) lies in set(y, u), over the modules in question. -/
def ScopeSnap.within (mods : List Nat) (x : ScopeSnap) (t : Nat) (y : ScopeSnap) (u : Nat) : Bool :=
  y.idx != 0 && (x.idx != 10 || y.idx == 10) && mods.all fun m =>
    (!x.hasCores t m || y.hasCores u m) && (!x.hasDevices t m || y.hasDevices u m) &&
    (List.range 16).all fun d => (!x.hasDram t (m * 16 + d) || y.hasDram u (m * 16 + d)) &&
      (List.range 256).all fun i => !x.hasTile t ((m * 16 + d) * 256 + i) || y.hasTile u ((m * 16 + d) * 256 + i)

/-- The modules that a comparison of two scopes has to look at: the task's, those of the ends, the partition's and one
beyond them. -/
def State.scopeMods (s : State) (k t u : Nat) : List Nat :=
  let ms := [moduleOfDie (dieOfTask k), moduleOfTile t, moduleOfTile u] ++ s.partition k
  ms ++ ((List.range 1024).find? fun m => !ms.contains m).toList

/-- A node record of a task's image: PE, number, its bits, its VA. -/
structure ImageRec where
  pe : Nat
  num : Nat
  raw : BitVec 128
  va : Nat
  deriving DecidableEq, Repr, Inhabited

def ImageRec.record (x : ImageRec) : Option NodeRecord :=
  match decodeSlot x.raw with
  | .ok r => some r
  | .error _ => none

/-- A boundary node of a circuit: a WIDEN with a fixed scope that contains both ends' sets. -/
def State.boundary (s : State) (k : Nat) (a b : ScopeSnap) (t u : Nat) (x : NodeRecord) : Bool :=
  let w : ScopeSnap := { idx := x.r.litScope.toNat, image := [], mods := s.partition k }
  x.op == .widenNode && decide (w.idx < 11) && ScopeSnap.within (s.scopeMods k t u) a t w t && ScopeSnap.within (s.scopeMods k t u) b u w t

/-- The ends of a stream and its capture address, the far end of a graph-level stream being where its port is; the records
that may stand at the capture address. -/
def State.streamEnds (s : State) (k : Nat) (r : TaskRec) (recs : List NodeRecord) (d : StreamDecl) :
    Option (Nat × Nat × Option (BitVec 16) × List NodeRecord) :=
  let die := dieOfTask k
  let here (x y : Nat) := r.tileAt die x y
  match d.graph with
  | none => (here d.fx d.fy).bind fun a => (here d.tx d.ty).map fun b => (a, b, d.at_, recs)
  | some (name, true) =>
      (here d.fx d.fy).bind fun a => (s.graphPort (graphKey d.pod die r.inst name) false).map fun b => (a, b.1, d.at_, recs)
  | some (name, false) =>
      (here d.tx d.ty).bind fun b => (s.graphPort (graphKey d.pod die r.inst name) true).bind fun a =>
        (s.port? a.1 a.2).map fun p => (a.1, b, p.addr, (s.nodes.filter fun x => x.2.task == p.task).filterMap fun x => x.2.rcd)

/-- A circuit passes the check. -/
def State.scopeCheck (s : State) (k : Nat) (r : TaskRec) (recs : List NodeRecord) (d : StreamDecl) : Bool :=
  match d.fromScope.or d.toScope, d.toScope.or d.fromScope, s.streamEnds k r recs d with
  | some i, some j, some (t, u, addr, recs) =>
      let a : ScopeSnap := { idx := i, image := [], mods := s.partition k }
      let b : ScopeSnap := { idx := j, image := [], mods := s.partition k }
      let mods := s.scopeMods k t u
      ScopeSnap.within mods a t b u || ScopeSnap.within mods b u a t || match addr with
        | none => false
        | some x => recs.all fun n => if n.r.dsta = x ∨ n.r.dstb = x then s.boundary k a b t u n else true
  | _, _, _ => true

/-! ### Node records (R72-R76, R219, R366) -/

/-- Destinations that a record's literal holds. -/
def literalDests (x : NodeRecord) : List (BitVec 16) :=
  match x.op with
  | .callt => [x.r.lit32.extractLsb' 0 16]
  | .dup => [x.r.lit32.extractLsb' 0 16, x.r.lit32.extractLsb' 16 16]
  | .sendTok => [x.r.lit32.extractLsb' 16 16]
  | _ => []

/-- The tag fields a record names (R72, R219, R332, R415). -/
def namedFields (x : NodeRecord) : List Nat :=
  let sel (n : Nat) : List Nat := if n < 6 then [n] else []
  (match x.r.act with
    | .inc | .enter | .exit | .setv => [x.r.k.toNat]
    | _ => []) ++
  match x.op with
  | .tagget | .tagset => sel (x.r.lit32.extractLsb' 0 3).toNat
  | .barNode => if x.r.lit32.getLsbD 27 then [(x.r.lit32.extractLsb' 24 3).toNat] else []
  | .commit => [(x.r.lit32.extractLsb' 0 3).toNat]
  | _ => []

/-- The LOOPENT a WAVE or LOOPEXIT names stands on its PE with its K. -/
def loopNamed (recs : List ImageRec) (pe : Nat) (x : NodeRecord) : Bool :=
  (x.r.lit32.extractLsb' 12 4).toNat == pe && recs.any fun y =>
    y.pe == pe && y.num == (x.r.lit32.extractLsb' 2 10).toNat && match y.record with
      | some n => n.op == .loopent && n.r.k == x.r.k
      | none => false

/-- The checks of R72 and R219 that need the task's type and its other records. -/
def taskRecordOk (type : List Word) (recs : List ImageRec) (pe : Nat) (x : NodeRecord) : Bool :=
  let inRange (d : BitVec 16) : Bool := d == destNone || decide ((d.extractLsb' 2 10).toNat < typeNodes type)
  (x.r.dsta :: x.r.dstb :: literalDests x).all inRange && (namedFields x).all (fun j => decide (0 < typeTagWidth type j)) &&
    match x.op with
    | .wave | .loopexit => loopNamed recs pe x
    | .loopent => decide (x.r.lit32.toNat ≤ 2 ^ (typeTagWidth type x.r.k.toNat - 1))
    | .callt => decide (0 < typeFrame type)
    | .recv => (x.r.lit32.extractLsb' 0 4).toNat == 0
    | _ => true

/-- A record is legal for its task. -/
def ImageRec.legal (type : List Word) (recs : List ImageRec) (x : ImageRec) : Bool :=
  match x.record with
  | some n => taskRecordOk type recs x.pe n
  | none => false

/-- The node image of a task, PE by PE; empty slots stay zero (R366). -/
def State.nodeImage (s : State) (k : Nat) (type : List Word) : Except (Nat × Nat) (List ImageRec) :=
  (List.range 16).flatMapM fun e => (List.range (typeNodes type)).mapM fun v =>
    let va := typeNodeVa type + 16 * (16 * v + e)
    match s.readVirt (dieOfTask k) (s.taskAsid k) va 16 with
    | .error c => .error c
    | .ok bs => .ok { pe := e, num := v, raw := BitVec.ofNat 128 (bytesToNat bs), va := va }

/-- The ILLEGAL_NODE record of a launch (R76). -/
def State.illegalNode (s : State) (k t : Nat) (x : ImageRec) : State :=
  s.record { code := cIllegalNode, die := dieOfTile t, io := false, tileByte := tileByte t, unit := x.pe, flags := 0, node := x.num,
             tag := 0, task := s.instanceId k, cycle := s.cycleOf t, op0 := x.raw.extractLsb' 0 64,
             op1 := (x.raw.extractLsb' 64 32).setWidth 64, addr := BitVec.ofNat 64 x.va }

/-- The ILLEGAL_NODE record of a delivery address beyond the node-store demand (R283). -/
def State.illegalInto (s : State) (k : Nat) (r : TaskRec) (d : StreamDecl) : State :=
  let t := (r.tileAt (dieOfTask k) d.tx d.ty).getD 0
  let a := d.into_.getD 0
  s.record { code := cIllegalNode, die := dieOfTile t, io := false, tileByte := tileByte t, unit := (a.extractLsb' 12 4).toNat,
             flags := 0, node := (a.extractLsb' 2 10).toNat, tag := 0, task := s.instanceId k, cycle := s.cycleOf t, op0 := 0,
             op1 := 0, addr := 0 }

/-- The from tile, outbound port and capture address of a stream: its own, or those of the producer of a graph-level stream that
comes in. -/
def State.streamSource (s : State) (k : Nat) (r : TaskRec) (d : StreamDecl) : Nat × Nat × Option (BitVec 16) :=
  let die := dieOfTask k
  let t := (r.tileAt die d.fx d.fy).getD 0
  let own := (t, ((s.freePort t 16).getD 16) - 16, d.at_)
  match d.graph with
  | some (name, false) => match s.graphPort (graphKey d.pod die r.inst name) true with
      | some a => (a.1, a.2 - 16, (s.port? a.1 a.2).bind (·.addr))
      | none => own
  | _ => own

/-- The SCOPE_CHANNEL record of a circuit, given with the state in which it gets its ports (R320). -/
def State.scopeChannel (s : State) (k : Nat) (r : TaskRec) (x : StreamDecl × State) : State :=
  let y := x.2.streamSource k r x.1
  s.record { code := cScopeChannel, die := dieOfTile y.1, io := false, tileByte := tileByte y.1, unit := y.2.1, flags := 0,
             node := (y.2.2.map (·.toNat)).getD 0, tag := 0, task := s.instanceId k, cycle := s.cycleOf y.1, op0 := 0, op1 := 0, addr := 0 }

/-! ## The start (R378, R379) -/

/-- Step 1 on a tile: its places; FRAME, ACC and overflow table are zero, its scope entries dead with generation 0. -/
def State.clearTile (k : Nat) (type : List Word) (s : State) (p : Place) : State :=
  let t := p.tile
  let s := s.modTaskTile k t fun x =>
    { TaskTile.reset with granBase := x.granBase, nodeBase := p.nodeBase, thrBase := p.thrBase, thrCount := p.thrCount,
                          table := p.table, ovfBase := p.ovfBase }
  let s := (s.setDbg t (0x200 + 16 * p.table) 0).setDbg t (0x208 + 16 * p.table) 0
  if isMemTile t then s
  else
    let g := (s.taskTile k t).granBase
    let s := s.zeroPool t (g * 0x10000) (typeFrame type * 0x10000)
    let s := s.zeroPool t ((g + typeFrame type + typeScratch type) * 0x10000) (typeAcc type * 0x10000)
    s.zeroKeys (dieOfTile t * 2 ^ 40 + p.ovfBase) (typeOvf type * 65536)

/-- Step 2 on a tile: the node records are in its stores, empty and illegal ones blocked (R73, R366); every firing weight is 1 (R212). -/
def State.loadNodes (k : Nat) (type : List Word) (recs : List ImageRec) (s : State) (p : Place) : State :=
  let t := p.tile
  let used := recs.filter fun x => x.raw != 0
  if isMemTile t then s
  else
    let s := (List.range 16).foldl (fun s e => s.modPe (16 * t + e) fun x => { x with weights := [] }) s
    { s with nodes := recs.foldl (fun (m : SMap NodeSlot) (x : ImageRec) =>
        mapPut ((16 * t + x.pe) * 1024 + p.nodeBase + x.num)
          { raw := x.raw, task := k, va := x.va, blocked := x.raw == 0 || !x.legal type used, bad := x.raw, trapped := false, discarded := false,
            held := [] } m) s.nodes }

/-- MS.EXCMODE as a start writes it (R110). -/
def typeExcmode (type : List Word) : Word := BitVec.ofNat 64 (typeExc type + if typeFtz type then 4096 else 0)

/-- The threads of a tile get their reset values; the lowest starts (R378 steps 3 and 5). -/
def State.startThreads (k : Nat) (type : List Word) (s : State) (p : Place) : State :=
  let c := s.cycleOf p.tile
  let fresh : Thread := { Thread.reset with task := some k, excmode := typeExcmode type, lastIssue := c }
  let s := (List.range p.thrCount).foldl (fun s i => s.setThread (8 * p.tile + p.thrBase + i) fresh) s
  if p.thrCount = 0 then s
  else
    s.modThread (8 * p.tile + p.thrBase) fun x =>
      { x with running := true, pc := BitVec.ofNat 64 (if isMemTile p.tile then typeMseqVa type else typeSeqVa type) }

/-- The first token of a compute tile (R378 step 6). -/
def State.startToken (r : TaskRec) (ctx : Nat) (recs : List ImageRec) (s : State) (p : Place) : State :=
  if isMemTile p.tile || !(recs.any fun x => x.pe == 0 && x.num == 0 && x.raw != 0) then s
  else
    let v := tileX p.tile - r.ax + (tileY p.tile - r.ay) * 16
    s.toInput (16 * p.tile) (freeSource s)
      { tag := BitVec.ofNat 64 (ctx * 2 ^ 48), dest := 0, words := [{ w := BitVec.ofNat 64 v, p := false, n := false, wide := false }],
        eos := false } |>.fresh

/-- The cache banks that serve the compute tiles of the region are dropped (R378 step 4). -/
def State.dropServing (s : State) (k : Nat) : State :=
  (s.computeTiles k).foldl (fun s t => (adjacent t).foldl (fun s u => s.modTile u fun x => { x with cache := [] }) s) s

/-- A launch fails (R74). -/
def State.launchFails (s : State) (k code : Nat) : State := s.failTask k (BitVec.ofNat 64 code)

/-- A task that fits is started (R378): the configuration, the clearing, the records, the threads, the token. Roles and the ends of
streams inside the region ask for an anchor that is a compute tile (R92). A launch that is wrong in several ways reports the first
of: the anchor (TASK_BAD), the image's illegal records, SCOPE_CHANNEL, a delivery address beyond the demand, the ports (DESIGN
CHOICE, log 116: no rule orders them). -/
def State.startTask (s : State) (k ctx : Nat) (ps : List Place) : State :=
  match s.run? k, s.record? k with
  | some run, some r =>
      let type := run.type
      let streams := run.fabric.streams
      let s := s.modDie (dieOfTask k) fun d => d.unqueue (idxOfTask k)
      let anchor := dieOfTask k * 256 + r.ay * 16 + r.ax
      if isMemTile anchor && !(run.fabric.roles.isEmpty && streams.all fun d => d.graph.isSome) then s.taskBad k 0
      else
        let s := ps.foldl (State.clearTile k type) s
        match s.nodeImage k type with
        | .error (c, va) => (s.dispRecord k c 0 (BitVec.ofNat 64 va) 0).launchFails k c
        | .ok recs =>
            let used := recs.filter fun x => x.raw != 0
            let bad := used.filter fun x => !x.legal type used
            let cut := (streamTurns k r streams s).filter fun x => !s.scopeCheck k r (used.filterMap ImageRec.record) x.1
            let late := streams.filter fun d => match d.into_ with
              | some a => decide (typeNodes type ≤ (a.extractLsb' 2 10).toNat)
              | none => false
            if !bad.isEmpty then
              ((s.computeTiles k).foldl (fun s t => bad.foldl (fun s x => s.illegalNode k t x) s) s).launchFails k cIllegalNode
            else if !cut.isEmpty then (cut.foldl (fun s x => s.scopeChannel k r x) s).launchFails k cScopeChannel
            else if !late.isEmpty then (late.foldl (fun s d => s.illegalInto k r d) s).launchFails k cIllegalNode
            else
              match State.addStreams k r streams s with
              | none => s.taskBad k 0
              | some s =>
                  let s := ((s.region k).filter isMemTile).foldl (fun s t => s.swapRole t (roleOf r (dieOfTask k) run.fabric t)) s
                  let s := ps.foldl (State.loadNodes k type recs) s
                  let s := (s.computeTiles k).foldl (fun s t => s.drawCtx k t ctx) s
                  let s := s.dropServing k
                  let s := s.modRun k fun x => { x with ctx := ctx }
                  let n := (s.computeTiles k).length + if typeMthreads type = 0 then 0 else ((s.region k).filter isMemTile).length
                  let s := (s.setTaskState k 5).setTaskCount k n
                  let s := ps.foldl (State.startThreads k type) s
                  ps.foldl (State.startToken r ctx recs) s
  | _, _ => s

/-! ## Energy windows and the selection pass (R374, R375) -/

def State.budget (s : State) (die : Nat) : Nat := ((s.die die).budget).getD (Config.fuse die % 2 ^ 32)

def State.remain (s : State) (die : Nat) : Nat := ((s.die die).remain).getD (s.budget die)

/-- The head of each ready queue, from priority 7 down. -/
def Die.readyHeads (d : Die) : List (Nat × Nat) :=
  (List.range 8).reverse.filterMap fun q => (mapGet [] d.ready q).head?.map fun i => (q, i)

/-- A window begins: the budget is full again; the counts of windows held in a row, where a head that has qualified keeps its turn
while another has a window alone; who has the new one alone (R375). -/
def State.windowStart (s : State) (die : Nat) : State :=
  let b := s.budget die
  s.modDie die fun d =>
    let held : SMap Nat := match d.exq with
      | some (_, i) => d.heldWin.filter fun x => some x.1 != i && decide (4 ≤ x.2)
      | none => d.heldNow.foldl (fun m i => mapPut i (mapGet 0 d.heldWin i + 1) m) []
    let due := d.readyHeads.find? fun x => decide (4 ≤ mapGet 0 held x.2)
    { d with window := d.cycle / 65536, remain := some b, heldNow := [], heldWin := held, exq := due.map fun x => (x.1, some x.2) }

/-- The window of the die's cycle has begun. -/
def State.windowDue (s : State) (die : Nat) : Bool := decide ((s.die die).window < (s.die die).cycle / 65536)

/-- ENERGY_WINDOW_START (R375). -/
def execEnergyWindowStart (die : Nat) (s : State) : Out :=
  if (s.die die).tripped || !s.windowDue die then ok s else ok (s.windowStart die)

/-- A head starts and is charged; in its exclusive window an estimate above the budget is charged as the whole budget (R375). -/
def State.startHead (s : State) (die idx : Nat) (fit : Nat × List Place) : State :=
  let k := taskKey die idx
  let full := typeEnergy (s.taskType k)
  let e := if (s.die die).exq.isSome then min full (s.budget die) else full
  let r := s.remain die
  let s := s.modDie die fun d =>
    { d with remain := some (r - e) }
  s.startTask k fit.1 fit.2

/-- The heads in turn. -/
def selectGo (die : Nat) : List (Nat × Nat) → State → State
  | [], s => s
  | (_, idx) :: rest, s =>
      match s.fits (taskKey die idx) with
      | none => selectGo die rest s
      | some fit =>
          if s.remain die < typeEnergy (s.taskType (taskKey die idx)) then
            selectGo die rest (s.modDie die fun d => if d.heldNow.contains idx then d else { d with heldNow := d.heldNow ++ [idx] })
          else s.startHead die idx fit

/-- SELECTION_PASS (R374). -/
def execSelectionPass (die : Nat) (s : State) : Out :=
  if (s.die die).tripped then ok s
  else
    let s := if s.windowDue die then s.windowStart die else s
    match (s.die die).exq with
    | some (_, none) => ok s
    | some (q, some idx) =>
        if (mapGet [] (s.die die).ready q).head? = some idx then
          match s.fits (taskKey die idx) with
          | some fit => ok (s.startHead die idx fit)
          | none => ok s
        else ok s
    | none => ok (selectGo die (s.die die).readyHeads s)

/-! ## Release and completion (R380-R382) -/

/-- An inbound port of a task that ends: beats that it holds return their credits; where no producer has started its stream is marked
(R285, R383). -/
def State.closePort (s : State) (t : Nat) (p : Port) : State :=
  match p.circuit, p.graph with
  | none, some key => s.modDie (dieOfTile t) fun d => { d with gone := d.gone ++ [key] }
  | _, _ => s.returnCredits p p.beats.length

/-- What a task holds on a tile goes back. -/
def State.releaseTile (k : Nat) (s : State) (t : Nat) : State :=
  let mine := ((s.tile t).owners.filter fun x => x.2 == k).map (·.1)
  let ports := (s.tile t).ports.filter fun p => p.2.task == k
  let circuits := (ports.filter fun p => decide (16 ≤ p.1)).filterMap fun p => p.2.circuit
  let s := (ports.filter fun p => decide (p.1 < 16)).foldl (fun s p => s.closePort t p.2) (s.freeCtxs k t)
  let s := s.modTile t fun x =>
    { x with owners := x.owners.filter (fun y => y.2 != k), poolpart := mine.foldl (fun w i => setField w (2 * i) 2 0) x.poolpart,
             ports := x.ports.filter (fun p => p.2.task != k), marks := x.marks.filter (fun m => m.1 != k),
             engParked := x.engParked.filter (fun c => c.task != k), waves := x.waves.filter (fun w => w.task != k) }
  let free (th : Thread) : Thread := if th.task = some k then { th with task := none, running := false } else th
  { s with circuits := s.circuits.filter fun (c : Nat × Circuit) => !circuits.contains c.1,
           threads := s.threads.map fun (x : Nat × Thread) => if tileOfThread x.1 = t then (x.1, free x.2) else x }

/-- The allotment of R377 goes back. -/
def State.releaseAllot (s : State) (k : Nat) : State :=
  let s := (s.region k).foldl (State.releaseTile k) s
  { s with nodes := s.nodes.filter fun (x : Nat × NodeSlot) => x.2.task != k,
           reqs := s.reqs.filter fun (r : Req) => !(r.task == k && r.stage == Stage.parked) }

/-- An engine command of the task stands in a queue or runs on a tile. -/
def State.commandsOf (s : State) (k t : Nat) : Bool :=
  let x := s.tile t
  (x.vecRun.toList ++ x.mtxNode ++ x.mtxSeq ++ x.mtxRun ++ x.copyNode ++ x.gathNode ++ x.engRun.map (·.cmd)).any (fun c => c.task == k) ||
    (List.range 8).any fun i => (s.thread (8 * t + i)).queues.any fun q => q.2.any fun c => c.task == k

/-- Node operations of the task that wait on a tile: parked engine commands (R274), fired wave operations (R253). -/
def State.heldOf (s : State) (k t : Nat) : Bool :=
  ((s.tile t).engParked.any fun c => c.task == k) || (s.tile t).waves.any fun w => w.task == k && !w.waiting.isEmpty

/-- An outbound port of the task still holds beats, or they are on their way, or its consumer has not started (R380, R383). -/
def State.portBusy (s : State) (k t : Nat) : Bool :=
  (s.tile t).ports.any fun p =>
    p.2.task == k && decide (16 ≤ p.1) && (!p.2.beats.isEmpty || match p.2.circuit with
      | none => p.2.graph.isSome
      | some c => match s.circuit? c with
          | some x => s.beatsOut c x
          | none => false)

/-- An outstanding request of the task has still to free its slot, a parked one among them (R246, R380). -/
def State.requestsOf (s : State) (k : Nat) : Bool :=
  s.reqs.any fun r => r.task == k && r.who != .none && (r.slot || (r.unperformed && r.stage != .parked))

/-- A task that stops has drained (R278, R380 steps 2 and 3). -/
def State.taskDrained (s : State) (k : Nat) : Bool :=
  !s.requestsOf k && !((s.die (dieOfTask k)).updates.any fun u => u.task == k) &&
    (s.region k).all fun t =>
      !s.commandsOf k t && !s.heldOf k t && !s.portBusy k t && !((s.tile t).fences.any fun n => n.fir.task == k)

/-- A completion's decrement of 1: on the die itself it is applied before the live count goes down (R369, R380, R393). -/
def State.endDecrement (s : State) (die dst idx : Nat) : State :=
  if dst = die then s.applyDecrement die idx 1 else s.sendDecrement die dst idx 1

/-- A task ends: DONE or FAILED (R380 steps 4 to 6, R381). -/
def State.endTask (s : State) (k : Nat) (run : TaskRun) (r : TaskRec) : State :=
  let die := dieOfTask k
  let s := s.releaseAllot k
  let s := match run.failed with
    | some v =>
        (s.setTaskState k 7).modInst die r.inst fun i =>
          if i.failed then i else { i with failed := true, status := BitVec.ofNat 64 v }
    | none =>
        ((s.successors k r).filter fun (x : Succ) => !x.stream).foldl (fun s (x : Succ) => s.endDecrement die (x.module * 16 + x.die) x.idx)
          (s.setTaskState k 6)
  let s := (s.setTaskCount k 0).modDie die fun d => { d.unqueue (idxOfTask k) with runs := mapDel (idxOfTask k) d.runs }
  s.instDrop die r.inst 1

/-- TASK_COMPLETION (R380, R381) of a task that has stopped. -/
def execTaskCompletion (die idx : Nat) (s : State) : Out :=
  let k := taskKey die idx
  match s.run? k, s.record? k with
  | some run, some r => if run.stopping && s.taskDrained k && s.savePhase k = 0 && !(s.die die).tripped then ok (s.endTask k run r) else ok s
  | _, _ => ok s

/-! ## Operands that land (R363, R372, R373) -/

/-- Where an operand is read for its receivers: once for all, or a part of its own for each (R363, R372). -/
def State.opdReads (s : State) (k : Nat) (r : TaskRec) (o : Opd) : List (Nat × Nat) :=
  (((s.computeTiles k).zip (List.range 256)).filter fun x => s.receives k x.1 o).map fun x =>
    (x.1, s.bufVa k r o.buf + o.off + if o.dist = 3 then x.2 * o.len else 0)

/-- An operand is read at its home and written to its receivers. -/
def State.landOpd (s : State) (k : Nat) (r : TaskRec) (o : Opd) : Except (Nat × Nat) State :=
  (s.opdReads k r o).foldlM (fun s' x =>
    match s.readVirt (dieOfTask k) (s.taskAsid k) x.2 o.len with
    | .error c => .error c
    | .ok bs =>
        let a := s.scratchBase k x.1 + s.opdPlace k x.1 r o
        .ok (s'.poolWrite x.1 a bs)) s

/-- A task in PREFETCH whose instance is ending is freed once its operands have landed (R393). -/
def State.prefetchOver (s : State) (k : Nat) (r : TaskRec) : State :=
  let die := dieOfTask k
  if ((s.inst? die r.inst).map (·.ending)).getD false then ((s.releaseAllot k).freeRecord k r).instDrop die r.inst 1
  else s.makeReady k

/-- An operand of a task that is being read; none where it has landed, is parked or its task is failing. -/
def State.opdReading (s : State) (k j : Nat) : Option (TaskRec × Opd) :=
  match s.run? k, s.record? k with
  | some run, some r =>
      if !run.prefetch.contains j || run.prefParked.contains j || run.stopping then none
      else (r.opds.find? fun o => o.j == j).map fun o => (r, o)
  | _, _ => none

/-- One operand of a task lands, parks or fails its task (R372, R373). -/
def State.landOne (s : State) (x : Nat × Nat) : State :=
  let k := x.1
  match s.opdReading k x.2 with
  | none => s
  | some (r, o) =>
      match s.landOpd k r o with
      | .error (c, va) =>
          if c = cPageFault then
            (s.dispRecord k c 0 (BitVec.ofNat 64 va) parkFlag).modRun k fun y => { y with prefParked := y.prefParked ++ [o.j] }
          else (s.dispRecord k c 0 (BitVec.ofNat 64 va) 0).failTask k (BitVec.ofNat 64 c)
      | .ok s =>
          let s := s.modRun k fun y => { y with prefetch := y.prefetch.erase o.j }
          if ((s.run? k).map fun y => y.prefetch.isEmpty).getD false then s.prefetchOver k r else s

/-- The operand reads of a die that a read of an operand serves too: those of its addresses, length and ASID (R372). -/
def State.joinedReads (s : State) (k : Nat) (r : TaskRec) (o : Opd) : List (Nat × Nat) :=
  let die := dieOfTask k
  let vas (k : Nat) (r : TaskRec) (o : Opd) : List Nat := ((s.opdReads k r o).map (·.2)).eraseDups
  (s.die die).runs.flatMap fun x =>
    let k' := taskKey die x.1
    if x.2.asid ≠ s.taskAsid k then []
    else x.2.prefetch.filterMap fun j => match s.opdReading k' j with
      | some (r', o') => if o'.len = o.len ∧ vas k' r' o' = vas k r o then some (k', j) else none
      | none => none

/-- PREFETCH_OPERAND_LAND (R372, R373): an operand is read, with every other that its read serves. Its bytes go to SCRATCH, as R372
says; R36 and R198 speak of tokens from operand prefetch and no rule gives such a token (DESIGN CHOICE, log 118: there is none). -/
def execPrefetchOperandLand (die idx j : Nat) (s : State) : Out :=
  let k := taskKey die idx
  match s.opdReading k j with
  | none => ok s
  | some (r, o) => if (s.die die).tripped then ok s else ok ((s.joinedReads k r o).foldl State.landOne s)

/-- DECREMENT_ARRIVAL (R369): packet k at its dispatcher. -/
def execDecrementArrival (k : Nat) (s : State) : Out :=
  match s.packet? k with
  | none => ok s
  | some p =>
      match p.body with
      | .decrement idx a =>
          if p.at_ ≠ p.dst ∨ s.placeStopped p.at_ then ok s else ok ((s.dropPacket k).applyDecrement p.dst idx a)
      | _ => ok s

end Sys2Proof.Machine
end

