-- ==== Sys2Proof/Machine/TaskOps.lean ====
section
/-! DEFINITION. Class 12 on both carriers, templates and instances (13_task_class.md R384-R397). -/

namespace Sys2Proof.Machine

/-! ## Results of the units of a die -/

def allOnes : Word := 0xFFFFFFFFFFFFFFFF
def badImage : Word := 0xFFFFFFFFFFFFFFFE

/-- An opcode of class 12 that a memory tile does not take gives ILLEGAL_OP there (R387). -/
def State.computeOnly (s : State) (go : State) : Out := if isMemTile s.myTile then ok (s.trap cIllegalOp s.cur.word) else ok go

/-- A pool address of class 12 (R388). -/
def State.poolArg (s : State) (a : Word) (align n : Nat) : Bool :=
  (a.extractLsb' 24 40) == 0 && a.toNat % align == 0 && poolOk s s.myTask s.myTile a.toNat n false

/-- Bytes of the pool that an instruction reads at issue, unless a check or the memory refuses (R388, R429). -/
def State.withImage (s : State) (a : Word) (align n : Nat) (go : List Byte → State) : State :=
  if !s.poolArg a align n then s.trap cAccessFault a
  else if s.poolPoisoned s.myTile a.toNat n then s.trap cEccUncorr a
  else go (natToBytes n (s.poolLoad s.myTile a.toNat n))

/-- The record of the issuing thread's task. -/
def State.myRecord (s : State) : Option TaskRec := s.myTask.bind s.record?

/-! ## TSPAWN (R389) -/

/-- The record image can run. -/
def State.spawnOk (s : State) (r : TaskRec) : Bool :=
  r.state == 1 && decide (r.nsucc ≤ 8) && typeValid (s.typeEntry s.myDie r.ttype) && !r.offGrid && r.succ.all fun x => !x.getLsbD 23

/-- The records of a spawn are written. -/
def State.spawn (s : State) (r : TaskRec) (i : Nat) : State :=
  let die := s.myDie
  let inst := (s.myRecord.map TaskRec.inst).getD 0
  let s := s.putSlot die i (.record { r with hdr := setField r.hdr 54 10 inst })
  let s := (List.range r.ncont).foldl (fun s j => s.putSlot die (i + 1 + j) (.cont (List.replicate 8 0))) s
  let s := s.modInst die inst fun x => { x with live := x.live + 1 }
  if r.count = 0 then s.makePending (taskKey die i) else s

/-- TSPAWN (R389). -/
def execTspawn (o : AR) (s : State) : Out :=
  s.computeOnly (s.withImage (s.greg o.a) 64 64 fun bs =>
    s.unitOp o.d fun s =>
      let r := recOfBytes bs
      match s.freeSlots s.myDie (r.ncont + 1) with
      | none => (allOnes, s)
      | some i => if s.spawnOk r then (BitVec.ofNat 64 i, s.spawn r i) else (badImage, s))

/-! ## TDEC (R390) -/

/-- The continuation form names a record; its reserved bits are zero. -/
def descOkTask (w : Word) : Bool := (w.extractLsb' 34 30) == 0

def amountOk (n : Nat) : Bool := decide (1 ≤ n ∧ n ≤ 16384)

/-- The partition filter of a module lets a decrement to another module pass. -/
def State.admits (s : State) (m onto : Nat) : Bool := m == onto || (s.module m).filter.contains onto

/-- The scope of the release of a decrement (R370). -/
def systemSnap : ScopeSnap := { idx := 10, image := [], mods := [] }

/-- TDEC (R390). -/
def execTdec (o : AR) (s : State) : Out :=
  let w := s.greg o.a
  let n := (s.greg o.b)
  s.computeOnly <|
    if !descOkTask w then s.trap cIllegalDesc w
    else if !amountOk n.toNat then s.trap cIllegalDesc n
    else
      let x := succOfWord w
      let th := s.cur.th
      let before := (s.reqs.filter fun r => r.thread? == some th && r.unperformed).map (·.id)
      if !s.admits (moduleOfTile s.myTile) x.module then
        (s.modMe fun t => { t with fence := t.fence ++ before.map fun i => (i, false) }).advance
      else
        let f : NodeFence :=
          { fir := { (default : Firing) with task := s.myTask.getD 0 }, th := some th,
            act := .decrement (x.module * 16 + x.die) x.idx n.toNat, reqs := before, firs := [], cmds := [], snap := systemSnap }
        let s := s.modMe fun t => { t with fence := t.fence ++ before.map fun i => (i, false) }
        ((s.modTile s.myTile fun y => { y with fences := y.fences ++ [f] }).settleNodes s.myTile).advance

/-- What a node's descriptor word names, unless a reserved bit is set. -/
def nodeSucc (f : Firing) : Option Succ :=
  let m := moduleOfTile (tileOfPe f.pe)
  match f.l with
  | x :: _ =>
      if x.wide then if descOkTask x.w then some (succOfWord x.w) else none
      else if (x.w.extractLsb' 22 10) == 0 then some { succOfWord (x.w &&& 0x3FFFFF) with module := m } else none
  | [] => none

/-- A decrement or done signal waits for the release of its context. -/
def State.nodeRelease (s : State) (f : Firing) (act : FenceAct) : State :=
  let t := tileOfPe f.pe
  (s.modTile t fun y => { y with fences := y.fences ++ [s.nodeFence f act 2 systemSnap] }).settleNodes t

/-- One scalar of a decrement node: nulls and poison send nothing. -/
def tdecScalar (go : State → Firing → State) (s : State) (f : Firing) : State :=
  if f.nul then s.emitNull f
  else if f.anyP then (s.fireRecord f cPoisonStore 0).nodeResult f 0 true false
  else go s f

/-- A decrement node fires. -/
def fireTdec (go : State → Firing → State) (s : State) : Out :=
  let f := s.cur.fir
  if f.eos then ok ((s.beginFire.traceFire f f.tag f.l).passE f)
  else ok ((s.scalars f).foldl (tdecScalar go) (s.beginFire.traceFire f f.tag f.l))

/-- TDEC on a node (R390). -/
def execTdecNode (s : State) : Out :=
  fireTdec (fun s f =>
    let n := (dataOf f).toNat
    let bad : State := (s.fireRecord f cIllegalDesc (addrOf f)).nodeResult f 0 true false
    match nodeSucc f with
    | none => bad
    | some x =>
        if !amountOk n then bad
        else if !s.admits (moduleOfTile (tileOfPe f.pe)) x.module then s.nodeResult f 0 false false
        else s.nodeRelease f (.decrement (x.module * 16 + x.die) x.idx n)) s

/-- TDEC.SELF on a node (R390, R379). -/
def execTdecSelfNode (s : State) : Out := fireTdec (fun s f => s.nodeRelease f .done) s

/-! ## TSUCC (R391) -/

/-- The place of the first invalid continuation entry of a record. -/
def State.freeCont (s : State) (k : Nat) (r : TaskRec) : Option Nat :=
  let ws := s.contWords k r
  (List.range ws.length).find? fun i => !(ws.getD i 0).getLsbD 23

/-- A successor is appended to a record that has not ended; whether there was room. -/
def State.appendSucc (s : State) (k : Nat) (r : TaskRec) (w : Word) : Bool × State :=
  let x := succOfWord w
  if r.nsucc < 8 && x.module == moduleOfDie (dieOfTask k) then
    (true, s.modRec k fun r =>
      { r with hdr := setField r.hdr 50 4 (r.nsucc + 1), succ := r.succ.set r.nsucc ((w.extractLsb' 0 23).setWidth 24) })
  else
    match s.freeCont k r with
    | none => (false, s)
    | some i =>
        let idx := idxOfTask k + 1 + i / 8
        match s.slot? (dieOfTask k) idx with
        | some (.cont ws) => (true, s.putSlot (dieOfTask k) idx (.cont (ws.set (i % 8) (w ||| 0x800000))))
        | _ => (false, s)

/-- TSUCC (R391). -/
def execTsucc (o : AR) (s : State) : Out :=
  let p := s.greg o.a
  let w := s.greg o.b
  s.computeOnly <|
    if (p.extractLsb' 18 46) != 0 then s.trap cIllegalDesc p
    else if !descOkTask w then s.trap cIllegalDesc w
    else
      s.unitOp o.d fun s =>
        let k := taskKey s.myDie p.toNat
        match s.record? k with
        | none => (allOnes, s)
        | some r =>
            let x := succOfWord w
            if r.state = 0 then (allOnes, s)
            else if r.state = 7 then (3, s)
            else if r.state = 6 then
              (2, if x.stream then s else s.sendDecrement s.myDie (x.module * 16 + x.die) x.idx 1)
            else
              match s.appendSucc k r w with
              | (true, s) => (1, s)
              | (false, s) => (0, s)

/-! ## Templates (R384, R386) -/

/-- A record of a template (R384): its successors name slots of it. -/
def templateRecordOk (n i : Nat) (r : TaskRec) : Bool :=
  r.inst == 0 && r.state == 1 && decide (r.nsucc ≤ 8) && decide (i + 1 + r.ncont ≤ n) && r.succ.all (fun x => !x.getLsbD 23) &&
    (r.succ.take r.nsucc).all fun x =>
      let y := succOfWord (x.setWidth 64)
      y.die == 0 && decide (y.idx < n)

/-- A continuation slot of a template. -/
def templateContOk (n : Nat) (ws : List Word) : Bool :=
  (ws.takeWhile fun w => w.getLsbD 23).all fun w =>
    let y := succOfWord w
    descOkTask w && y.die == 0 && y.module == 0 && decide (y.idx < n)

/-- A record and its successors at their new place (R386). -/
def relocRecord (die base inst : Nat) (r : TaskRec) : TaskRec :=
  { r with hdr := setField r.hdr 54 10 inst,
           succ := (r.succ.zip (List.range 8)).map fun x =>
             if r.nsucc ≤ x.2 then x.1
             else
               let w := setField (x.1.setWidth 64) 0 18 ((succOfWord (x.1.setWidth 64)).idx + base)
               (setField w 18 4 (die % 16)).setWidth 24 }

/-- The valid leading entries of a continuation slot at their new place. -/
def relocCont (die base : Nat) : List Word → List Word
  | [] => []
  | w :: ws =>
      if w.getLsbD 23 then
        let v := setField (setField w 0 18 ((succOfWord w).idx + base)) 18 4 (die % 16)
        setField v 24 10 (moduleOfDie die) :: relocCont die base ws
      else w :: ws

/-- The slots of a template, records with their continuation slots behind them; none where one breaks R384. -/
def templateSlots (n : Nat) : Nat → Nat → List Byte → Option (List (Nat × TaskSlot))
  | 0, i, _ => if i = n then some [] else none
  | fuel + 1, i, bs =>
      if n ≤ i then some []
      else
        let r := recOfBytes (bs.take 64)
        let cs := (List.range r.ncont).map fun j => wordsOfBytes ((bs.drop (64 * (j + 1))).take 64) 8
        if templateRecordOk n i r && cs.all (templateContOk n) then
          (templateSlots n fuel (i + 1 + r.ncont) (bs.drop (64 * (1 + r.ncont)))).map fun rest =>
            (i, .record r) :: ((cs.zip (List.range 8)).map fun c => (i + 1 + c.2, TaskSlot.cont c.1)) ++ rest
        else none

/-- The header and the slots of a template. -/
structure Template where
  nslot : Nat
  ntask : Nat
  slots : List (Nat × TaskSlot)
  deriving DecidableEq, Repr, Inhabited

/-- NSLOT and NTASK of a template's header; none where it breaks R384. -/
def headerOf (bs : List Byte) : Option (Nat × Nat) :=
  let n := bytesToNat (bs.take 4)
  if decide (1 ≤ n ∧ n ≤ 262143) && (bs.drop 8).all (· == 0) then some (n, bytesToNat ((bs.drop 4).take 4)) else none

/-- What an instantiation answers: no room, a refusal with the code and address of its record, or the handle. -/
inductive InstEnd where
  | full
  | bad (code addr : Nat)
  | made (h : Nat)
  deriving DecidableEq, Repr, Inhabited

/-- The slots are written at their place; records whose COUNT is zero become PENDING in slot order. -/
def State.placeTemplate (s : State) (die h base : Nat) (x : Template) : State :=
  let s := x.slots.foldl (fun s y =>
    s.putSlot die (base + y.1) (match y.2 with
      | .record r => .record (relocRecord die base h r)
      | .cont ws => .cont (relocCont die base ws))) s
  x.slots.foldl (fun s y => match y.2 with
    | .record r => if r.count = 0 then s.makePending (taskKey die (base + y.1)) else s
    | .cont _ => s) s

/-- Instantiation on a die (R386). -/
def State.instantiate (s : State) (die asid plist tva : Nat) (bufs : List Word) (journal : Option (Nat × Nat)) : InstEnd × State :=
  match (List.range 1024).find? fun h => (s.inst? die h).isNone with
  | none => (.full, s)
  | some h =>
      match s.readVirt die asid tva 64 with
      | .error (c, va) => (.bad c va, s)
      | .ok hb =>
          match headerOf hb with
          | none => (.bad cTaskBad tva, s)
          | some (n, ntask) =>
              match s.freeSlots die n with
              | none => (.full, s)
              | some base =>
                  match s.readVirt die asid (tva + 64) (64 * n) with
                  | .error (c, va) => (.bad c va, s)
                  | .ok bs =>
                      match templateSlots n n 0 bs with
                      | none => (.bad cTaskBad tva, s)
                      | some slots =>
                          let i : Inst := { ending := false, asid := asid, plist := plist, bufs := bufs, live := ntask, failed := false,
                                            status := 0, journal := journal }
                          let s := s.modDie die fun d => { d with insts := mapPut h i d.insts }
                          (.made h, s.placeTemplate die h base { nslot := n, ntask := ntask, slots := slots })

/-- GINST (R386, R392). -/
def execGinst (o : AR) (s : State) : Out :=
  let a := s.greg o.a
  s.computeOnly <|
    if a.toNat % 64 ≠ 0 ∨ a.extractLsb' 56 8 ≠ 0 then s.trap cAccessFault a
    else
      s.withImage (s.greg o.b) 8 128 fun bs =>
        s.unitOp o.d fun s =>
          let k := s.myTask.getD 0
          let plist := ((s.run? k).map TaskRun.plist).getD 0
          match s.instantiate s.myDie (s.taskAsid k) plist a.toNat (wordsOfBytes bs 16) none with
          | (.full, s) => (allOnes, s)
          | (.bad c va, s) => (badImage, s.dispRecord k c 0 (BitVec.ofNat 64 va) 0)
          | (.made h, s) => (BitVec.ofNat 64 h, s)

/-! ## GFREE (R393) -/

/-- The records of an instance that end at once: WAITING, PENDING and READY. -/
def State.freeNow (s : State) (die h : Nat) : List (Nat × TaskRec) :=
  (s.die die).tasks.filterMap fun x => match x.2 with
    | .record r => if r.inst = h ∧ (r.state = 1 ∨ r.state = 2 ∨ r.state = 4) ∧
        !(((s.run? (taskKey die x.1)).map TaskRun.stopping).getD false) then some (x.1, r) else none
    | .cont _ => none

/-- An instance is set ending (R393): the number of records freed. -/
def State.endInst (s : State) (die h : Nat) : Nat × State :=
  match s.inst? die h with
  | none => (0, s)
  | some _ =>
      let s := s.modInst die h fun x => { x with ending := true }
      let rs := s.freeNow die h
      let s := rs.foldl (fun s x =>
        ((s.releaseAllot (taskKey die x.1)).modDie die fun d => d.unqueue x.1).freeRecord (taskKey die x.1) x.2) s
      (rs.length, s.instDrop die h rs.length)

/-- GFREE (R393). -/
def execGfree (o : AR) (s : State) : Out :=
  let a := s.greg o.a
  s.computeOnly <|
    if (a.extractLsb' 10 54) != 0 then s.trap cIllegalDesc a
    else
      s.unitOp o.d fun s =>
        let r := s.endInst s.myDie a.toNat
        (BitVec.ofNat 64 r.1, r.2)

/-! ## TDONE, TQUERY, TTWRITE, TARG (R394-R397) -/

/-- TDONE (R394). -/
def execTdone (o : AR) (s : State) : Out :=
  let v := s.greg o.a
  let k := s.myTask.getD 0
  let t := s.myTile
  let s := s.advance.modMe Thread.stop
  ok (if v = 0 then s.signalDone k t else s.failTask k v)

/-- The instance word of TQUERY.inst (R395). -/
def instWord (x : Option Inst) : Word :=
  match x with
  | none => 0
  | some i =>
      BitVec.ofNat 64 ((if i.ending then 2 else 1) + i.live % 2 ^ 18 * 4 + (if i.failed then 2 ^ 20 else 0) +
        i.status.toNat % 2 ^ 32 * 2 ^ 32)

/-- TQUERY (R395). -/
def execTquery (o : AR) (s : State) : Out :=
  let a := s.greg o.a
  let inst := o.f.getLsbD 0
  if (if inst then (a.extractLsb' 10 54).toNat else (a.extractLsb' 18 46).toNat) ≠ 0 then ok (s.trap cIllegalDesc a)
  else
    ok (s.unitOp o.d fun s =>
      if inst then (instWord (s.inst? s.myDie a.toNat), s)
      else
        match s.slot? s.myDie a.toNat with
        | none => (0, s)
        | some (.record r) => (if r.state = 0 then 0 else r.hdr, s)
        | some (.cont _) => (allOnes, s))

/-- The widths of a tag layout (R367). -/
def layoutOk (e : List Word) : Bool :=
  let ws := (List.range 6).map (typeTagWidth e)
  ws.all (fun w => w == 0 || decide (4 ≤ w ∧ w ≤ 24)) && (ws.dropWhile (· != 0)).all (· == 0) && decide (ws.sum ≤ 48)

/-- An image is valid for TTWRITE (R367). -/
def typeImageOk (e : List Word) : Bool :=
  typeValid e && typeField e 3 61 2 == 0 && typeField e 5 30 34 == 0 && e.getD 6 0 == 0 && e.getD 7 0 == 0 &&
    decide (typeNodes e ≤ 1024 ∧ typeThreads e ≤ 8 ∧ typeMthreads e ≤ 4 ∧ poolNeed e ≤ 32) &&
    (List.range 6).all (fun j => typeExc e / 4 ^ j % 4 != 3) &&
    (List.range 3).all (fun j => typeField e j 56 8 == 0) && typeNodeVa e % 16 == 0 && typeSeqVa e % 8 == 0 && typeMseqVa e % 8 == 0 && layoutOk e

/-- Some record of a type is in PREFETCH, READY or RUNNING (R396). -/
def State.typeBusy (s : State) (die ty : Nat) : Bool :=
  (s.die die).tasks.any fun x => match x.2 with
    | .record r => r.ttype == ty && decide (3 ≤ r.state ∧ r.state ≤ 5)
    | .cont _ => false

/-- TTWRITE (R396). -/
def execTtwrite (o : AR) (s : State) : Out :=
  let a := s.greg o.a
  let i := s.greg o.b
  s.computeOnly (s.withImage a 64 64 fun bs =>
    let e := wordsOfBytes bs 8
    if 4096 ≤ i.toNat then s.trap cIllegalDesc i
    else if !typeImageOk e then s.trap cIllegalDesc a
    else if !s.privileged s.cur.th then s.trap cAccessFault i
    else
      s.unitOp o.d fun s =>
        if s.typeBusy s.myDie i.toNat then (0, s)
        else (1, s.modDie s.myDie fun d => { d with types := mapPut i.toNat e d.types }))

/-- The value a selector of TARG names (R397). -/
def State.argValue (s : State) (f : Nat) : Word :=
  let k := s.myTask.getD 0
  match s.record? k with
  | none => 0
  | some r =>
      match f with
      | 0 => r.arg0
      | 1 => r.arg1
      | 2 => s.instanceId k
      | 3 => BitVec.ofNat 64 r.inst
      | _ =>
          BitVec.ofNat 64 (tileX s.myTile - r.ax + (tileY s.myTile - r.ay) * 2 ^ 4 + r.rw * 2 ^ 8 + r.rh * 2 ^ 12 + r.ax * 2 ^ 16 +
            r.ay * 2 ^ 20)

/-- TARG (R397). -/
def execTarg (o : AR) (s : State) : Out := ok (s.result o.d (s.argValue o.f.toNat))

end Sys2Proof.Machine
end

