-- ==== Sys2Proof/Machine/Pricking.lean ====
section
/-! DEFINITION. The pricking unit: slots, appends, proposals, images (14_generation_class.md R400-R409); VOCCHK (R420). -/

namespace Sys2Proof.Machine

/-! ## Checks at issue (R399, R400) -/

/-- A slot operand: [63:12] zero. -/
def slotArgOk (a : Word) : Bool := (a.extractLsb' 12 52) == 0

/-- A global VA of the class: a multiple of 64 with [63:56] zero. -/
def vaArgOk (a : Word) : Bool := a.toNat % 64 == 0 && (a.extractLsb' 56 8) == 0

/-! ## Slots (R401) -/

def State.pslot? (s : State) (die n : Nat) : Option PSlot := mapFind? (s.die die).pslots n

def State.putPslot (s : State) (die n : Nat) (x : PSlot) : State := s.modDie die fun d => { d with pslots := mapPut n x d.pslots }

/-- The open slot of an address space. -/
def State.openSlot? (s : State) (die n asid : Nat) : Option PSlot := (s.pslot? die n).filter fun x => x.asid == asid

/-- The slot an SXPROP waits on. -/
def ReqOp.sxSlot : ReqOp → Option Nat
  | .sxprop n _ _ => some n
  | _ => none

/-- The as-of position of a proposal word (R405). -/
def propPos (w : Word) : Nat := (w.extractLsb' 0 32).toNat
def propCount (w : Word) : Nat := (w.extractLsb' 32 5).toNat
def propAddr (w : Word) : Nat := (w.extractLsb' 40 24).toNat

/-- SXPROPs that wait at a die's unit. -/
def State.sxWaiting (s : State) (die : Nat) : List Req :=
  s.reqs.filter fun r => dieOfTile r.tile == die && r.stage == .queued && r.op.sxSlot.isSome

/-- A waiting SXPROP of a slot whose as-of position COUNT has reached: it is evaluated before the slot's next operation. -/
def State.sxDue (s : State) (die n : Nat) : Bool :=
  (s.sxWaiting die).any fun r => match r.op with
    | .sxprop m w _ => m == n && (match s.pslot? die n with
        | some x => decide (propPos w ≤ x.count)
        | none => true)
    | _ => false

/-- Operations on the slot wait (R404, R409). -/
def State.slotHolds (s : State) (die n : Nat) : Bool :=
  s.sxDue die n || ((s.pslot? die n).map fun x => x.rebuild.isSome).getD false

/-- An operation of the issuing thread on a slot. -/
def State.slotOp (s : State) (o : AR) (go : State → Word × State) : State :=
  let n := (s.greg o.a).toNat
  if s.slotHolds s.myDie n then s.hold else s.unitOp o.d go

/-! ## Records of the unit (R404, R409, R425) -/

/-- A record of a unit of the die about the issuing thread. -/
def State.unitRecord (s : State) (code : Nat) (op0 addr : Word) : State :=
  s.record { s.threadRecord s.cur.th code s.cur.pc op0 false with unit := 0xFD, addr := addr }

/-- Bytes 32 to 39 name a slot, a position and an id; the spec gives no layout, and the three are wider than the eight bytes
(log 14). -/
def sxNames (slot q : Nat) (v : HWord) : Word := BitVec.ofNat 64 (Config.sxNames slot q v.toNat)

/-! ## Proposals (R405, R406) -/

/-- The summary word (R405). -/
def PSlot.summary (x : PSlot) : Word :=
  BitVec.ofNat 64 (x.lastn % 32 + (if x.lastcut then 32 else 0) + x.mlen % 128 * 2 ^ 8 + x.mpos % 2 ^ 32 * 2 ^ 16)

/-- h[i]. -/
def PSlot.at_ (x : PSlot) (i : Nat) : HWord := x.hist.getD (i - x.base) 0

/-- l words that end at q equal the last l below n. -/
def PSlot.same (x : PSlot) (n l q : Nat) : Bool := (List.range l).all fun i => x.at_ (q - i) == x.at_ (n - 1 - i)

/-- The longest match, the latest first: length and place. -/
def PSlot.match? (x : PSlot) (n lmin lmax : Nat) : Option (Nat × Nat) :=
  let hi := min lmax (n - x.base - 1)
  (List.range (hi + 1)).reverse.findSome? fun l =>
    if l < lmin then none
    else
      -- q from n - 2 down to b + l - 1
      ((List.range (n - x.base - l)).find? fun j => x.same n l (n - 2 - j)).map fun j => (l, n - 2 - j)

/-- The ids after a match, to the first invalid one; whether it was cut. -/
def propTake (valid : HWord → Bool) : List HWord → List HWord × Bool
  | [] => ([], false)
  | v :: vs =>
      if valid v then
        let r := propTake valid vs
        (v :: r.1, r.2)
      else ([], true)

/-- The proposal at position n for D ids: the ids and the slot with its results. -/
def PSlot.propose (x : PSlot) (n d : Nat) (regs : List Word) : List HWord × PSlot :=
  let valid (v : HWord) : Bool := vocValid (regs.getD 0 0) (regs.getD 1 0) (regs.getD 2 0) v.toNat
  match x.match? n (regs.getD 3 0).toNat (regs.getD 4 0).toNat with
  | none => ([], { x with mlen := 0, mpos := 0, lastn := 0, lastcut := false })
  | some (l, p) =>
      let top := min (p + d) (n - 1)
      let r := propTake valid ((List.range (top - p)).map fun i => x.at_ (p + 1 + i))
      (r.1, { x with mlen := l, mpos := p, lastn := r.1.length, lastcut := r.2 })

/-- The sixteen words written. -/
def propWords (ids : List HWord) : List Byte :=
  (ids ++ List.replicate (16 - ids.length) (0xFFFFFFFF : HWord)).flatMap fun (v : HWord) => natToBytes 4 v.toNat

/-- An SXPROP is evaluated: its reply sets out with the words and the summary. -/
def State.sxEvaluate (s : State) (r : Req) (n : Nat) (w : Word) (regs : List Word) : State :=
  let die := dieOfTile r.tile
  match s.openSlot? die n r.asid with
  | none => s.answer r allOnes false
  | some x =>
      let p := x.propose (propPos w) (propCount w) regs
      ((s.putPslot die n p.2).modReq r.id fun z => { z with op := .sxwords (propAddr w) (propWords p.1) }).answer r p.2.summary false

/-- The SXPROP of a slot that is due and arrived first. -/
def State.sxFirst (s : State) (die n : Nat) : Option Req :=
  let due (q : Req) : Bool := match q.op with
    | .sxprop m v _ => m == n && match s.pslot? die n with
        | some x => decide (propPos v ≤ x.count) && x.rebuild.isNone
        | none => true
    | _ => false
  ((s.sxWaiting die).filter due).foldl (fun b q => match b with
    | none => some q
    | some y => if q.recNo < y.recNo then some q else some y) none

/-- Before the next operation on a slot the unit evaluates each SXPROP that is due, in the order of their arrival (R404). -/
def sxSettle (die n : Nat) : Nat → State → State
  | 0, s => s
  | k + 1, s =>
      match s.sxFirst die n with
      | none => s
      | some r => match r.op with
          | .sxprop _ w regs => sxSettle die n k (s.sxEvaluate r n w regs)
          | _ => s

/-! ## Appends (R404) -/

/-- Held pairs that follow the history move into it. -/
def drainHeld : Nat → PSlot → PSlot
  | 0, x => x
  | n + 1, x =>
      match x.held.find? fun p => p.1 == x.count with
      | none => x
      | some p => drainHeld n { x with hist := x.hist ++ [p.2], count := x.count + 1, held := x.held.filter fun q => q.1 != x.count }

/-- Positions below the window leave the history. -/
def PSlot.evict (x : PSlot) : PSlot :=
  let b := max x.base (x.count - x.w)
  { x with base := b, hist := x.hist.drop (b - x.base) }

/-- An append: its status and the slot. -/
def PSlot.append (x : PSlot) (q : Nat) (v : HWord) : Nat × PSlot :=
  if x.count + 17 ≤ q ∨ q = 0xFFFFFFFF then (5, x)
  else if q < x.base then (3, x)
  else if q < x.count then (if x.hist.getD (q - x.base) 0 = v then 2 else 4, x)
  else if x.count < q then
    match x.held.find? fun p => p.1 == q with
    | some p => (if p.2 = v then 2 else 4, x)
    | none => (1, { x with held := x.held ++ [(q, v)] })
  else (0, (drainHeld 17 { x with hist := x.hist ++ [v], count := x.count + 1 }).evict)

/-- The code of an append's record. -/
def appendFault (st : Nat) : Option Nat := if st = 4 then some cSxConflict else if st = 5 then some cSxRange else none

/-- An append at a slot: its status, all ones where the slot is not open; a record from `rcd`. -/
def State.sxAppend (s : State) (die n asid q : Nat) (v : HWord) (rcd : State → Nat → State) : Word × State :=
  let s := sxSettle die n s.reqs.length s
  match s.openSlot? die n asid with
  | none => (allOnes, s)
  | some x =>
      let r := x.append q v
      let s := s.putPslot die n r.2
      (BitVec.ofNat 64 r.1, match appendFault r.1 with
        | some c => rcd s c
        | none => s)

/-- SXAPP (R404, R408): posted where d is g0. -/
def execSxapp (o : AR) (s : State) : Out :=
  let a := s.greg o.a
  let b := s.greg o.b
  let go (s : State) : Word × State :=
    let q := (b.extractLsb' 32 32).toNat
    let v := b.extractLsb' 0 32
    s.sxAppend s.myDie a.toNat s.myAsid q v fun s c => s.unitRecord c (sxNames a.toNat q v) 0
  if !slotArgOk a then ok (s.trap cIllegalDesc a)
  else if o.d = 0 then ok (if s.slotHolds s.myDie a.toNat then s.hold else (go s).2.advance)
  else ok (s.slotOp o go)

/-! ## SXSEL, SXWIN, SXCLR, SXLEN (R402, R407, R408) -/

/-- The arena a slot of a capacity gets: first fit in units of 64 KiB. -/
def State.arenaFor (s : State) (die cap : Nat) : Option Nat :=
  let d := s.die die
  d.arena.bind fun x => firstFit x.base (x.base + x.len) (64 * cap) (d.pslots.map fun p => (p.2.arena, 64 * p.2.cap))

/-- SXSEL at the unit. -/
def State.sxSelect (s : State) (die n asid cap : Nat) : Word × State :=
  if (s.pslot? die n).isSome then (allOnes, s)
  else
    match s.arenaFor die cap with
    | none => (0, s)
    | some a =>
        (1, s.putPslot die n { arena := a, rebuild := none, asid := asid, cap := cap, w := cap, base := 0, count := 0, hist := [],
                               held := [], mlen := 0, mpos := 0, lastn := 0, lastcut := false })

/-- SXSEL (R407). -/
def execSxsel (o : AR) (s : State) : Out :=
  let a := s.greg o.a
  let c := s.greg o.b
  if !slotArgOk a then ok (s.trap cIllegalDesc a)
  else if c.toNat % 1024 ≠ 0 ∨ c.toNat < 1024 ∨ 2 ^ 20 < c.toNat then ok (s.trap cIllegalDesc c)
  else ok (s.slotOp o fun s => s.sxSelect s.myDie a.toNat s.myAsid c.toNat)

/-- SXWIN (R407). -/
def execSxwin (o : AR) (s : State) : Out :=
  let a := s.greg o.a
  let w := s.greg o.b
  if !slotArgOk a then ok (s.trap cIllegalDesc a)
  else if w = 0 ∨ 2 ^ 20 < w.toNat then ok (s.trap cIllegalDesc w)
  else
    ok (s.slotOp o fun s =>
      match s.openSlot? s.myDie a.toNat s.myAsid with
      | none => (allOnes, s)
      | some x => if x.cap < w.toNat then (0, s) else (1, s.putPslot s.myDie a.toNat { x with w := w.toNat }.evict))

/-- A slot closes: its arena is free and what waits on it is answered. -/
def State.closeSlot (s : State) (die n : Nat) : State :=
  let s := (s.sxWaiting die).foldl (fun s r => if r.op.sxSlot = some n then s.answer r allOnes false else s) s
  s.modDie die fun d => { d with pslots := mapDel n d.pslots }

/-- SXCLR (R407). -/
def execSxclr (o : AR) (s : State) : Out :=
  let a := s.greg o.a
  if !slotArgOk a then ok (s.trap cIllegalDesc a)
  else if s.slotHolds s.myDie a.toNat then ok s.hold
  else
    match s.openSlot? s.myDie a.toNat s.myAsid with
    | none => ok s.advance
    | some x =>
        if o.f.getLsbD 0 then ok (s.closeSlot s.myDie a.toNat).advance
        else
          ok (s.putPslot s.myDie a.toNat
            { x with base := 0, count := 0, hist := [], held := [], mlen := 0, mpos := 0, lastn := 0, lastcut := false }).advance

/-- What a selector of SXLEN reads (R408). -/
def PSlot.read (x : PSlot) (f : Nat) : Word :=
  match f with
  | 0 => BitVec.ofNat 64 x.count
  | 1 => BitVec.ofNat 64 x.base
  | 2 => x.summary
  | _ => BitVec.ofNat 64 (x.w + x.cap * 2 ^ 32)

/-- SXLEN (R408). -/
def execSxlen (o : AR) (s : State) : Out :=
  let a := s.greg o.a
  if !slotArgOk a then ok (s.trap cIllegalDesc a)
  else ok (s.slotOp o fun s => (((s.openSlot? s.myDie a.toNat s.myAsid).map fun x => x.read o.f.toNat).getD allOnes, s))

/-! ## SXPROP (R405, R406) -/

/-- An SXPROP reaches the unit: answered where the slot is not open, refused where 64 wait, else it waits (R406). -/
def State.sxArrive (s : State) (r : Req) (n : Nat) : State :=
  let die := dieOfTile r.tile
  if (s.openSlot? die n r.asid).isNone then s.answer r allOnes false
  else if 64 ≤ (s.sxWaiting die).length then s.modReq r.id fun x => { x with stage := .refused (s.cycleOf r.tile + 256) }
  else (s.modReq r.id fun x => { x with stage := .queued, recNo := s.nextId }).fresh

/-- The registers that an SXPROP takes at issue (R403). -/
def Thread.sxRegs (t : Thread) : List Word := [t.vocab, t.padlo, t.padhi, t.sxlmin, t.sxlmax]

/-- SXPROP (R405). -/
def execSxprop (o : AR) (s : State) : Out :=
  let a := s.greg o.a
  let w := s.greg o.b
  let addr := BitVec.ofNat 64 (propAddr w)
  if !slotArgOk a then ok (s.trap cIllegalDesc a)
  else if 16 < propCount w ∨ (w.extractLsb' 37 3) ≠ 0 then ok (s.trap cIllegalDesc w)
  else if !s.poolArg addr 64 64 then ok (s.trap cAccessFault addr)
  else if 4 ≤ s.me.ldout || !s.slotFree s.myTile || s.slotHolds s.myDie a.toNat then ok s.hold
  else
    let dest := s.me.preg o.d
    let r := { s.threadReq (.sxprop a.toNat w s.me.sxRegs) 0 dest true with stage := .region }
    ok ((s.sendReq r dest true).sxArrive r a.toNat)

/-- SXPROP_EVALUATE (R404-R406): request k of a die's unit. A refused one that comes again joins the queue; the earliest
due SXPROP of its slot is evaluated. -/
def execSxpropEvaluate (die k : Nat) (s : State) : Out :=
  match s.req? k with
  | none => ok s
  | some r =>
      match r.op with
      | .sxprop n w regs =>
          if dieOfTile r.tile ≠ die ∨ (s.die die).tripped then ok s
          else if r.stage == .region then ok (s.sxArrive r n)
          else if s.sxFirst die n == some r then ok (s.sxEvaluate r n w regs) else ok s
      | _ => ok s

/-! ## Images (R409) -/

/-- Round up to a multiple of 64. -/
def up64 (n : Nat) : Nat := (n + 63) / 64 * 64

/-- The CRC of an image, bytes 60 to 63 counting as zero. -/
def imageCrc (bs : List Byte) : Nat := (crc32c (bs.take 60 ++ [0, 0, 0, 0] ++ bs.drop 64)).toNat

/-- The image of a slot. -/
def PSlot.image (x : PSlot) : List Byte :=
  let n := up64 (192 + 4 * (x.count - x.base))
  let bs := padTo n (padTo 192 (padTo 64 (natToBytes 4 1 ++ natToBytes 4 x.count ++ natToBytes 4 x.base ++ natToBytes 4 x.w ++
      natToBytes 4 x.mpos ++ [BitVec.ofNat 8 x.mlen, BitVec.ofNat 8 x.held.length]) ++
      x.held.flatMap fun p => natToBytes 4 p.1 ++ natToBytes 4 p.2.toNat) ++
    x.hist.flatMap fun v => natToBytes 4 v.toNat)
  bs.take 60 ++ natToBytes 4 (imageCrc bs) ++ bs.drop 64

/-- Write bytes at a VA: all of them, or a fault with the address it meets (R256). -/
def State.writeVirt (s : State) (die asid va : Nat) (bs : List Byte) : Except (Nat × Nat) State :=
  match s.virtKeys die asid va bs.length true fun k => if s.writable k 1 then none else some cAccessFault with
  | .error c => .error c
  | .ok pas =>
      let words := pas.map (· / 8)
      .ok { s with mem := (pas.zip bs).foldl (fun m (x : Nat × Byte) => memWrite x.1 x.2 m) s.mem,
                   ecc := s.ecc.filter fun (w : Nat) => words.count w < 8 }

def badAccess : Word := 0xFFFFFFFFFFFFFFFD

/-- SXSAVE at the unit. -/
def State.sxSave (s : State) (n va : Nat) : Word × State :=
  match s.openSlot? s.myDie n s.myAsid with
  | none => (allOnes, s)
  | some x =>
      match s.writeVirt s.myDie s.myAsid va x.image with
      | .error (c, a) => (badAccess, s.unitRecord c 0 (BitVec.ofNat 64 a))
      | .ok s => (BitVec.ofNat 64 x.image.length, s)

/-- SXSAVE (R409). -/
def execSxsave (o : AR) (s : State) : Out :=
  let a := s.greg o.a
  let va := s.greg o.b
  if !slotArgOk a then ok (s.trap cIllegalDesc a)
  else if !vaArgOk va then ok (s.trap cAccessFault va)
  else ok (s.slotOp o fun s => s.sxSave a.toNat va.toNat)

/-- A field of an image. -/
def imageField (bs : List Byte) (i n : Nat) : Nat := bytesToNat ((bs.drop i).take n)

/-- The held pairs of an image. -/
def imageHeld (bs : List Byte) : List (Nat × HWord) :=
  (List.range (imageField bs 21 1)).map fun i => (imageField bs (64 + 8 * i) 4, BitVec.ofNat 32 (imageField bs (68 + 8 * i) 4))

/-- The header of an image can be read further. -/
def imageHeadOk (bs : List Byte) : Bool :=
  imageField bs 0 4 == 1 && decide (imageField bs 8 4 ≤ imageField bs 4 4) &&
    decide (imageField bs 4 4 - imageField bs 8 4 ≤ imageField bs 12 4) && decide (imageField bs 21 1 ≤ 16)

/-- An image is whole (R409). -/
def imageOk (bs : List Byte) : Bool :=
  let c := imageField bs 4 4
  let ps := (imageHeld bs).map (·.1)
  imageHeadOk bs && imageField bs 60 4 == imageCrc bs && ps.eraseDups.length == ps.length &&
    ps.all fun q => decide (c + 1 ≤ q ∧ q ≤ c + 16)

/-- The slot takes an image's state. -/
def PSlot.load (x : PSlot) (bs : List Byte) : PSlot :=
  let c := imageField bs 4 4
  let b := imageField bs 8 4
  { x with count := c, base := b, w := imageField bs 12 4, mpos := imageField bs 16 4, mlen := imageField bs 20 1,
           held := imageHeld bs, hist := (List.range (c - b)).map fun i => BitVec.ofNat 32 (imageField bs (192 + 4 * i) 4),
           lastn := 0, lastcut := false, rebuild := none }

/-- The image at a VA: its header first, then as far as it goes. -/
def State.readImage (s : State) (va : Nat) : Except (Nat × Nat) (List Byte) :=
  match s.readVirt s.myDie s.myAsid va 192 with
  | .error c => .error c
  | .ok hd => if imageHeadOk hd then s.readVirt s.myDie s.myAsid va (up64 (192 + 4 * (imageField hd 4 4 - imageField hd 8 4))) else .ok hd

/-- SXLOAD at the unit: a good image is rebuilt, and the operation answers when that is done. -/
def State.sxLoad (s : State) (o : AR) (n va : Nat) : State :=
  match s.openSlot? s.myDie n s.myAsid with
  | none => s.unitOp o.d fun s => (allOnes, s)
  | some x =>
      match s.readImage va with
      | .error (c, a) => s.unitOp o.d fun s => (badAccess, s.unitRecord c 0 (BitVec.ofNat 64 a))
      | .ok bs =>
          if !imageOk bs then s.unitOp o.d fun s => (0, s)
          else if x.cap < imageField bs 12 4 then s.unitOp o.d fun s => (2, s)
          else if 4 ≤ s.me.ldout || !s.slotFree s.myTile then s.hold
          else
            let dest := s.me.preg o.d
            let r := { s.threadReq .unit 0 dest true with stage := .queued }
            (s.sendReq r dest true).putPslot s.myDie n { x with rebuild := some (r.id, bs) }

/-- SXLOAD (R409). -/
def execSxload (o : AR) (s : State) : Out :=
  let a := s.greg o.a
  let va := s.greg o.b
  if !slotArgOk a then ok (s.trap cIllegalDesc a)
  else if !vaArgOk va then ok (s.trap cAccessFault va)
  else if s.slotHolds s.myDie a.toNat then ok s.hold
  else ok (s.sxLoad o a.toNat va.toNat)

/-- SXLOAD_REBUILD_COMPLETE (R409) of slot k. -/
def execSxloadRebuildComplete (die k : Nat) (s : State) : Out :=
  match s.pslot? die k with
  | none => ok s
  | some x =>
      match x.rebuild with
      | none => ok s
      | some (id, bs) =>
          if (s.die die).tripped then ok s
          else
            let s := s.putPslot die k (x.load bs)
            match s.req? id with
            | none => ok s
            | some r => ok (s.answerUnit r 1)

/-! ## VOCCHK (R420) -/

/-- VOCCHK (R420). -/
def execVocchk (o : AR) (s : State) : Out :=
  let a := s.greg o.a
  let t := s.me
  ok (s.result o.d (if (a.extractLsb' 32 32) == 0 && vocValid t.vocab t.padlo t.padhi a.toNat then 1 else 0))

end Sys2Proof.Machine
end

