-- ==== Sys2Proof/Machine/Batching.lean ====
section
/-! DEFINITION. The batching table and its two phases, COMMIT, the generator (14_generation_class.md R410-R419). -/

namespace Sys2Proof.Machine

/-! ## Deltas (R411, R412) -/

def freeEntry : List Byte := List.replicate 32 0

/-- An entry of a die's replica. -/
def State.btEntry (s : State) (die i : Nat) : List Byte := mapGet freeEntry (s.die die).btab i

def btState (e : List Byte) : Nat := imageField e 4 1
def btSlot (e : List Byte) : Nat := imageField e 6 2
def btPos (e : List Byte) : Nat := imageField e 8 4

/-- A record of a delta: entry index, operation, image. -/
structure BtRec where
  idx : Nat
  op : Nat
  image : List Byte
  clean : Bool
  deriving DecidableEq, Repr, Inhabited

/-- The records of a delta's bytes, 64 each. -/
def deltaRecs (bs : List Byte) : List BtRec :=
  (List.range (bs.length / 64)).map fun i =>
    let r := (bs.drop (64 * i)).take 64
    { idx := imageField r 0 2, op := imageField r 2 1, image := r.drop 32, clean := ((r.drop 3).take 29).all (· == 0) }

/-- Reason 1. -/
def BtRec.malformed (r : BtRec) : Bool :=
  let e := r.image
  !r.clean || decide (1 < r.op) || decide (4095 < r.idx) ||
    (if r.op = 1 then e.any (· != 0)
     else
       imageField e 5 1 != 0 || imageField e 12 4 != 0 || !(btState e == 1 || btState e == 2) ||
         decide (4096 ≤ btSlot e ∧ btSlot e ≤ 0xFFFE))

/-- Reason 2. -/
def BtRec.misplaced (old : List Byte) (r : BtRec) : Bool :=
  if r.op = 1 then btState old == 0 else (btState old == 0 && btState r.image != 1) || btState old == 2

/-- The first reason a replica refuses a delta for; 0 for none. -/
def State.btReason (s : State) (die iter : Nat) (rs : List BtRec) : Nat :=
  if rs.any BtRec.malformed then 1
  else if rs.any fun r => r.misplaced (s.btEntry die r.idx) then 2
  else if rs.any fun r => r.op == 0 && decide (btPos r.image < btPos (s.btEntry die r.idx)) then 3
  else if (rs.map (·.idx)).eraseDups.length ≠ rs.length then 4
  else if iter ≠ ((s.die die).iter + 1) % 2 ^ 32 then 5
  else 0

/-- A committed delta is applied as one step (R414). -/
def State.btApply (s : State) (die iter : Nat) (rs : List BtRec) : State :=
  s.modDie die fun d =>
    { d with btab := rs.foldl (fun m r => if r.op = 1 then mapDel r.idx m else mapPut r.idx r.image m) d.btab, iter := iter,
             btPrepared := none }

/-! ## The two phases (R413) -/

def pkReply : Nat := 5
def pkAbort : Nat := 6
def pkCommit : Nat := 7

/-- The status word. -/
def btStatus (code reason replica iter : Nat) : Word := BitVec.ofNat 64 (code + reason * 2 ^ 8 + replica * 2 ^ 16 + iter % 2 ^ 32 * 2 ^ 32)

/-- A status that comes with no iteration: the spec states none there, so the field is free (log 14). -/
def State.btNoIter (s : State) (code : Nat) : Word := btStatus code 0 0 (Config.freeNat s.tick 6)

/-- The replica set of a die as indices and dies. -/
def Die.replicas (d : Die) : List (Nat × Nat) := (List.range d.btset.length).zip d.btset

/-- A message to every replica. -/
def State.toReplicas (s : State) (die kind iter : Nat) : State :=
  (s.die die).replicas.foldl (fun s r => s.send clsCtl die r.2 (.data kind [die, r.1, iter])) s

/-- The thread's answer to the transaction in flight; it is over unless it stays. -/
def State.btAnswer (s : State) (die : Nat) (x : BtTxn) (v : Word) (stay : Option BtTxn) : State :=
  let s := s.modDie die fun d => { d with btTxn := stay }
  match s.req? x.req with
  | none => s
  | some r => s.answerUnit r v

def btValid (w : Nat) : Bool := w.testBit 13
def btCoord (w : Nat) : Bool := w.testBit 12

/-- A pending request that a protocol answers. -/
def State.protocolReq (s : State) (o : AR) : State :=
  let dest := s.me.preg o.d
  s.sendReq { s.threadReq .unit 0 dest true with stage := .queued } dest true

/-- BTPROP with its delta read. -/
def State.btPropose (s : State) (o : AR) (delta : List Byte) : State :=
  let die := s.myDie
  let d := s.die die
  if !(btValid d.btgrp && btCoord d.btgrp) then s.unitOp o.d fun s => (s.btNoIter 2, s)
  else if d.btTxn.isSome then s.unitOp o.d fun s => (s.btNoIter 3, s)
  else if 4 ≤ s.me.ldout || !s.slotFree s.myTile then s.hold
  else
    let id := s.nextId
    let th := s.cur.th
    let before := (s.reqs.filter fun r => r.thread? == some th && r.unperformed).map (·.id)
    let x : BtTxn := { phase := 0, iter := (d.iter + 1) % 2 ^ 32, delta := delta, req := id, waits := [], reasons := [], start := d.cycle }
    let f : NodeFence :=
      { fir := { (default : Firing) with task := s.myTask.getD 0 }, th := some th, act := .proposal id delta, reqs := before, firs := [], cmds := [],
        snap := systemSnap }
    let s := (s.protocolReq o).modDie die fun d => { d with btTxn := some x }
    let s := s.modMe fun t => { t with fence := t.fence ++ before.map fun i => (i, false) }
    (s.modTile s.myTile fun y => { y with fences := y.fences ++ [f] }).settleNodes s.myTile

/-- BTPROP (R413). -/
def execBtprop (o : AR) (s : State) : Out :=
  let n := s.greg o.b
  if 64 < n.toNat then ok (s.trap cIllegalDesc n)
  else if n = 0 then
    ok (if s.poolArg (s.greg o.a) 64 1 then s.btPropose o [] else s.trap cAccessFault (s.greg o.a))
  else ok (s.withImage (s.greg o.a) 64 (64 * n.toNat) fun bs => s.btPropose o bs)

/-- BTCOMMIT (R413). -/
def execBtcommit (o : AR) (s : State) : Out :=
  let die := s.myDie
  match (s.die die).btTxn.filter fun x => x.phase == 2 with
  | none => ok (s.unitOp o.d fun s => (s.btNoIter 1, s))
  | some x =>
      if o.f.getLsbD 0 then
        ok (s.unitOp o.d fun s =>
          (btStatus 0 0 0 x.iter, (s.toReplicas die pkAbort x.iter).modDie die fun d => { d with btTxn := none }))
      else if 4 ≤ s.me.ldout || !s.slotFree s.myTile then ok s.hold
      else
        let id := s.nextId
        let s := s.protocolReq o
        let s := s.modDie die fun d =>
          { d with btTxn := some { x with phase := 3, req := id, waits := List.range d.btset.length, start := d.cycle } }
        ok (s.toReplicas die pkCommit x.iter)

/-- A control packet has reached its die, and those of its stream before it have been taken (R413; log 113). -/
def State.arrived (s : State) (p : Packet) : Bool := p.at_ == p.dst && !s.placeStopped p.at_ && !s.packetWaits p

/-- BT_PROPOSAL_ARRIVAL (R412, R413): packet k at a replica. -/
def execBtProposalArrival (k : Nat) (s : State) : Out :=
  match s.packet? k with
  | none => ok s
  | some p =>
      match p.body with
      | .data 4 (coord :: idx :: iter :: delta) =>
          if !s.arrived p then ok s
          else
            let die := p.dst
            let bs := delta.map (BitVec.ofNat 8)
            let reason := s.btReason die iter (deltaRecs bs)
            let s := s.dropPacket k
            let s := if reason = 0 then s.modDie die fun d => { d with btPrepared := some (iter, bs) } else s
            ok (s.send clsCtl die coord (.data pkReply [idx, reason, iter, 1]))
      | _ => ok s

/-- BT_ABORT_ARRIVAL (R413). -/
def execBtAbortArrival (k : Nat) (s : State) : Out :=
  match s.packet? k with
  | none => ok s
  | some p =>
      match p.body with
      | .data 6 [_, _, iter] =>
          if !s.arrived p then ok s
          else
            ok ((s.dropPacket k).modDie p.dst fun d =>
              { d with btPrepared := d.btPrepared.filter fun x => x.1 != iter })
      | _ => ok s

/-- BT_COMMIT_ARRIVAL (R413, R414): a replica that holds the proposal applies it and replies. -/
def execBtCommitArrival (k : Nat) (s : State) : Out :=
  match s.packet? k with
  | none => ok s
  | some p =>
      match p.body with
      | .data 7 [coord, idx, iter] =>
          if !s.arrived p then ok s
          else
            let s := s.dropPacket k
            match (s.die p.dst).btPrepared with
            | none => ok s
            | some (i, bs) =>
                if i ≠ iter then ok s
                else ok ((s.btApply p.dst iter (deltaRecs bs)).send clsCtl p.dst coord (.data pkReply [idx, 0, iter, 3]))
      | _ => ok s

/-- The least of a list of replica indices. -/
def leastOf (xs : List Nat) : Nat := xs.foldl min (xs.headD 0)

/-- Every replica has answered. -/
def State.btDecide (s : State) (die : Nat) (x : BtTxn) : State :=
  if x.phase = 3 then s.btAnswer die x (btStatus 0 0 0 x.iter) none
  else if x.reasons.isEmpty then s.btAnswer die x (btStatus 0 0 0 x.iter) (some { x with phase := 2 })
  else
    let i := leastOf (x.reasons.map (·.1))
    (s.toReplicas die pkAbort x.iter).btAnswer die x (btStatus 1 (mapGet 0 x.reasons i) i x.iter) none

/-- BATCHING_ACKNOWLEDGEMENT (R413): a reply reaches the coordinator. -/
def execBatchingAcknowledgement (k : Nat) (s : State) : Out :=
  match s.packet? k with
  | none => ok s
  | some p =>
      match p.body with
      | .data 5 [idx, reason, iter, phase] =>
          if !s.arrived p then ok s
          else
            let s := s.dropPacket k
            match (s.die p.dst).btTxn with
            | none => ok s
            | some x =>
                if x.iter ≠ iter ∨ x.phase ≠ phase ∨ !x.waits.contains idx then ok s
                else
                  let x := { x with waits := x.waits.erase idx,
                                    reasons := if reason = 0 then x.reasons else x.reasons ++ [(idx, reason)] }
                  if x.waits.isEmpty then ok (s.btDecide p.dst x)
                  else ok (s.modDie p.dst fun d => { d with btTxn := some x })
      | _ => ok s

/-- A replica's silence (R413): the lowest silent index is named. -/
def State.btSilent (s : State) (die : Nat) (x : BtTxn) : State :=
  let i := leastOf x.waits
  let s := if x.phase = 1 then s.toReplicas die pkAbort x.iter
    else
      s.record { code := cBtDiverge, die := die, io := false, tileByte := 0, unit := 0xFD, flags := 0, node := 0, tag := 0, task := 0,
                 cycle := (s.die die).cycle, op0 := 0, op1 := 0, addr := BitVec.ofNat 64 i }
  s.btAnswer die x (btStatus 4 0 i x.iter) none

/-- BT_REPLICA_TIMEOUT (R413). -/
def execBtReplicaTimeout (die : Nat) (s : State) : Out :=
  let d := s.die die
  match d.btTxn with
  | none => ok s
  | some x =>
      if d.tripped || !(x.phase == 1 || x.phase == 3) || x.waits.isEmpty || d.cycle < x.start + 2 ^ 24 then ok s
      else ok (s.btSilent die x)

/-- BTREAD (R414). -/
def execBtread (o : AR) (s : State) : Out :=
  let a := s.greg o.a
  if o.f = 4 then
    ok (s.unitOp o.d fun s =>
      let d := s.die s.myDie
      (BitVec.ofNat 64 (d.iter + if d.btPrepared.isSome then 2 ^ 32 else 0), s))
  else if (a.extractLsb' 12 52) ≠ 0 then ok (s.trap cIllegalDesc a)
  else
    ok (s.unitOp o.d fun s => (BitVec.ofNat 64 (imageField (s.btEntry s.myDie a.toNat) (8 * o.f.toNat) 8), s))

/-! ## COMMIT (R415) -/

/-- The group of a COMMIT word. -/
def State.commitEntry (s : State) (pe slot : Nat) (key : Word) : Option WEntry :=
  (s.pe pe).entry? fun e => e.slot == slot && e.tag == key && match e.kind with
    | .commit _ _ _ _ => true
    | _ => false

/-- The tag field that counts offsets. -/
def State.offsetField (s : State) (f : Firing) : Nat × Nat := s.fieldAt f.task (f.node.r.lit32.extractLsb' 0 3).toNat

/-- A word retires: the accepted count and its emission. -/
def State.retire (s : State) (f : Firing) (a : Nat) (l r : TWord) : Nat × State :=
  let t := tileOfPe f.pe
  let die := dieOfTile t
  let e := s.btEntry die (r.w.extractLsb' 0 12).toNat
  let withP (s : State) : State := s.emit f f.tag [{ l with p := true }]
  if l.n || r.n then (a, s.emit f f.tag [nullWord (l.p || r.p)])
  else if l.p || r.p then (a, withP (s.fireRecord f cPoisonStore 0))
  else if btState e ≠ 1 ∨ btSlot e = 0xFFFF then (a, withP (s.fireRecord f cBtState 0))
  else
    let q := (btPos e + a) % 2 ^ 32
    let x := s.sxAppend die (btSlot e) (s.taskAsid f.task) q (l.w.extractLsb' 0 32) fun s c =>
      let rel := s.relNode f.task f.slot
      s.record { code := c, die := die, io := false, tileByte := tileByte t, unit := 0xFD, flags := 0, node := rel, tag := f.tag,
                 task := s.instanceId f.task, cycle := s.cycleOf t, op0 := sxNames (btSlot e) q (l.w.extractLsb' 0 32), op1 := 0, addr := 0 }
    -- An append neither applied nor held: the spec states no P there, so it is free (log 14).
    let p := decide (2 < x.1.toNat) && decide (Config.freeNat s.tick 7 % 2 = 1)
    ((a + 1) % 2 ^ 32, x.2.emit f f.tag [{ l with p := p }])

/-- STREAM_LENGTH for a word at or above the count. -/
def State.commitLate (s : State) (f : Firing) : State :=
  s.peRecord f.pe f.task (s.relNode f.task f.slot) cStreamLength f.tag 0 0 0 0

/-- Retire in ascending offset; then the E, once all before it have retired. -/
def commitGo (f : Firing) (key : Word) : Nat → State → State
  | 0, s => s
  | n + 1, s =>
      match s.commitEntry f.pe f.slot key with
      | none => s
      | some e =>
          match e.kind with
          | .commit k a ws fin =>
              match fin with
              | some (c, p) =>
                  if c ≤ k then (s.dropEntry f.pe e).emitE f key a p
                  else commitNext n s e k a ws fin
              | none => commitNext n s e k a ws fin
          | _ => s
where
  /-- The word at the next offset, if it is there. -/
  commitNext (n : Nat) (s : State) (e : WEntry) (k a : Nat) (ws : List (Nat × TWord × TWord)) (fin : Option (Nat × Bool)) : State :=
    match ws.find? fun w => w.1 == k with
    | none => s
    | some w =>
        let g := { f with tag := putTag (s.offsetField f) key k }
        let r := s.retire g a w.2.1 w.2.2
        let e' := { e with kind := .commit (k + 1) r.1 (ws.erase w) fin }
        commitGo f key n (r.2.swapEntry f.pe e e')

/-- The group of a firing, made where there is none. -/
def State.commitGroup (s : State) (f : Firing) (key : Word) : State :=
  if (s.commitEntry f.pe f.slot key).isSome then s
  else (s.placeOf f.pe (s.newEntry f.pe f.task f.slot 0 f.seq key (.commit 0 0 [] none) []) f.tag (f.l ++ f.r)).2

/-- One word of COMMIT. -/
def commitScalar (s : State) (f : Firing) : State :=
  let fl := s.offsetField f
  let off := getTag fl f.tag
  let key := putTag fl f.tag 0
  let s := s.commitGroup f key
  match s.commitEntry f.pe f.slot key with
  | none => s
  | some e =>
      match e.kind with
      | .commit k a ws fin =>
          if (fin.map fun x => decide (x.1 ≤ off)).getD false then s.commitLate f
          else
            let e' := { e with kind := .commit k a (ws ++ [(off, f.l.headD default, f.r.headD default)]) fin }
            commitGo f key (ws.length + 2) (s.swapEntry f.pe e e')
      | _ => s

/-- The E of a COMMIT stream. -/
def commitEnd (s : State) (f : Firing) : State :=
  let key := putTag (s.offsetField f) (s.keyOf f.task f.tag) 0
  let c := f.eCount
  let s := s.commitGroup f key
  match s.commitEntry f.pe f.slot key with
  | none => s
  | some e =>
      match e.kind with
      | .commit k a ws _ =>
          let late := ws.filter fun w => decide (c ≤ w.1)
          let s := late.foldl (fun s w => s.commitLate { f with tag := putTag (s.offsetField f) key w.1 }) s
          let e' := { e with kind := .commit k a (ws.filter fun w => decide (w.1 < c)) (some (c, f.anyP)) }
          commitGo f key (ws.length + 2) (s.swapEntry f.pe e e')
      | _ => s

/-- Some slot of the die takes no operation now. -/
def State.slotsHeld (s : State) (die : Nat) : Bool := (s.die die).pslots.any fun x => s.slotHolds die x.1

/-- COMMIT (R415). -/
def execCommit (s : State) : Out :=
  let f := s.cur.fir
  if s.slotsHeld (dieOfTile (tileOfPe f.pe)) then ok s.hold
  else
    let s := s.beginFire.traceFire f f.tag f.l
    if f.eos then ok (commitEnd s f) else ok ((s.scalars f).foldl commitScalar s)

/-! ## The generator (R418, R419) -/

/-- Draws in a die's generator queue, in order. -/
def State.draws (s : State) (die : Nat) : List Req :=
  s.reqs.filter fun r => dieOfTile r.tile == die && r.stage == .queued && match r.op with
    | .draw _ _ => true
    | _ => false

/-- A draw joins the queue, or is refused where 256 wait. -/
def State.drawArrive (s : State) (r : Req) : State :=
  if 256 ≤ (s.draws (dieOfTile r.tile)).length then s.modReq r.id fun x => { x with stage := .refused (s.cycleOf r.tile + 256) }
  else (s.modReq r.id fun x => { x with stage := .queued, recNo := s.nextId }).fresh

/-- RNGDRAW (R418). -/
def execRngdraw (o : AR) (s : State) : Out :=
  let b := s.greg o.b
  if (b.extractLsb' 40 24) ≠ 0 then ok (s.trap cIllegalDesc b)
  else if 4 ≤ s.me.ldout || !s.slotFree s.myTile then ok s.hold
  else
    let d1 := s.me.preg o.d
    let d2 := s.me.preg (o.d + 1)
    let r := { s.threadReq (.draw (s.greg o.a) b) 0 d1 true with who := .threadPair s.cur.th d1 d2, stage := .region }
    let s := s.sendReq r d1 true
    ok ((s.modMe fun t => t.setPending d2 true).drawArrive r)

/-- The block of a draw: key id, sequence id, position, draw index (R418). -/
def drawBlock (seqPos drawKey : Word) : List Byte :=
  natToBytes 16 ((drawKey.extractLsb' 0 32).toNat + (seqPos.extractLsb' 32 32).toNat * 2 ^ 32 + (seqPos.extractLsb' 0 32).toNat * 2 ^ 64 +
    (drawKey.extractLsb' 32 8).toNat * 2 ^ 96)

/-- A draw is served: both halves, or RNG_KEY and zeros where the key entry is empty. -/
def State.serveDraw (s : State) (r : Req) : State :=
  match r.op, r.who with
  | .draw x y, .threadPair th d1 d2 =>
      let id := (y.extractLsb' 32 8).toNat
      match mapFind? (s.die (dieOfTile r.tile)).keys id with
      | some key =>
          let z := aes256 key (drawBlock x y)
          s.modReq r.id fun q =>
            { q with op := .draw x (BitVec.ofNat 64 (bytesToNat (z.drop 8))), stage := .reply (BitVec.ofNat 64 (bytesToNat (z.take 8))) false }
      | none =>
          (s.modReq r.id fun q => { q with stage := .parked }).modThread th fun t =>
            let t := (t.takeReply d1 true 0).takeReply d2 false 0
            { t with deferred := t.deferred ++ [{ code := cRngKey, va := BitVec.ofNat 64 id, req := some r.id }] }
  | _, _ => s

/-- Insert by place in the queue. -/
def insertDraw (r : Req) : List Req → List Req
  | [] => [r]
  | q :: qs => if r.recNo ≤ q.recNo then r :: q :: qs else q :: insertDraw r qs

/-- GENERATOR_DRAW_SERVE (R419): draws that come again join the queue; up to 16 are served in its order. -/
def execGeneratorDrawServe (die : Nat) (s : State) : Out :=
  if (s.die die).tripped then ok s
  else
    let back := s.reqs.filter fun r => dieOfTile r.tile == die && r.stage == .region && match r.op with
      | .draw _ _ => true
      | _ => false
    let s := back.foldl (fun s r => s.drawArrive r) s
    ok ((((s.draws die).foldr insertDraw []).take 16).foldl (fun s r => s.serveDraw r) s)

end Sys2Proof.Machine
end

