-- ==== Sys2Proof/Machine/System.lean ====
section
/-! DEFINITION. Class 14: software traps and the return from a trap, machine registers, halting, TLB invalidation, power hints,
doorbells, replay (15_system_class.md R428-R438, R444-R450). -/

namespace Sys2Proof.Machine

/-! ## TRAP and ERET (R428, R430) -/

/-- TRAP (R428). -/
def execTrap (o : AI) (s : State) : Out := ok (s.trap cSwTrap (o.imm.signExtend 64))

/-- The parked requests of the deferred trap that is being handled. -/
def State.takenReqs (s : State) : List Req :=
  if s.me.trapcause.getLsbD 16 then s.me.taken.filterMap s.req? else []

/-- ERET (R133, R430): it waits while a request that it resubmits names a scope entry under update (R311). -/
def execEret (_o : AR) (s : State) : Out :=
  if !s.me.hnd then ok (s.trap cIllegalOp s.cur.word)
  else
    let rs := s.takenReqs
    if rs.any s.resubmitHolds then ok s.hold
    else ok (rs.foldl State.resubmit (s.modMe fun t => { t.leaveTrap with taken := [] }))

/-! ## The register map (R433, R434) -/

/-- Registers that memory tiles do not have. -/
def computeReg (n : Nat) : Bool :=
  within 0x010 0x015 n || within 0x018 0x01B n || within 0x020 0x023 n || within 0x028 0x02F n || isRepair n

/-- A write needs privilege. -/
def writePriv (n : Nat) : Bool :=
  within 0x018 0x01B n || n == 0x050 || n == 0x058 || within 0x080 0x081 n || isRepair n || isWindow n

/-- A read needs privilege. -/
def readPriv (n : Nat) : Bool := isRepair n || isWindow n

/-! ## Reads -/

/-- MS.THREAD (R124). -/
def State.threadWord (s : State) (th : Nat) : Word :=
  let t := s.thread th
  BitVec.ofNat 64 (numOfThread th + (if t.hnd then 8 else 0) + (if t.uih then 16 else 0) + t.ldout % 8 * 2 ^ 8 +
    (t.pend.extractLsb' 1 31).toNat * 2 ^ 17 + t.hpend.toNat * 2 ^ 48)

/-- MS.TILE (R125). -/
def tileWord (t : Nat) : Word :=
  let d := dieOfTile t
  BitVec.ofNat 64 (tileIdx t + d % 16 * 2 ^ 8 + moduleOfDie d * 2 ^ 12 + (if isMemTile t then 2 ^ 22 else 0) + clusterOf t * 2 ^ 24)

/-- MS.POOLMASK (R238). -/
def State.poolMask (s : State) (t k : Nat) : Word :=
  BitVec.ofNat 64 ((((s.tile t).owners.filter fun x => x.2 == k).map fun x => 2 ^ x.1).sum)

/-- MS.EREMAIN (R376), a window that has begun unseen being counted. -/
def State.remainWord (s : State) (die : Nat) : Word :=
  let s := if s.windowDue die then s.windowStart die else s
  BitVec.ofNat 64 (s.remain die % 2 ^ 32 + match (s.die die).exq with
    | some (q, _) => q % 8 * 2 ^ 32 + 2 ^ 35
    | none => 0)

/-- MS.SCUR of an inbound port (R438); zero for a port that is not configured. -/
def State.scurWord (s : State) (t j : Nat) : Word :=
  match s.port? t j with
  | none => 0
  | some p =>
      BitVec.ofNat 64 (p.deliv % 2 ^ 32 + p.beats.length % 128 * 2 ^ 32 + (if p.stop then 2 ^ 39 else 0) +
        (if p.ring.isSome then 2 ^ 40 else 0) + s.fifoHeld t j % 2 ^ 19 * 2 ^ 41)

/-- The engine whose error register a number names: VERR, MERR, CERR, GERR. -/
def errEngine (n : Nat) : Nat := if n = 0x020 then 1 else if n = 0x021 then 2 else if n = 0x022 then 0 else 3

/-- A register of thread th as it stands (R433), but for the test window. -/
def State.readReg (s : State) (th n : Nat) : Word :=
  let t := s.thread th
  let tl := tileOfThread th
  let die := dieOfTile tl
  let k := t.task.getD 0
  if n = 0x000 then s.threadWord th
  else if n = 0x001 then tileWord tl
  else if n = 0x002 then BitVec.ofNat 64 (s.cycleOf tl)
  else if n = 0x003 then t.round
  else if n = 0x004 then t.excmode
  else if n = 0x008 then t.trapcause
  else if n = 0x009 then t.trappc
  else if n = 0x00A then t.trapval
  else if n = 0x00B then t.trapvec
  else if n = 0x00C then t.trapscr
  else if n = 0x010 then t.uivec
  else if n = 0x011 then t.uistat
  else if n ≤ 0x015 then mapGet 0 t.uitgt (n - 0x012)
  else if n ≤ 0x01B then t.counter (n - 0x018)
  else if n ≤ 0x023 then t.errReg (errEngine n)
  else if n ≤ 0x02F then mapGet 0 (s.taskTile k tl).shapes (n - 0x028)
  else if n = 0x030 then (if isMemTile tl then 0 else (s.tile tl).poolpart)
  else if n = 0x031 then s.poolMask tl k
  else if n = 0x032 then BitVec.ofNat 64 (s.taskAsid k % 4096)
  else if n = 0x033 then (if isMemTile tl then BitVec.ofNat 64 ((s.tile tl).mrole % 4) else 0)
  else if n = 0x038 then (s.taskTile k tl).missring
  else if n = 0x039 then (s.taskTile k tl).ntrapctl
  else if n = 0x040 then t.vocab
  else if n = 0x041 then t.padlo
  else if n = 0x042 then t.padhi
  else if n = 0x043 then t.sxlmin
  else if n = 0x044 then t.sxlmax
  else if n = 0x048 then BitVec.ofNat 64 ((s.die die).btgrp % 2 ^ 14)
  else if n = 0x050 then BitVec.ofNat 64 (s.budget die % 2 ^ 32 + Config.fuse die % 2 ^ 32 * 2 ^ 32)
  else if n = 0x051 then s.remainWord die
  else if n = 0x058 then BitVec.ofNat 64 ((s.die die).fltlost % 2 ^ 32)
  else if n ≤ 0x06F then s.scurWord tl (n - 0x060)
  else if n = 0x080 then (s.tile tl).testctl
  else if n = 0x081 then (s.tile tl).testsum
  else mapGet 0 (s.tile tl).repair (n - 0x100)

/-! ## The test window (R434) -/

/-- The thread a window number names, and the register. -/
def windowThread (tl n : Nat) : Nat := 8 * tl + (n - 0x1000) / 64
def windowReg (n : Nat) : Nat := n % 64

/-- The physical register of a window or side-band number: g, h, or the predicates. -/
def windowPReg (r : Nat) : PReg := if r = 0 then .none else if r < 32 then .g r else if r < 40 then .h (r - 32) else .none

def Thread.readWindow (t : Thread) (r : Nat) : Word :=
  if r = 0 then 0
  else if r < 32 then mapGet 0 t.g r
  else if r < 40 then mapGet 0 t.h (r - 32)
  else BitVec.ofNat 64 (t.p.toNat / 2 * 2)

def Thread.writeWindow (t : Thread) (r : Nat) (v : Word) : Thread :=
  if r < 40 then t.setPReg (windowPReg r) v else { t with p := BitVec.ofNat 8 ((v.extractLsb' 1 7).toNat * 2) }

/-- An access through the window is allowed. -/
def State.windowOk (s : State) (n : Nat) : Bool :=
  let th := windowThread s.myTile n
  let x := s.thread th
  (s.tile s.myTile).testctl.getLsbD 0 && th != s.cur.th && !x.running &&
    (match s.myTask with
      | some k => (s.allotted k s.myTile).contains th
      | none => false) && !x.pending (windowPReg (windowReg n))

/-! ## Writes that have a row of their own -/

/-- NTRAPCTL_WRITE (R437): by a thread of the task on its tile. -/
def execNtrapctlWrite (v : Word) (s : State) : Out :=
  let a := (v.extractLsb' 0 24).toNat
  let k := s.myTask.getD 0
  if v.getLsbD 24 && (a % 64 != 0 || !scratchOk s k s.myTile a 260) then ok s
  else ok (s.modTaskTile k s.myTile fun y => { y with ntrapctl := v &&& 0x1FFFFFF })

/-- REPAIR_WRITE (R435): the spare row is zero-filled, then the entry serves. -/
def execRepairWrite (num : Nat) (v : Word) (s : State) : Out :=
  let t := s.myTile
  let s := s.zeroKeys (sramKey t (0x200000 + num % 128 * 64)) 64
  ok (s.modTile t fun x => { x with repair := wordPut (num % 128) (v &&& 0x7FF) x.repair })

/-- A command of a thread stands in an engine's queue or runs. -/
def State.engineBusy (s : State) (th e : Nat) : Bool :=
  let x := s.tile (tileOfThread th)
  !((s.thread th).queue e).isEmpty ||
    ((if e = 1 then x.vecRun.toList else if e = 2 then x.mtxSeq ++ x.mtxRun else (x.engRun.map (·.cmd)).filter fun c => engineOf c.op == e).any fun c => c.th == some th)

/-- TIMELINE_COUNTER_WRITE (R279). -/
def execTimelineCounterWrite (num : Nat) (v : Word) (s : State) : Out :=
  let e := num % 4
  if s.engineBusy s.cur.th e then ok s
  else ok (s.modMe fun t => { t with tlDone := wordPut e v t.tlDone, tlIssued := wordPut e v t.tlIssued }.fireArm e)

/-- ERROR_REGISTER_CLEAR (R159, R187, R273). -/
def execErrorRegisterClear (num : Nat) (v : Word) (s : State) : Out :=
  ok (if v.getLsbD 16 then s.modMe fun t => { t with err := wordPut (errEngine num) 0 t.err } else s)

/-- EBUDGET_WRITE (R376); the budget left in the window stays. -/
def execEbudgetWrite (v : Word) (s : State) : Out :=
  let d := s.myDie
  let s := if s.windowDue d then s.windowStart d else s
  let b := min (v.extractLsb' 0 32).toNat (Config.fuse d % 2 ^ 32)
  let r := s.remain d
  ok (s.modDie d fun x => { x with budget := some b, remain := some r })

/-! ## Other writes (R8) -/

/-- EXCMODE after a write: a mode of 11 leaves its field, each 1 in FLAGS clears its flag (R110). -/
def excmodeWrite (old v : Word) : Word :=
  let m := (List.range 6).foldl (fun w c =>
    let f := (v.extractLsb' (2 * c) 2).toNat
    if f = 3 then w else setField w (2 * c) 2 f) old
  m &&& ~~~(v &&& 0x3F0000)

/-- A length register after a write (R403). -/
def lengthWrite (old v : Word) : Word :=
  let n := (v.extractLsb' 0 7).toNat
  if n = 0 ∨ 64 < n then old else BitVec.ofNat 64 n

/-- A thread's register after a write. -/
def Thread.writeReg (t : Thread) (n : Nat) (v : Word) : Thread :=
  if n = 0x003 then { t with round := v &&& 7 }
  else if n = 0x004 then { t with excmode := excmodeWrite t.excmode v }
  else if n = 0x008 then { t with trapcause := v &&& 0x7F07FFFF }
  else if n = 0x009 then { t with trappc := v &&& ~~~(7 : Word) }
  else if n = 0x00A then { t with trapval := v }
  else if n = 0x00B then { t with trapvec := v &&& ~~~(6 : Word) }
  else if n = 0x00C then { t with trapscr := v }
  else if n = 0x010 then { t with uivec := v &&& ~~~(6 : Word) }
  else if n = 0x040 then { t with vocab := v &&& 0xFFFFFFFF }
  else if n = 0x041 then { t with padlo := v &&& 0xFFFFFFFF }
  else if n = 0x042 then { t with padhi := v &&& 0xFFFFFFFF }
  else if n = 0x043 then { t with sxlmin := lengthWrite t.sxlmin v }
  else if n = 0x044 then { t with sxlmax := lengthWrite t.sxlmax v }
  else t

/-- A write by thread th to a register without a row of its own; a read-only one ignores it. -/
def State.writeReg (s : State) (th n : Nat) (v : Word) : State :=
  let tl := tileOfThread th
  if n = 0x058 then s.modDie (dieOfTile tl) fun d => { d with fltlost := (v.extractLsb' 0 32).toNat }
  else if n = 0x080 then s.modTile tl fun x => { x with testctl := v &&& 1 }
  else if n = 0x081 then s.modTile tl fun x => { x with testsum := v &&& 0xFF07FF }
  else s.modThread th fun t => t.writeReg n v

/-- MACHINE_REGISTER_WRITE (R8, R433, R434). -/
def execMachineRegisterWrite (num : Nat) (v : Word) (s : State) : Out :=
  if isWindow num then ok (s.modThread (windowThread s.myTile num) fun t => t.writeWindow (windowReg num) v)
  else ok (s.writeReg s.cur.th num v)

/-! ## MRD and MWR (R431) -/

/-- MRD (R431). -/
def execMrd (o : AI) (s : State) : Out :=
  let n := o.imm.toNat
  let v : Word := BitVec.ofNat 64 n
  if !inMap n then ok (s.trap cIllegalOp s.cur.word)
  else if readPriv n && !s.privileged s.cur.th then ok (s.trap cAccessFault v)
  else if isMemTile s.myTile && computeReg n then ok (s.result o.d 0)
  else if isWindow n then
    if s.windowOk n then ok (s.result o.d ((s.thread (windowThread s.myTile n)).readWindow (windowReg n)))
    else ok (s.trap cAccessFault v)
  else ok (s.result o.d (s.readReg s.cur.th n))

/-- The write of a register by the row it belongs to. -/
def writeRow (n : Nat) (v : Word) (s : State) : Out :=
  if n = 0x038 then execMissringWrite v s
  else if n = 0x039 then execNtrapctlWrite v s
  else if isRepair n then execRepairWrite (n - 0x100) v s
  else if within 0x018 0x01B n then execTimelineCounterWrite (n - 0x018) v s
  else if within 0x020 0x023 n then execErrorRegisterClear n v s
  else if n = 0x050 then execEbudgetWrite v s
  else execMachineRegisterWrite n v s

/-- MWR (R431). -/
def execMwr (o : AI) (s : State) : Out :=
  let n := o.imm.toNat
  let w : Word := BitVec.ofNat 64 n
  if !inMap n then ok (s.trap cIllegalOp s.cur.word)
  else if writePriv n && !s.privileged s.cur.th then ok (s.trap cAccessFault w)
  else if isMemTile s.myTile && computeReg n then ok s.advance
  else if isWindow n && !s.windowOk n then ok (s.trap cAccessFault w)
  else
    match writeRow n (s.greg o.a) s with
    | .next s => ok s.advance
    | r => r

/-! ## HALT (R445) -/

/-- The class S pre-emption of a task waits for its threads. -/
def State.awaitsAck (s : State) (k : Nat) : Bool := s.savePhase k == 1 && typeClassS (s.taskType k)

/-- HALT (R441, R445). -/
def execHalt (_o : AR) (s : State) : Out :=
  let ack := match s.myTask with
    | some k => s.awaitsAck k
    | none => false
  ok (s.advance.modMe fun t => { t.stop with acked := t.acked || ack })

/-! ## TLBINV (R446) -/

/-- TLBINV (R446): the entries go at issue, and again what was held up to its answer. -/
def execTlbinv (o : AR) (s : State) : Out :=
  let b := s.greg o.b
  let form := o.f.toNat % 4
  if !s.privileged s.cur.th then ok (s.trap cAccessFault b)
  else if form != 2 && (b.extractLsb' 12 52) != 0 then ok (s.trap cIllegalDesc b)
  else if 4 ≤ s.me.ldout || !s.slotFree s.myTile then ok s.hold
  else
    let asid := b.toNat % 4096
    let va := s.greg o.a
    let dest := s.me.preg o.d
    let s := s.tlbDrop s.myDie form asid va.toNat
    ok (s.sendReq { s.threadReq (.inval form asid) va dest true with stage := .reply 1 false } dest true)

/-! ## PWRHINT (R448) -/

/-- PWRHINT (R448). -/
def execPwrhint (o : AI) (s : State) : Out :=
  if o.imm.msb then ok (s.trap cIllegalOp s.cur.word)
  else
    let d := s.myDie
    let k := s.myTask.getD 0
    let s := if s.windowDue d then s.windowStart d else s
    let back := ((s.run? k).map TaskRun.returned).getD 0
    let credit := min o.imm.toNat (min (typeEnergy (s.taskType k) - back) (s.budget d - s.remain d))
    let r := s.remain d + credit
    let s := (s.modDie d fun x => { x with remain := some r }).modRun k fun x => { x with returned := x.returned + credit }
    ok (s.result o.d (BitVec.ofNat 64 credit))

/-! ## SWINT (R449) -/

/-- HOST scope (R306). -/
def hostSnap : ScopeSnap := { idx := 6, image := [], mods := [] }

/-- Doorbells of a die that wait for their release. -/
def State.bellsWaiting (s : State) (die : Nat) : Nat :=
  (s.tiles.map fun x =>
    if dieOfTile x.1 = die then (x.2.fences.filter fun n => match n.act with
      | .doorbell _ _ _ => true
      | _ => false).length
    else 0).sum

/-- The doorbell ring of a die is full. -/
def State.bellsFull (s : State) (die : Nat) (x : Area) : Bool :=
  let base := die * 2 ^ 40 + x.base
  decide (1024 ≤ (s.readNat base 8 + s.bellsWaiting die + 2 ^ 64 - s.readNat (base + 8) 8) % 2 ^ 64)

/-- SWINT (R449): a release at HOST scope, then the entry. -/
def execSwint (o : AR) (s : State) : Out :=
  let a := s.greg o.a
  if (a.extractLsb' 8 56) != 0 then ok (s.trap cIllegalDesc a)
  else
    match (s.die s.myDie).doorbell with
    | none => ok (s.trap cAccessFault a)
    | some x =>
        if s.bellsFull s.myDie x then ok s.hold
        else
          let th := s.cur.th
          let before := s.threadBefore th 2 hostSnap
          let f : NodeFence :=
            { fir := { (default : Firing) with task := s.myTask.getD 0 }, th := some th,
              act := .doorbell a.toNat (s.greg o.b) (s.instanceId (s.myTask.getD 0)), reqs := before, firs := [], cmds := [], snap := hostSnap }
          let s := s.modMe fun t => { t with fence := t.fence ++ before.map fun i => (i, false) }
          ok ((s.modTile s.myTile fun y => { y with fences := y.fences ++ [f] }).settleNodes s.myTile).advance

/-! ## REPLAY (R450) -/

/-- The task an instance id names; none where no task bears it. -/
def State.taskById (s : State) (w : Word) : Option Nat :=
  let k := taskKey ((w.extractLsb' 22 10).toNat * 16 + (w.extractLsb' 18 4).toNat) (w.extractLsb' 0 18).toNat
  if (s.record? k).isSome ∧ s.instanceId k = w then some k else none

/-- The parked node operations of a task, in firing order; those that wait at a miss ring are not among them (R317). -/
def State.parkedOps (s : State) (k : Nat) : List Req :=
  s.reqs.filter fun r => r.task == k && r.stage == .parked && (match r.who with
    | .node _ _ => true
    | _ => false) && !((s.taskTile k r.tile).misses.any fun m => m.req == r.id)

/-- A node's engine command that waits for REPLAY. -/
def EngCmd.parkedOf (c : EngCmd) (k : Nat) : Bool := c.task == k && c.aux.getD 2 0 == 0

/-- Parked engine commands of a task on a tile may go on at the faulting chunk (R274). -/
def State.requeue (k : Nat) (s : State) (t : Nat) : State :=
  s.modTile t fun x =>
    { x with engParked := x.engParked.map fun c => if c.parkedOf k then { c with aux := [0, c.aux.getD 1 0, 1] } else c }

/-- What REPLAY.park resubmits: node operations, engine commands, prefetches; their number. -/
def State.replayPark (s : State) (k : Nat) : Nat × State :=
  let rs := s.parkedOps k
  let cmds := ((s.region k).map fun t => ((s.tile t).engParked.filter fun c => c.parkedOf k).length).sum
  let pf := ((s.run? k).map fun r => r.prefParked.length).getD 0
  let s := rs.foldl State.resubmit s
  let s := (s.region k).foldl (State.requeue k) s
  (rs.length + cmds + pf, s.modRun k fun r => { r with prefParked := [] })

/-- Every inbound port of a tile delivers what it holds. -/
def State.deliverAll (s : State) (t : Nat) : State :=
  (s.tile t).ports.foldl (fun s p =>
    if p.1 < 16 then (List.range p.2.beats.length).foldl (fun s _ => s.deliver t p.1) s else s) s

/-- A node of a task on a tile is trapped. -/
def State.anyTrapped (s : State) (k t : Nat) : Bool := s.nodes.any fun x => tileOfPe (x.1 / 1024) == t && x.2.task == k && x.2.trapped

/-- The stopped ports of a task on a tile resume. -/
def State.resumePorts (s : State) (k t : Nat) : State :=
  (s.modTile t fun x =>
    { x with ports := x.ports.map fun (i, p) => (i, if p.task = k then { p with stop := false } else p) }).deliverAll t

/-- A trapped node resumes: the firings that waited become ready in their order (R436). -/
def State.replayNode (s : State) (k t pe num : Nat) : Bool × State :=
  let slot := s.nodeKey k (16 * t + pe) num
  match s.element? slot with
  | some x =>
      if x.trapped && x.task == k then
        let s := s.modElement slot fun y => { y with trapped := false, held := [] }
        let s := s.modPe (16 * t + pe) fun p => { p with ready := x.held.foldl (fun l f => insertReady f l) p.ready }
        (true, if s.anyTrapped k t then s else s.resumePorts k t)
      else (false, s)
  | none => (false, s)

/-- REPLAY (R450). -/
def execReplay (o : AR) (s : State) : Out :=
  let a := s.greg o.a
  let own := s.myTask.getD 0
  if o.f.getLsbD 0 then
    let r := s.replayNode own s.myTile (a.extractLsb' 0 4).toNat (a.extractLsb' 4 10).toNat
    ok (r.2.result o.d (if r.1 then 1 else 0))
  else
    let mine := decide (a = 0 ∨ a = s.instanceId own)
    if !mine && !s.privileged s.cur.th then ok (s.trap cAccessFault a)
    else
      match (if mine then some own else s.taskById a) with
      | none => ok (s.result o.d 0)
      | some k =>
          if (s.parkedOps k).any s.resubmitHolds then ok s.hold
          else
            let r := s.replayPark k
            ok (r.2.result o.d (BitVec.ofNat 64 r.1))

end Sys2Proof.Machine
end

