-- ==== Sys2Proof/Machine/Image.lean ====
section
/-! DEFINITION. The bytes of a save area and what they stand for (15_system_class.md R442; 08_token_class.md R202, R234). The
sections and their order are the spec's, and so are the layouts of node records, waiting entries and granules; where fields lie in a
block's opening and in the other sections is the model's choice (log 13). -/

namespace Sys2Proof.Machine

/-! ## Pieces -/

/-- Zero bytes up to a multiple of 64. -/
def pad64 (bs : List Byte) : List Byte := bs ++ List.replicate ((64 - bs.length % 64) % 64) 0

/-- A list cut into pieces of given lengths. -/
def splitLens : List Nat → List Byte → List (List Byte)
  | [], _ => []
  | n :: ns, bs => bs.take n :: splitLens ns (bs.drop n)

/-- n bytes of a sparse memory, and back. -/
def denseBytes (m : List (Nat × Byte)) (n : Nat) : List Byte :=
  (List.range n).map fun i => ((m.find? fun c => c.1 == i).map (·.2)).getD 0

def sparseBytes (bs : List Byte) : List (Nat × Byte) := ((List.range bs.length).zip bs).filter fun c => c.2 != 0

/-- The state bits of a buffer tile's words, two for each, and back. -/
def codeBytes (cs : List (Nat × Nat)) : List Byte :=
  (List.range 131072).map fun i => BitVec.ofNat 8 ((List.range 4).map fun j =>
    ((cs.find? fun c => c.1 == 8 * (4 * i + j)).map (·.2)).getD sPlain * 4 ^ j).sum

def bytesCodes (bs : List Byte) : List (Nat × Nat) :=
  ((List.range bs.length).zip bs).flatMap fun x => (List.range 4).filterMap fun j =>
    let c := x.2.toNat / 4 ^ j % 4
    if c = sPlain then none else some (8 * (4 * x.1 + j), c)

def wordBytes (ws : List Word) : List Byte := ws.flatMap fun w => natToBytes 8 w.toNat

/-- Registers a map holds, from a number on. -/
def mapWords (m : SMap Word) (lo n : Nat) : List Word := (List.range n).map fun i => mapGet 0 m (lo + i)

def wordsMap (ws : List Word) (lo : Nat) : SMap Word :=
  ((List.range ws.length).zip ws).foldl (fun m x => wordPut (lo + x.1) x.2 m) []

/-! ## Threads -/

/-- The 512 bytes of a thread: g1 to g31, h0 to h7, p1 to p7, PC, running flag. -/
def Thread.regBytes (t : Thread) : List Byte :=
  padTo 512 (wordBytes (mapWords t.g 1 31 ++ mapWords t.h 0 8) ++ [t.p] ++ natToBytes 8 t.pc.toNat ++ [if t.running then 1 else 0])

def Thread.ofRegBytes (t : Thread) (bs : List Byte) : Thread :=
  { t with g := wordsMap (wordsOfBytes bs 31) 1, h := wordsMap (wordsOfBytes (bs.drop 248) 8) 0, p := bs.getD 312 0 &&& 0xFE,
           pc := BitVec.ofNat 64 (bytesToNat ((bs.drop 313).take 8)) &&& ~~~(7 : Word), running := (bs.getD 321 0).getLsbD 0 }

/-- The other registers of a thread, in the order of R442. -/
def Thread.sysWords (t : Thread) : List Word :=
  [t.round, t.excmode, t.trapcause, t.trappc, t.trapval, t.trapvec, t.trapscr, t.uivec, t.uistat] ++ mapWords t.uitgt 0 4 ++
    mapWords t.tlDone 0 4 ++ mapWords t.err 0 4 ++ [t.vocab, t.padlo, t.padhi, t.sxlmin, t.sxlmax]

/-- The fields of an engine's error register: the reserved ones read zero (R9, R159, R187, R273). -/
def errMask (e : Nat) : Word := if e = 1 then 0xFFFFFFFF0001FFFF else if e = 2 then 0xFFFFF00F0001FFFF else 0xFFFFFFFFFFF1FFFF

/-- The registers as the words of an area give them: reserved fields stay zero (R9), FTZ stays the task type's, and a field whose
layout refuses a value keeps what it had (R110, R403). -/
def Thread.ofSysWords (t : Thread) (ws : List Word) : Thread :=
  let w (i : Nat) : Word := ws.getD i 0
  let flags : Word := 0x3F0000
  { t with round := w 0 &&& 7, excmode := excmodeWrite (t.excmode &&& ~~~flags) (w 1 &&& ~~~flags) ||| (w 1 &&& flags),
           trapcause := w 2 &&& 0x7F07FFFF, trappc := w 3 &&& ~~~(7 : Word), trapval := w 4, trapvec := w 5 &&& ~~~(6 : Word),
           trapscr := w 6, uivec := w 7 &&& ~~~(6 : Word), uistat := w 8 &&& 0xFF, uitgt := wordsMap ((ws.drop 9).take 4) 0,
           tlDone := wordsMap ((ws.drop 13).take 4) 0,
           err := wordsMap ((List.range 4).map fun e => w (17 + e) &&& errMask e) 0, vocab := w 21 &&& 0xFFFFFFFF,
           padlo := w 22 &&& 0xFFFFFFFF, padhi := w 23 &&& 0xFFFFFFFF, sxlmin := lengthWrite t.sxlmin (w 24),
           sxlmax := lengthWrite t.sxlmax (w 25) }

/-- Words of a thread's other registers. -/
def sysCount : Nat := 26

/-! ## A tile's block -/

/-- The node record of PE e and number v, at 16 * (16 * v + e) of the section (R366). -/
def SavedTile.nodeRaw (x : SavedTile) (e v : Nat) : BitVec 128 :=
  ((x.nodes.find? fun n => n.1 == e && n.2.1 == v).map fun n => n.2.2.raw).getD 0

/-- The node number of a slot, from the block's own base. -/
def SavedTile.rel (x : SavedTile) (slot : Nat) : Nat := slot % 1024 - x.tile.nodeBase

/-- An entry's slot with another kind (R442). -/
def withKind (kind : Nat) (bs : List Byte) : List Byte :=
  bs.take 10 ++ [BitVec.ofNat 8 ((bs.getD 10 0).toNat % 32 + kind * 32)] ++ bs.drop 11

/-- A ready firing as operand entries marked ready, one for each port that has words (R234). -/
def readySlots (rel : Nat) (f : Firing) : List (List Byte) :=
  ([(0, f.l), (1, f.r), (2, f.c)].filter fun x => x.1 == 0 || !x.2.isEmpty).map fun x =>
    withKind 6 (slotBytes rel f.pe { kind := .operand, slot := f.slot, port := x.1, tag := f.tag, words := x.2, seq := f.seq, cycle := 0,
                                     level := .frame, set := 0, bucket := 0, pos := 0, task := f.task })

/-- Waiting entries, then ready firings, then deep-lookup pieces of a PE. -/
def SavedTile.peSlots (x : SavedTile) (pe : Nat) (p : Pe) : List (List Byte) :=
  (p.entries.map fun e => slotBytes (x.rel e.slot) pe e) ++ (p.ready.flatMap fun f => readySlots (x.rel f.slot) f) ++
    p.deep.map fun d => withKind 7 (slotBytes (x.rel d.slot) pe (d.entry 0))

/-- A port: its key, delivered count, credits, ring, the words of its head token already written, and the beats it holds. -/
def portBytes (p : Nat × Port) : List Byte :=
  natToBytes 4 p.1 ++ natToBytes 4 p.2.deliv ++ natToBytes 4 p.2.credits ++ natToBytes 4 p.2.part ++
    (match p.2.ring with
      | some (th, w, n) => natToBytes 8 (1 + numOfThread th * 256) ++ natToBytes 8 w.toNat ++ natToBytes 8 n
      | none => List.replicate 24 0) ++
    natToBytes 4 p.2.beats.length ++ p.2.beats.flatMap fun b => natToBytes 16 b.toNat

/-- The queues of a token-FIFO tile. -/
def SavedTile.fifoBytes (x : SavedTile) : List Byte :=
  (x.ports.filter fun p => p.1 < 16).flatMap fun p => natToBytes 4 p.1 ++ natToBytes 4 p.2.fifo.length ++ p.2.fifo.flatMap fun b => natToBytes 16 b.toNat

/-- SCRATCH and ACC granules of a compute tile, a buffer tile's SRAM, with the state bits behind it, a token FIFO's queues. -/
def SavedTile.memBytes (x : SavedTile) (type : List Word) : List Byte :=
  match x.kind with
  | 0 => denseBytes x.mem ((typeScratch type + typeAcc type) * 65536)
  | 1 => denseBytes x.mem 0x400000 ++ codeBytes x.sstate
  | 2 => x.fifoBytes
  | _ => []

/-- A scope entry of the task. -/
def scopeBytes (x : Nat × ScopeEntry) : List Byte :=
  [BitVec.ofNat 8 x.1, if x.2.live then 1 else 0, BitVec.ofNat 8 x.2.gen, BitVec.ofNat 8 x.2.image.length] ++ x.2.image ++
    x.2.mods.flatMap fun m => natToBytes 2 m

/-- The task's state on the tile. -/
def SavedTile.taskBytes (x : SavedTile) : List Byte :=
  wordBytes (mapWords x.tile.shapes 0 8) ++ natToBytes 4 x.tile.scopes.length ++ x.tile.scopes.flatMap scopeBytes ++
    wordBytes [x.tile.missring, x.tile.ntrapctl] ++ natToBytes 4 x.ctx.length ++ (x.ctx.flatMap fun c => natToBytes 2 c) ++
    natToBytes 4 x.reqs.length ++ x.reqs.flatMap fun r => wordBytes [r.va, r.pc]

/-- The sections of a block in the order of R442; those of class G alone are empty in class S. -/
def SavedTile.sections (type : List Word) (classS : Bool) (x : SavedTile) : List (List Byte) :=
  let g (bs : List Byte) : List Byte := if classS then [] else bs
  let pes := (List.range 16).zip x.pes
  [ g (if x.kind = 0 then (List.range (16 * typeNodes type)).flatMap fun i => natToBytes 16 (x.nodeRaw (i % 16) (i / 16)).toNat else []),
    g ((pes.flatMap fun p => x.peSlots p.1 p.2).flatten),
    g (pes.flatMap fun p => padTo 4 (p.2.weights.map fun w => BitVec.ofNat 8 w) ++ natToBytes 4 (p.2.fires % 256)),
    g (x.ports.flatMap portBytes),
    x.memBytes type,
    g (x.threads.flatMap Thread.regBytes),
    x.threads.flatMap fun t => wordBytes t.sysWords,
    x.taskBytes ]

/-- A block: 64 bytes with the offset, the kind and the length, then the sections. -/
def SavedTile.block (type : List Word) (classS : Bool) (x : SavedTile) : List Byte :=
  let body := pad64 (x.sections type classS).flatten
  padTo 64 ([BitVec.ofNat 8 x.off.1, BitVec.ofNat 8 x.off.2, BitVec.ofNat 8 x.kind, 0] ++ natToBytes 4 (1 + body.length / 64)) ++ body

/-! ## What a block's bytes give instead of what was saved

Each section is read over what was saved, piece by piece in its place; `none` where a piece cannot stand there (log 13). -/

/-- The words of an entry's payload, as wide as those it had. -/
def slotWords (old : List TWord) (bs : List Byte) : List TWord :=
  match old with
  | [] => []
  | o :: _ =>
      let n := if o.wide then 8 else 4
      (List.range (min ((bs.getD 10 0).toNat % 32 + 1) (128 / n))).map fun i =>
        { w := BitVec.ofNat 64 (imageField bs (16 + n * i) n), p := (imageField bs 12 4).testBit i, n := (bs.getD 11 0).getLsbD 0,
          wide := o.wide }

/-- The kind fields of an entry, bytes 152 to 255, over its kind; `ws` is its payload. -/
def WKind.ofBytes (k : WKind) (bs : List Byte) (ws : List TWord) : WKind :=
  let a := imageField bs 152 4
  let b := imageField bs 156 8
  match k with
  | .loop _ _ _ =>
      .loop a ((List.range 64).filter fun i => b.testBit i) (if imageField bs 164 1 % 2 = 1 then some (imageField bs 168 4) else none)
  | .linkage _ _ => .linkage (BitVec.ofNat 64 (imageField bs 152 8)) (BitVec.ofNat 16 (imageField bs 160 2))
  | .count _ _ acc p => .count a b acc p
  | .heldE es =>
      .heldE (((List.range es.length).zip es).map fun e => if e.1 < 2 then (e.2.1, imageField bs (156 + 4 * e.1) 4, e.2.2.2) else e.2)
  | .commit _ _ xs e => .commit a b ((xs.zip ws).map fun x => (x.1.1, x.2, x.1.2.2)) e
  | .gathered xs e => .gathered ((xs.zip ws).map fun x => (x.1.1, x.2)) (e.map fun y => (b, y.2))
  | .callWait f n =>
      .callWait { f with tag := BitVec.ofNat 64 (imageField bs 152 8), l := ws.take f.l.length, r := ws.drop f.l.length } n
  | k => k

/-- The node a slot names, on the same PE (R202). -/
def SavedTile.slotNode (x : SavedTile) (slot : Nat) (bs : List Byte) : Option Nat :=
  let addr := imageField bs 8 2
  if addr / 4096 = slot / 1024 % 16 then some (slot / 1024 * 1024 + x.tile.nodeBase + addr / 4 % 1024) else none

/-- A waiting entry's slot; freed where its kind is 000. -/
def SavedTile.readSlot (x : SavedTile) (y : WEntry × List Byte) : Option (List WEntry) :=
  let e := y.1
  let bs := y.2
  let kind := (bs.getD 10 0).toNat / 32
  if kind = 0 then some []
  else if kind ≠ e.kind.code then none
  else
    let ws := slotWords e.payload bs
    (x.slotNode e.slot bs).map fun slot =>
      [{ e with slot := slot, port := imageField bs 8 2 % 4, tag := BitVec.ofNat 64 (imageField bs 0 8), seq := imageField bs 144 8,
                words := (if e.words = [] then [] else ws), kind := e.kind.ofBytes bs ws }]

/-- A ready firing's slots, one for each port that has words. -/
def SavedTile.readReady (x : SavedTile) (f : Firing) (ss : List (List Byte)) : Option (List Firing) :=
  match ss with
  | [] => none
  | bs :: rest =>
      if (ss.any fun b => (b.getD 10 0).toNat / 32 == 0) then some []
      else if !(ss.all fun b => (b.getD 10 0).toNat / 32 == 6) then none
      else
        let r := if f.r = [] then [] else slotWords f.r (rest.getD 0 [])
        let c := if f.c = [] then [] else slotWords f.c (rest.getLastD [])
        (x.slotNode f.slot bs).map fun slot =>
          [{ f with slot := slot, tag := BitVec.ofNat 64 (imageField bs 0 8), seq := imageField bs 144 8, l := slotWords f.l bs, r := r,
                    c := c }]

/-- The slots of the ready firings, in turn. -/
def SavedTile.readReadies (x : SavedTile) : List Firing → List (List Byte) → Option (List Firing)
  | [], _ => some []
  | f :: fs, ss =>
      let n := (readySlots 0 f).length
      match x.readReady f (ss.take n), x.readReadies fs (ss.drop n) with
      | some a, some b => some (a ++ b)
      | _, _ => none

/-- A deep-lookup piece's slot. -/
def SavedTile.readDeep (x : SavedTile) (y : DeepPiece × List Byte) : Option (List DeepPiece) :=
  let d := y.1
  let bs := y.2
  let kind := (bs.getD 10 0).toNat / 32
  if kind = 0 then some []
  else if kind ≠ 7 then none
  else
    (x.slotNode d.slot bs).map fun slot =>
      [{ d with slot := slot, seq := imageField bs 144 8,
                tok := { d.tok with tag := BitVec.ofNat 64 (imageField bs 0 8), words := slotWords d.tok.words bs } }]

/-- A PE's slots. -/
def SavedTile.readPe (x : SavedTile) (p : Pe) (ss : List (List Byte)) : Option Pe :=
  let n := p.entries.length
  let m := (p.ready.flatMap (readySlots 0)).length
  match (p.entries.zip ss).mapM x.readSlot, x.readReadies p.ready (ss.drop n), (p.deep.zip (ss.drop (n + m))).mapM x.readDeep with
  | some es, some fs, some ds => some { p with entries := es.flatten, ready := fs, deep := ds.flatten }
  | _, _, _ => none

/-- The slots of every PE, then the weights and firing counts. -/
def SavedTile.readPes (x : SavedTile) (es ws : List Byte) : Option (List Pe) :=
  let slots := splitLens (List.replicate (es.length / 256) 256) es
  let counts := ((List.range 16).zip x.pes).map fun p => (x.peSlots p.1 p.2).length
  let from_ (i : Nat) : Nat := (counts.take i).sum
  (((List.range 16).zip x.pes).mapM fun p => x.readPe p.2 ((slots.drop (from_ p.1)).take (counts.getD p.1 0))).map fun ps =>
    ((List.range 16).zip ps).map fun p =>
      let bs := ws.drop (8 * p.1)
      { p.2 with weights := (bs.take p.2.weights.length).map BitVec.toNat, fires := imageField bs 4 4 % 256 }

/-- Beats of 16 bytes. -/
def bytesBeats (bs : List Byte) (n : Nat) : List Beat := (List.range n).map fun i => BitVec.ofNat 128 (imageField bs (16 * i) 16)

/-- A port's bytes: it holds as many beats as it did, or fewer. -/
def readPort (p : Nat × Port) (bs : List Byte) : Option (Nat × Port) :=
  let n := imageField bs 40 4
  if imageField bs 0 4 ≠ p.1 ∨ p.2.beats.length < n then none
  else
    let th := imageField bs 16 8
    some (p.1, { p.2 with
      deliv := imageField bs 4 4, credits := imageField bs 8 4, part := imageField bs 12 4,
      ring := if th % 2 = 1 then some (th / 256 % 8, BitVec.ofNat 64 (imageField bs 24 8), imageField bs 32 8) else none,
      beats := bytesBeats (bs.drop 44) n })

/-- The queue of a port of a token FIFO. -/
def readQueue (p : Nat × Port) (bs : List Byte) : Option (Nat × Port) :=
  let n := imageField bs 4 4
  if imageField bs 0 4 ≠ p.1 ∨ p.2.fifo.length < n then none else some (p.1, { p.2 with fifo := bytesBeats (bs.drop 8) n })

/-- Pieces of a section that follow each other. -/
def readAll {α : Type} (len : α → Nat) (rd : α → List Byte → Option α) : List α → List Byte → Option (List α)
  | [], _ => some []
  | x :: xs, bs =>
      match rd x bs, readAll len rd xs (bs.drop (len x)) with
      | some y, some ys => some (y :: ys)
      | _, _ => none

def readScope (x : Nat × ScopeEntry) (bs : List Byte) : Option (Nat × ScopeEntry) :=
  let n := x.2.image.length
  if imageField bs 0 1 ≠ x.1 ∨ imageField bs 3 1 ≠ n then none
  else
    some (x.1, { x.2 with live := (bs.getD 1 0).getLsbD 0, gen := imageField bs 2 1, image := (bs.drop 4).take n,
                          mods := (List.range x.2.mods.length).map fun i => imageField bs (4 + n + 2 * i) 2 })

/-- The task's state on the tile; reserved fields of its registers stay zero (R9). -/
def SavedTile.readTask (x : SavedTile) (bs : List Byte) : Option SavedTile :=
  let shapes := (wordsOfBytes bs 8).map fun w => w &&& 0x80000FFFFFF7FFFF
  let scopes := (x.tile.scopes.map fun y => (scopeBytes y).length).sum
  let ms := bs.drop (68 + scopes)
  let rs := ms.drop (20 + 2 * x.ctx.length)
  let req (r : Req) (bs : List Byte) : Option Req :=
    some { r with va := BitVec.ofNat 64 (imageField bs 0 8), pc := BitVec.ofNat 64 (imageField bs 8 8) }
  match readAll (fun y => (scopeBytes y).length) readScope x.tile.scopes (bs.drop 68), readAll (fun _ => 16) req x.reqs (rs.drop 4) with
  | some sc, some reqs =>
      if imageField bs 64 4 ≠ x.tile.scopes.length ∨ imageField ms 16 4 ≠ x.ctx.length ∨ imageField rs 0 4 ≠ x.reqs.length then none
      else
        some { x with reqs := reqs, ctx := (List.range x.ctx.length).map fun i => imageField ms (20 + 2 * i) 2,
                      tile := { x.tile with shapes := wordsMap shapes 0, scopes := sc,
                                            missring := BitVec.ofNat 64 (imageField ms 0 8) &&& 0x1FFFFFFF,
                                            ntrapctl := BitVec.ofNat 64 (imageField ms 8 8) &&& 0x1FFFFFF } }
  | _, _ => none

/-- The block as its bytes give it. -/
def SavedTile.overlay (type : List Word) (classS : Bool) (bs : List Byte) (x : SavedTile) : Option SavedTile :=
  match splitLens ((x.sections type classS).map List.length) (bs.drop 64) with
  | [ns, es, ws, ps, ms, ts, rs, ks] =>
      let raw (n : Nat × Nat × NodeSlot) : NodeSlot :=
        { n.2.2 with raw := BitVec.ofNat 128 (bytesToNat ((ns.drop (16 * (16 * n.2.1 + n.1))).take 16)) }
      let th (i : Nat) (t : Thread) : Thread :=
        (if classS then t else t.ofRegBytes (ts.drop (512 * i))).ofSysWords (wordsOfBytes (rs.drop (8 * sysCount * i)) sysCount)
      let queues := x.ports.filter fun p => p.1 < 16
      let pes := if classS then some x.pes else x.readPes es ws
      let ports := if classS then some x.ports else readAll (fun p => (portBytes p).length) readPort x.ports ps
      let fifos := if x.kind = 2 then readAll (fun p => 8 + 16 * p.2.fifo.length) readQueue queues ms else some []
      match pes, ports, fifos, x.readTask ks with
      | some pes, some ports, some fifos, some y =>
          if bs.take 64 ≠ (x.block type classS).take 64 then none
          else some
            { y with nodes := if classS || x.kind != 0 then x.nodes else x.nodes.map fun n => (n.1, n.2.1, raw n), pes := pes,
                     ports := ports.map fun p => match fifos.find? fun q => q.1 == p.1 with
                       | some q => (p.1, { p.2 with fifo := q.2.fifo })
                       | none => p,
                     mem := if x.kind < 2 then sparseBytes (if x.kind = 0 then ms else ms.take 0x400000) else x.mem,
                     sstate := if x.kind = 1 then bytesCodes (ms.drop 0x400000) else x.sstate,
                     threads := ((List.range x.threads.length).zip x.threads).map fun t => th t.1 t.2 }
      | _, _, _, _ => none
  | _ => none

/-! ## The area -/

/-- The bytes of an area from byte 24 on. -/
def Saved.tail (x : Saved) : List Byte :=
  natToBytes 8 x.inst.toNat ++ x.task.bytes ++ (List.range 8).flatMap (fun i => natToBytes 8 (x.type.getD i 0).toNat) ++
    natToBytes 2 x.tiles.length ++ [if x.classS then 1 else 0] ++ List.replicate 93 0 ++ x.tiles.flatMap (SavedTile.block x.type x.classS)

/-- The tile blocks as the bytes of an area's blocks give them. -/
def overlayTiles (type : List Word) (classS : Bool) : List SavedTile → List Byte → Option (List SavedTile)
  | [], _ => some []
  | x :: xs, bs =>
      match x.overlay type classS bs, overlayTiles type classS xs (bs.drop (x.block type classS).length) with
      | some y, some ys => some (y :: ys)
      | _, _ => none

/-- An image as an area's bytes change it: header and blocks as long as they were, of the same type and class. -/
def Saved.overlay (x : Saved) (area : List Byte) : Option Saved :=
  if area.length ≠ 24 + x.tail.length ∨ (area.drop 96).take 67 ≠ (x.tail.drop 72).take 67 then none
  else (overlayTiles x.type x.classS x.tiles (area.drop 256)).map fun ts => { x with tiles := ts }

/-- The image that an area holds: one that was saved for its task, unchanged, or else as the area's bytes change the last one; the
task record in the area is not read. -/
def State.imageOf (s : State) (area : List Byte) : Option Saved :=
  let mine := s.images.filter fun x => x.inst.toNat == imageField area 24 8
  match mine.find? fun x => x.tail.drop 72 == area.drop 96 with
  | some x => some x
  | none => mine.findSome? fun x => x.overlay area

end Sys2Proof.Machine
end

