-- ==== Sys2Proof/Machine/Preempt.lean ====
section
/-! DEFINITION. Pre-emption: class G and class S saves, their timeouts, the restore (15_system_class.md R439-R443, R447;
08_token_class.md R234). -/

namespace Sys2Proof.Machine

/-! ## Requests for a save or a restore (R447) -/

/-- A task may be pre-empted now (R439). -/
def State.mayPreempt (s : State) (k : Nat) : Bool :=
  ((s.record? k).map TaskRec.state) == some 5 && ((s.run? k).map fun r => !r.saving && !r.stopping).getD false

/-- A save is accepted. -/
def State.acceptSave (s : State) (k die asid area : Nat) (journal : Option (Nat × Nat)) : State :=
  (s.modRun k fun r => { r with saving := true }).modDie (dieOfTask k) fun d =>
    { d with saves := d.saves ++ [{ task := k, phase := 0, die := die, asid := asid, area := area, start := 0, journal := journal }] }

/-- A task has been saved and released, and no restore of it is under way. -/
def State.savedOut (s : State) (k : Nat) : Bool :=
  ((s.record? k).map TaskRec.state) == some 5 && ((s.run? k).map (·.saving)).getD false &&
    !((s.die (dieOfTask k)).saves.any fun j => j.task == k) && !((s.die (dieOfTask k)).loads.any fun j => j.task == k)

/-- A restore is accepted: it runs at the dispatcher of the die its anchor names. -/
def State.acceptLoad (s : State) (k onto die asid area ax ay : Nat) (journal : Option (Nat × Nat)) : State :=
  s.modDie onto fun d =>
    { d with loads := d.loads ++ [{ task := k, die := die, asid := asid, area := area, ax := ax, ay := ay, journal := journal }] }

/-- CTXSAVE (R447). -/
def execCtxsave (o : AR) (s : State) : Out :=
  let a := s.greg o.a
  let b := s.greg o.b
  if !s.privileged s.cur.th then ok (s.trap cAccessFault a)
  else if b.toNat % 4096 ≠ 0 ∨ b.extractLsb' 56 8 ≠ 0 then ok (s.trap cIllegalDesc b)
  else
    match s.taskById a with
    | none => ok (s.result o.d 0)
    | some k =>
        if s.mayPreempt k && s.myTask != some k && moduleOfDie (dieOfTask k) == moduleOfDie s.myDie then
          ok ((s.acceptSave k s.myDie s.myAsid b.toNat none).result o.d 1)
        else ok (s.result o.d 0)

/-- The task whose image an area holds. -/
def State.areaTask (s : State) (die asid area : Nat) : Option Nat :=
  match s.readVirt die asid (area + 24) 8 with
  | .ok bs => s.taskById (BitVec.ofNat 64 (bytesToNat bs))
  | .error _ => none

/-- CTXLOAD (R447). -/
def execCtxload (o : AR) (s : State) : Out :=
  let a := s.greg o.a
  let b := s.greg o.b
  if !s.privileged s.cur.th then ok (s.trap cAccessFault a)
  else if a.toNat % 4096 ≠ 0 ∨ a.extractLsb' 56 8 ≠ 0 then ok (s.trap cIllegalDesc a)
  else if b.extractLsb' 12 52 ≠ 0 then ok (s.trap cIllegalDesc b)
  else
    match s.areaTask s.myDie s.myAsid a.toNat with
    | none => ok (s.result o.d 0)
    | some k =>
        if s.savedOut k && s.myTask != some k then
          let onto := moduleOfDie s.myDie * 16 + (b.extractLsb' 8 4).toNat
          ok ((s.acceptLoad k onto s.myDie s.myAsid a.toNat (b.extractLsb' 0 4).toNat (b.extractLsb' 4 4).toNat none).result o.d 1)
        else ok (s.result o.d 0)

/-! ## Status words (R442) -/

/-- Write 4 bytes of the header; a fault leaves them. -/
def State.areaStatus (s : State) (die asid area off v : Nat) : State :=
  match s.writeVirt die asid (area + off) (natToBytes 4 v) with
  | .ok s => s
  | .error _ => s

/-- The journal entry that asked is over; the spec states no status for it. -/
def State.jobDone (s : State) (journal : Option (Nat × Nat)) (st : Nat) : State :=
  match journal with
  | some (m, seq) => s.journalState m seq st (Config.freeNat s.tick 20) none
  | none => s

/-- A save is over with a status. -/
def State.endSave (s : State) (j : SaveJob) (stat : Nat) : State :=
  ((s.areaStatus j.die j.asid j.area 12 stat).modDie (dieOfTask j.task) fun d =>
    { d with saves := d.saves.filter fun x => x.task != j.task }).jobDone j.journal 4

/-! ## Waiting and draining (R440, R441) -/

/-- Every tile of the task's region has its clock (R443). -/
def State.regionRuns (s : State) (k : Nat) : Bool := (s.region k).all fun t => !s.stopped t

/-- A circuit with an end in the task still has beats on its way. -/
def State.wireBusy (s : State) (k : Nat) : Bool :=
  s.circuits.any fun c => s.beatsOut c.1 c.2 &&
    (((s.port? c.2.src.1 c.2.src.2).map (·.task)) == some k || ((s.port? c.2.dst.1 c.2.dst.2).map (·.task)) == some k)

/-- A token packet of one of the task's contexts is on its way to a tile of its region. -/
def State.tokenBusy (s : State) (k : Nat) : Bool :=
  s.net.any fun p => match p.body with
    | .token _ t x => (s.region k).contains t && s.ctxTask t (ctxOf x.tag) == some k
    | _ => false

/-- Every outstanding request of the task is answered or parked, engines, updates, fences and tokens on their way are done. -/
def State.saveDrained (s : State) (k : Nat) : Bool :=
  !(s.reqs.any fun r => r.task == k && r.stage != .parked) && !((s.die (dieOfTask k)).updates.any fun u => u.task == k) &&
    !s.wireBusy k && !s.tokenBusy k &&
    (s.region k).all fun t =>
      !s.commandsOf k t && !((s.tile t).fences.any fun n => n.fir.task == k) && !((s.tile t).marks.any fun m => m.1 == k)

/-- Open packer runs of a task on a PE. -/
def State.openRuns (s : State) (k pe : Nat) : List Packer :=
  (s.pe pe).packers.filter fun q => s.ctxTask (tileOfPe pe) (ctxOf q.tok.tag) == some k

def State.regionPes (s : State) (k : Nat) : List Nat := (s.region k).flatMap fun t => (List.range 16).map fun e => 16 * t + e

/-- Emit every open packer run of a task (R440). -/
def State.flushRuns (s : State) (k : Nat) : State :=
  (s.regionPes k).foldl (fun s pe => (s.openRuns k pe).foldl (fun s q => s.flushTo pe q.tok.dest q.remote) s) s

/-- The threads of a task. -/
def State.taskThreads (s : State) (k : Nat) : List Nat := (s.region k).flatMap fun t => s.allotted k t

/-- A request of the task is held at its region (R321, R351, R406). -/
def Req.heldAtRegion (r : Req) : Bool :=
  match r.stage, r.op with
  | .queued, .bar _ _ | .queued, .barwait _ | .queued, .atomic _ | .queued, .sxprop _ _ _ | .region, .sxprop _ _ _ => true
  | _, _ => false

/-! ## The image (R442) -/

/-- Offset of a tile from the anchor. -/
def TaskRec.offset (r : TaskRec) (t : Nat) : Nat × Nat := (tileX t - r.ax, tileY t - r.ay)

/-- The memory of a task on a tile: SCRATCH and ACC bytes from the first granule, or the SRAM of a buffer tile. -/
def State.saveMem (s : State) (k t : Nat) : List (Nat × Byte) :=
  let type := s.taskType k
  if isMemTile t then
    if (s.tile t).mrole = 0 then s.cells.filterMap fun c => if sramKey t 0 ≤ c.1 ∧ c.1 < sramKey t 0 + 0x400000 then some (c.1 - sramKey t 0, c.2) else none
    else []
  else
    let lo := s.scratchBase k t
    let hi := lo + (typeScratch type + typeAcc type) * 0x10000
    s.cells.filterMap fun c => match s.poolAddr? t c.1 with
      | some a => if lo ≤ a ∧ a < hi then some (a - lo, c.2) else none
      | none => none

/-- Poisoned words of that memory, by their address. -/
def State.saveEcc (s : State) (k t : Nat) : List Nat :=
  let type := s.taskType k
  s.ecc.filterMap fun w =>
    if isMemTile t then
      if (s.tile t).mrole = 0 ∧ sramKey t 0 ≤ 8 * w ∧ 8 * w < sramKey t 0 + 0x400000 then some (8 * w - sramKey t 0) else none
    else
      match s.poolAddr? t (8 * w) with
      | some a =>
          if s.scratchBase k t ≤ a ∧ a < s.scratchBase k t + (typeScratch type + typeAcc type) * 0x10000 then some (a - s.scratchBase k t)
          else none
      | none => none

/-- State codes of a buffer tile's words. -/
def State.saveCodes (s : State) (t : Nat) : List (Nat × Nat) :=
  if isMemTile t && (s.tile t).mrole == 0 then
    s.sstate.filterMap fun x => if sramKey t 0 ≤ 8 * x.1 ∧ 8 * x.1 < sramKey t 0 + 0x400000 then some (8 * x.1 - sramKey t 0, x.2) else none
  else []

/-- What a PE holds of a task. -/
def State.savePe (s : State) (k pe : Nat) : Pe :=
  let p := s.pe pe
  { p with input := p.input.filter fun i => s.ctxTask (tileOfPe pe) (ctxOf i.tok.tag) == some k,
           entries := p.entries.filter fun e => e.task == k, deep := p.deep.filter fun d => d.task == k,
           ready := p.ready.filter fun f => f.task == k, passing := [], packers := [] }

/-- A tile's block. -/
def State.saveTile (s : State) (k : Nat) (r : TaskRec) (t : Nat) : SavedTile :=
  { off := r.offset t, kind := if isMemTile t then 1 + (s.tile t).mrole else 0,
    nodes := (s.nodes.filter fun x => x.2.task == k && tileOfPe (x.1 / 1024) == t).map fun x =>
      (x.1 / 1024 % 16, s.relNode k x.1, x.2),
    pes := (List.range 16).map fun e => s.savePe k (16 * t + e),
    ports := (s.tile t).ports.filter fun p => p.2.task == k,
    mem := s.saveMem k t, sstate := s.saveCodes t, ecc := s.saveEcc k t, threads := (s.allotted k t).map s.thread,
    tile := s.taskTile k t, ctx := s.ctxHeld k t,
    reqs := s.reqs.filter fun q => q.task == k && q.tile == t && q.stage == .parked,
    waves := (s.tile t).waves.filter fun w => w.task == k, cmds := (s.tile t).engParked.filter fun c => c.task == k }

/-- The header's first 12 bytes: version, length, CRC over the area with bytes 8 to 23 zero. -/
def imageHead (tail : List Byte) : List Byte :=
  let h := natToBytes 4 1 ++ natToBytes 4 ((tail.length + 24) / 64)
  h ++ natToBytes 4 (crc32c (h ++ List.replicate 16 0 ++ tail)).toNat

/-! ## Release after a save (R440 step 4) -/

/-- The contexts a task holds on a tile are freed, and what its PEs hold of the task goes. -/
def State.leaveTile (k : Nat) (s : State) (t : Nat) : State :=
  let cs := s.ctxHeld k t
  let drop (p : Pe) : Pe := { p.without k cs with input := p.input.filter fun i => !cs.contains (ctxOf i.tok.tag) }
  let s := (List.range 16).foldl (fun s e => s.modPe (16 * t + e) drop) s
  let s := cs.foldl (fun s c => s.releaseCtx t c) s
  s.modTile t fun x =>
    { x with waves := x.waves.filter fun w => w.task != k, engParked := x.engParked.filter fun c => c.task != k }

/-- Circuits into the task from other tasks hold their beats for want of credit until a restore routes them again. -/
def State.unhook (s : State) (k : Nat) : State :=
  let into_ := s.circuits.filter fun c =>
    ((s.port? c.2.dst.1 c.2.dst.2).map (·.task)) == some k && ((s.port? c.2.src.1 c.2.src.2).map (·.task)) != some k
  let cut (s : State) (c : Nat × Circuit) : State := match s.port? c.2.src.1 c.2.src.2 with
    | some p => s.setPort c.2.src.1 c.2.src.2 { p with circuit := none, credits := 0 }
    | none => s
  let s := into_.foldl cut s
  { s with circuits := s.circuits.filter fun (c : Nat × Circuit) => !(into_.map (·.1)).contains c.1 }

/-- The ports of a saved task are closed; the streams that they are ends of go on with the restore. -/
def State.dropPorts (k : Nat) (s : State) (t : Nat) : State :=
  let circuits := ((s.tile t).ports.filter fun p => p.2.task == k && decide (16 ≤ p.1)).filterMap fun p => p.2.circuit
  let s := s.modTile t fun x => { x with ports := x.ports.filter fun p => p.2.task != k }
  { s with circuits := s.circuits.filter fun (c : Nat × Circuit) => !circuits.contains c.1 }

/-- The allotment of a saved task goes back. -/
def State.releaseSaved (s : State) (k : Nat) : State :=
  let s := s.unhook k
  let s := (s.region k).foldl (State.leaveTile k) s
  let s := (s.region k).foldl (State.dropPorts k) s
  (s.releaseAllot k).modRun k fun r => { r with tiles := [] }

/-- The image of a task as it stands. -/
def State.saveImage (s : State) (k : Nat) (run : TaskRun) (r : TaskRec) : Saved :=
  { inst := s.instanceId k, task := r, type := run.type, classS := typeClassS run.type, run := run,
    tiles := (s.region k).map (s.saveTile k r) }

/-- Scan-out, release and status: 0, or 2 where the area cannot be written and the task goes on. -/
def State.scanOut (s : State) (j : SaveJob) (run : TaskRun) (r : TaskRec) (resume : State → State) : State :=
  let k := j.task
  let s := (s.taskThreads k).foldl (fun s th => (s.settleFence th).settleFlush th) s
  let img := s.saveImage k run r
  match s.writeVirt j.die j.asid j.area (imageHead img.tail) with
  | .error _ => (resume (s.modRun k fun x => { x with saving := false })).endSave j 2
  | .ok s1 =>
      match s1.writeVirt j.die j.asid (j.area + 16) (List.replicate 8 0 ++ img.tail) with
      | .error _ => (resume (s.modRun k fun x => { x with saving := false })).endSave j 2
      | .ok s2 => (({ s2 with images := img :: s2.images }).releaseSaved k).endSave j 0

/-! ## Class G (R440) -/

/-- The n-th save of a die that is in one of some phases, of a class. -/
def State.saveJob? (s : State) (die n : Nat) (classS : Bool) : Option (SaveJob × TaskRun × TaskRec) :=
  match (s.die die).saves[n]? with
  | none => none
  | some j =>
      match s.run? j.task, s.record? j.task with
      | some run, some r => if typeClassS run.type == classS then some (j, run, r) else none
      | _, _ => none

/-- A task that completes or fails meanwhile is not saved. -/
def State.dropSave (s : State) (j : SaveJob) : State :=
  ((s.modRun j.task fun x => { x with saving := false }).modDie (dieOfTask j.task) fun d =>
    { d with saves := d.saves.filter fun x => x.task != j.task }).jobDone j.journal 5

def State.setPhase (s : State) (k n : Nat) : State :=
  s.modDie (dieOfTask k) fun d => { d with saves := d.saves.map fun x => if x.task = k then { x with phase := n } else x }

/-- The first step: the status in progress, the cycle it began. -/
def State.beginSave (s : State) (j : SaveJob) : State :=
  let s := s.areaStatus j.die j.asid j.area 12 0xFFFFFFFF
  s.modDie (dieOfTask j.task) fun d =>
    { d with saves := d.saves.map fun x => if x.task = j.task then { x with phase := 1, start := d.cycle } else x }

/-- CLASS_G_SAVE (R440) of the k-th save of a die: the freeze wave, then, once all has drained, the image and the release. -/
def execClassGSave (die k : Nat) (s : State) : Out :=
  match s.saveJob? die k false with
  | none => ok s
  | some (j, run, r) =>
      if (s.die die).tripped || !s.regionRuns j.task then ok s
      else if run.stopping then ok (s.dropSave j)
      else if j.phase = 0 then
        ok ((s.taskThreads j.task).foldl (fun s th => s.modThread th fun t => { t with wait := none }) (s.beginSave j))
      else
        let s := (s.region j.task).foldl (fun s t => s.settleNodes t) s
        if (s.regionPes j.task).any fun pe => !(s.openRuns j.task pe).isEmpty then ok (s.flushRuns j.task)
        else if !s.saveDrained j.task then ok s
        else ok (s.scanOut j run r id)

/-! ## Class S (R441) -/

/-- A thread that acknowledged starts as after a restore: in its handler, with CODE RESUME. -/
def Thread.resumeS (t : Thread) : Thread :=
  { t with hnd := true, uih := false, running := true, acked := false, preempt := false, wait := none,
           trapcause := setField t.trapcause 0 16 cResume, pc := t.trapvec &&& ~~~(7 : Word) }

/-- The threads of a task go on after a class S save that was not made. -/
def State.resumeAll (s : State) (k : Nat) : State :=
  (s.taskThreads k).foldl (fun s th => s.modThread th fun t => if t.acked then t.resumeS else { t with preempt := false }) s

/-- The waiting entries of a class S task on a tile are discarded; a CTX_BAD record gives their number. -/
def State.fabricCheck (k : Nat) (s : State) (t : Nat) : State :=
  let count := ((List.range 16).map fun e => ((s.pe (16 * t + e)).entries.filter fun x => x.task == k).length).sum
  if count = 0 then s
  else
    let s := (List.range 16).foldl (fun s e =>
      ((s.pe (16 * t + e)).entries.filter fun x => x.task == k).foldl (fun s x => s.dropEntry (16 * t + e) x) s) s
    s.record { code := cCtxBad, die := dieOfTile t, io := false, tileByte := tileByte t, unit := 0, flags := 0, node := 0, tag := 0,
               task := s.instanceId k, cycle := s.cycleOf t, op0 := 0, op1 := 0, addr := BitVec.ofNat 64 count }

/-- CLASS_S_SAVE (R441) of the k-th save of a die: the interrupts, then, once every thread has stopped, the fabric check, then,
once all has drained, the image and the release. -/
def execClassSSave (die k : Nat) (s : State) : Out :=
  match s.saveJob? die k true with
  | none => ok s
  | some (j, run, r) =>
      if (s.die die).tripped || !s.regionRuns j.task then ok s
      else if run.stopping then ok ((s.resumeAll j.task).dropSave j)
      else if j.phase = 0 then
        ok ((s.taskThreads j.task).foldl (fun s th => s.modThread th fun t => { t with preempt := true, acked := false }) (s.beginSave j))
      else if j.phase = 1 then
        if (s.taskThreads j.task).any fun th => (s.thread th).running then ok s
        else ok ((s.region j.task).foldl (State.fabricCheck j.task) (s.setPhase j.task 2))
      else
        let s := (s.region j.task).foldl (fun s t => s.settleNodes t) s
        if (s.regionPes j.task).any fun pe => !(s.openRuns j.task pe).isEmpty then ok (s.flushRuns j.task)
        else if !s.saveDrained j.task then ok s
        else ok (s.scanOut j run r fun s => s.resumeAll j.task)

/-! ## Timeouts -/

/-- SAVE_HELD_REQUEST_TIMEOUT (R440 step 2): the save is abandoned. -/
def execSaveHeldRequestTimeout (die k : Nat) (s : State) : Out :=
  match (s.die die).saves[k]? with
  | none => ok s
  | some j =>
      let classS := typeClassS (s.taskType j.task)
      let due := decide (j.start + 2 ^ 20 ≤ (s.die die).cycle) && decide ((if classS then 2 else 1) ≤ j.phase)
      if !due || (s.die die).tripped || !(s.reqs.any fun r => r.task == j.task && r.heldAtRegion) then ok s
      else
        let s := s.modRun j.task fun x => { x with saving := false }
        ok ((if classS then s.resumeAll j.task else s).endSave j 3)

/-- PREEMPT_ACK_TIMEOUT (R441 step 3). -/
def execPreemptAckTimeout (die k : Nat) (s : State) : Out :=
  match s.saveJob? die k true with
  | none => ok s
  | some (j, _, _) =>
      if j.phase ≠ 1 ∨ (s.die die).cycle < j.start + 2 ^ 24 ∨ (s.die die).tripped ∨
          !((s.taskThreads j.task).any fun th => (s.thread th).running) then ok s
      else ok (((s.modRun j.task fun x => { x with saving := false }).resumeAll j.task).endSave j 5)

/-! ## Restore (R443) -/

/-- How the numbers of a saved tile read at its new place. -/
structure Reloc where
  tile : Nat
  nodeFrom : Nat
  nodeTo : Nat
  thrFrom : Nat
  thrTo : Nat
  deriving DecidableEq, Repr, Inhabited

def Reloc.pe (x : Reloc) (pe : Nat) : Nat := 16 * x.tile + pe % 16
def Reloc.slot (x : Reloc) (slot : Nat) : Nat := x.pe (slot / 1024) * 1024 + (slot % 1024 - x.nodeFrom + x.nodeTo)
def Reloc.thread (x : Reloc) (th : Nat) : Nat := 8 * x.tile + (numOfThread th - x.thrFrom + x.thrTo)

/-- A firing at its new place; what it waited is counted from the restore (R470). -/
def Reloc.firing (x : Reloc) (f : Firing) : Firing := { f with pe := x.pe f.pe, slot := x.slot f.slot, wait := f.wait.map fun _ => 0 }

def Reloc.kind (x : Reloc) (w : WKind) : WKind :=
  match w with
  | .callWait f n => .callWait (x.firing f) n
  | w => w

def Reloc.who (x : Reloc) (w : Who) : Who :=
  match w with
  | .thread th d c => .thread (x.thread th) d c
  | .threadPair th d1 d2 => .threadPair (x.thread th) d1 d2
  | .node f wave => .node (x.firing f) wave
  | w => w

/-- A parked request at its new place. -/
def Reloc.req (x : Reloc) (r : Req) : Req := { r with who := x.who r.who, tile := x.tile, slot := true }

/-- Write pool or SRAM bytes of an image. -/
def State.loadMem (s : State) (t base : Nat) (bs : List (Nat × Byte)) : State :=
  bs.foldl (fun s b => if isMemTile t then s.writeBytes (sramKey t b.1) [b.2] else s.poolWrite t (base + b.1) [b.2]) s

/-- The poison and state codes of an image. -/
def State.loadCodes (s : State) (t base : Nat) (x : SavedTile) : State :=
  let s : State := { s with ecc := s.ecc ++ x.ecc.map fun a => (if isMemTile t then sramKey t a else poolKey s t (base + a)) / 8 }
  x.sstate.foldl (fun s c => s.setWordState (sramKey t c.1) c.2) s

/-- What a PE held of the task: its weights and count, its waiting entries and deep pieces counted from now (R470), its ready
firings before anything that arrives, the tokens its input held. -/
def State.loadPe (s : State) (x : Reloc) (pe : Nat) (p : Pe) : State :=
  let s := s.modPe pe fun q =>
    { q with weights := p.weights, fires := p.fires % 256, seq := max q.seq p.seq, input := q.input ++ p.input,
             deep := q.deep ++ p.deep.map fun d => { d with slot := x.slot d.slot, cycle := s.cycleOf x.tile },
             ready := q.ready ++ p.ready.map x.firing }
  p.entries.foldl (fun s e =>
    (s.place pe { e with slot := x.slot e.slot, kind := x.kind e.kind, cycle := s.cycleOf x.tile }).2) s

/-- A port takes up the state of the port that it was; a circuit to it keeps 64 beats and credits together (R285). -/
def State.loadPort (x : Reloc) (s : State) (p : Nat × Port × Port) : State :=
  let old := p.2.1
  let new := p.2.2
  let s := s.setPort x.tile p.1
    { new with ring := old.ring.map fun y => (x.thread y.1, y.2), part := old.part, beats := old.beats ++ new.beats, deliv := old.deliv,
               stop := old.stop, fifo := old.fifo }
  if p.1 < 16 then
    match new.circuit.bind s.circuit? with
    | none => s
    | some c =>
        match s.port? c.src.1 c.src.2 with
        | none => s
        | some q => s.setPort c.src.1 c.src.2 { q with credits := 64 - old.beats.length }
  else s

/-- The ports of one direction in order, the old beside the new. -/
def State.portPairs (s : State) (k t : Nat) (old : SMap Port) (out : Bool) : List (Nat × Port × Port) :=
  let mine (m : SMap Port) : SMap Port := m.filter fun p => p.2.task == k && decide (16 ≤ p.1) == out
  ((mine (s.tile t).ports).zip (mine old)).map fun x => (x.1.1, x.2.2, x.1.2)

/-- A thread at its new place. -/
def Thread.reload (t : Thread) (k now : Nat) (classS : Bool) : Thread :=
  let t := { t with task := some k, lastIssue := now, queues := [], tlOut := [], tlIssued := t.tlDone, wait := none, fence := [],
                    acquire := none, flush := [] }
  if !classS then t
  else
    let t : Thread := { t with g := [], h := [], p := 0, pend := 0, hpend := 0, ldout := 0, running := false, hnd := false, uih := false }
    if t.acked then t.resumeS else { t with preempt := false, acked := false }

/-- A tile's block is loaded where the task now stands. -/
def State.loadTile (k : Nat) (classS : Bool) (s : State) (y : SavedTile × Place) : State :=
  let sv := y.1
  let p := y.2
  let t := p.tile
  let x : Reloc := { tile := t, nodeFrom := sv.tile.nodeBase, nodeTo := p.nodeBase, thrFrom := sv.tile.thrBase, thrTo := p.thrBase }
  let g := (s.taskTile k t).granBase
  let s := s.modTaskTile k t fun _ =>
    { sv.tile with granBase := g, nodeBase := p.nodeBase, thrBase := p.thrBase, thrCount := p.thrCount, table := p.table,
                   ovfBase := p.ovfBase }
  let base := s.scratchBase k t
  let s := (s.loadMem t base sv.mem).loadCodes t base sv
  let s := sv.ctx.foldl (fun s c => s.drawCtx k t c) s
  let now := s.cycleOf t
  let s := (sv.threads.zip (List.range p.thrCount)).foldl (fun s th => s.setThread (8 * t + p.thrBase + th.2) (th.1.reload k now classS)) s
  let s := sv.reqs.foldl (fun (s : State) r => { s with reqs := s.reqs ++ [{ x.req r with slotNo := s.freeSlot t }] }) s
  let s := s.modTile t fun z =>
    { z with waves := z.waves ++ sv.waves.map fun w => { w with waiting := w.waiting.map x.firing },
             engParked := z.engParked ++ sv.cmds.map fun c => { c with fir := x.firing c.fir } }
  let queue (s : State) (q : Nat × Port × Port) : State := s.setPort t q.1 { q.2.2 with fifo := q.2.1.fifo }
  if classS then (s.portPairs k t sv.ports false).foldl queue s
  else
    let s : State := { s with nodes := sv.nodes.foldl (fun (m : SMap NodeSlot) n =>
      mapPut ((16 * t + n.1) * 1024 + p.nodeBase + n.2.1) { n.2.2 with held := n.2.2.held.map x.firing } m) s.nodes }
    let s := (sv.pes.zip (List.range 16)).foldl (fun s q => s.loadPe x (16 * t + q.2) q.1) s
    (s.portPairs k t sv.ports false ++ s.portPairs k t sv.ports true).foldl (State.loadPort x) s

/-- Elements of a task that are blocked though their records are not empty. -/
def State.blockedCount (s : State) (k : Nat) : Nat :=
  (s.nodes.filter fun x => x.2.task == k && x.2.raw != 0 && x.2.rcd.isNone).length

/-- The bytes of an area whose version and CRC are right. -/
def State.readArea (s : State) (die asid area : Nat) : Option (List Byte) :=
  match s.readVirt die asid area 256 with
  | .error _ => none
  | .ok h =>
      match s.readVirt die asid area (64 * imageField h 4 4) with
      | .error _ => none
      | .ok bs =>
          let crc := (crc32c (bs.take 8 ++ List.replicate 16 0 ++ bs.drop 24)).toNat
          if imageField bs 0 4 = 1 ∧ imageField bs 8 4 = crc then some bs else none

/-- Every held context id of the image is free on its new tile. -/
def State.ctxsFree (s : State) (ps : List (SavedTile × Place)) : Bool :=
  ps.all fun y => y.1.ctx.all fun c => (mapFind? (s.tile y.2.tile).ctx c).isNone

/-- A restore is over; a refusal leaves a CTX_BAD record. -/
def State.endLoad (s : State) (die : Nat) (j : LoadJob) (stat : Nat) (bad : Bool) : State :=
  let s := if bad then s.dispRecord j.task cCtxBad 0 (BitVec.ofNat 64 stat) 0 else s
  ((s.areaStatus j.die j.asid j.area 16 stat).modDie die fun d => { d with loads := d.loads.erase j }).jobDone j.journal 4

/-- Memory tiles take the roles of the task's configuration at once: the image gives their contents, and nothing of what they held
stays. -/
def State.loadRole (r : TaskRec) (die : Nat) (f : FabricCfg) (s : State) (t : Nat) : State :=
  let s := s.zeroKeys (sramKey t 0) 0x400000
  let s : State := { s with sstate := s.sstate.filter fun (x : Nat × Nat) => !decide (sramKey t 0 ≤ 8 * x.1 ∧ 8 * x.1 < sramKey t 0 + 0x400000) }
  s.modTile t fun x => { x with mrole := roleOf r die f t, cache := [], fill := none }

/-- The node records of a class G image, as the checks of R72 read them. -/
def SavedTile.recs (x : SavedTile) : List ImageRec := x.nodes.map fun n => { pe := n.1, num := n.2.1, raw := n.2.2.raw, va := n.2.2.va }

/-- The nodes of a class G image are validated: an illegal record blocks its element, to be told of by its first token (R72, R75,
R443). -/
def SavedTile.checkNodes (type : List Word) (x : SavedTile) : SavedTile :=
  let used := x.recs.filter fun y => y.raw != 0
  let bad (n : Nat × Nat × NodeSlot) : Bool :=
    n.2.2.raw == 0 || !ImageRec.legal type used { pe := n.1, num := n.2.1, raw := n.2.2.raw, va := n.2.2.va }
  { x with nodes := x.nodes.map fun n => (n.1, n.2.1, { n.2.2 with blocked := n.2.2.blocked || bad n, bad := if n.2.2.blocked then n.2.2.bad else n.2.2.raw }) }

/-- The image is loaded at the places found (R443): the allotment, the circuits, the blocks, in a class S task the records. -/
def State.loadImage (s : State) (k : Nat) (img : Saved) (r : TaskRec) (ps : List Place) (recs : List ImageRec) : Option State :=
  let die := dieOfTask k
  let type := img.type
  let s := s.modRun k fun x => { x with saving := false, replaying := !img.classS, fabric := img.run.fabric, ctx := img.run.ctx }
  let s := (s.computeTiles k).foldl (State.reserveTile k { r with opd := [] } type) s
  (State.addStreams k r img.run.fabric.streams s).map fun s =>
    let s := ((s.region k).filter isMemTile).foldl (State.loadRole r die img.run.fabric) s
    let s := ps.foldl (State.clearTile k type) s
    let s := ps.foldl (State.loadNodes k type recs) s
    ((img.tiles.map (SavedTile.checkNodes type)).zip ps).foldl (State.loadTile k img.classS) s

/-- The tiles of the region at its new anchor have the kinds of the tiles that were saved: each block holds its tile's kind
(R442), and a block of the other kind has no place (DEDUCED, log 17). -/
def savedKindsFit (img : Saved) (r : TaskRec) : Bool := (img.task.ax + img.task.ay) % 2 == (r.ax + r.ay) % 2

/-- CONTEXT_RESTORE (R443) of the k-th restore of a die. -/
def execContextRestore (die k : Nat) (s : State) : Out :=
  match (s.die die).loads[k]? with
  | none => ok s
  | some j =>
      let t := j.task
      if (s.die die).tripped then ok s
      else
        match (s.readArea j.die j.asid j.area).bind s.imageOf, s.record? t with
        | some img, some r =>
            if img.type != s.typeEntry (dieOfTask t) r.ttype || img.inst != s.instanceId t then ok (s.endLoad die j 1 true)
            else
              let r2 := { r with hdr := setField (setField r.hdr 18 4 j.ax) 22 4 j.ay }
              let s2 := s.modRec t fun _ => r2
              if dieOfTask t ≠ die then ok (s.endLoad die j 2 true)
              else if (s2.region t).isEmpty || !s2.poolFits t img.type || !s2.rolesFree t ||
                  !savedKindsFit img r2 then
                ok (s.endLoad die j 2 true)
              else
                match s2.placeTiles img.type (s2.region t) (s2.overflowUsed die) with
                | none => ok (s.endLoad die j 2 true)
                | some ps =>
                    if !s2.ctxsFree (img.tiles.zip ps) then ok (s.endLoad die j 3 true)
                    else
                      match (if img.classS then s2.nodeImage t img.type else .ok []) with
                      | .error _ => ok (s.endLoad die j 1 true)
                      | .ok recs =>
                          match s2.loadImage t img r2 ps recs with
                          | none => ok (s.endLoad die j 2 true)
                          | some s3 =>
                              let n := s3.blockedCount t
                              let s4 := s3.areaStatus j.die j.asid j.area 20 n
                              ok (s4.endLoad die j (if n = 0 then 0 else 4) false)
        | _, _ => ok (s.endLoad die j 1 true)

end Sys2Proof.Machine
end

