-- ==== Sys2Proof/Machine/Records.lean ====
section
/-! DEFINITION. The fault log, soft errors, firmware, resets, thermal limits (15_system_class.md R426, R429, R451, R452, R458,
R459; 01_machine.md R14, R15). -/

namespace Sys2Proof.Machine

/-! ## The fault log (R426) -/

/-- Two fault records come from one source. -/
def FaultRec.sameSource (r q : FaultRec) : Bool :=
  r.io == q.io && r.die == q.die && r.tileByte == q.tileByte && r.unit == q.unit && r.flags / 16 % 8 == q.flags / 16 % 8

/-- A record of the same source stands before packet k on the way to the same log. -/
def State.faultBehind (s : State) (k : Nat) (p : Packet) (r : FaultRec) : Bool :=
  (s.net.takeWhile fun q => q.id != k).any fun q => q.dst == p.dst && match q.body with
    | .fault x => x.sameSource r
    | _ => false

/-- A record that cannot be placed is counted; the next one carries LOSS. -/
def Die.loseFault (d : Die) : Die := { d with fltlost := min (d.fltlost + 1) (2 ^ 32 - 1), fltloss := true }

/-- Records the log holds. -/
def Area.records (x : Area) : Nat := (x.len - 64) / 64

/-- A record at its log: placed at TAIL, or dropped. -/
def State.placeFault (s : State) (die : Nat) (r : FaultRec) : State :=
  match (s.die die).log with
  | none => s.modDie die Die.loseFault
  | some x =>
      let base := die * 2 ^ 40 + x.base
      let tail := s.readNat base 8
      let head := s.readNat (base + 8) 8
      if x.records ≤ (tail + 2 ^ 64 - head) % 2 ^ 64 then s.modDie die Die.loseFault
      else
        let s1 := s.writeBytes (base + 64 + 64 * (tail % x.records)) (faultBytes r tail (s.die die).fltloss)
        (s1.writeNat base 8 ((tail + 1) % 2 ^ 64)).modDie die fun d => { d with fltloss := false }

/-- FAULT_RECORD_PLACE (R426): packet k has reached the die of its log. -/
def execFaultRecordPlace (k : Nat) (s : State) : Out :=
  match s.packet? k with
  | none => ok s
  | some p =>
      match p.body with
      | .fault r =>
          if p.at_ ≠ p.dst ∨ s.placeStopped p.dst ∨ s.faultBehind k p r then ok s else ok ((s.dropPacket k).placeFault p.dst r)
      | _ => ok s

/-! ## Uncorrectable soft errors (R429, R349) -/

/-- The ECC_UNCORR record of an element. -/
def State.elementEcc (s : State) (slot : Nat) (x : NodeSlot) : State :=
  s.peRecord (slot / 1024) x.task (s.relNode x.task slot) cEccUncorr 0 0 0 0 0

/-- A row of a link's input buffer is retired; a packet that has a flit on the link is corrupted (R290), and a link left with fewer
than 48 flits is withdrawn (R292). -/
def State.linkEcc (s : State) (a b : Nat) (k : Option Nat) : State :=
  let hit (p : Packet) : Bool := some p.id == k && p.worm.any fun h => h.prev == a && h.at_ == b && !h.flits.isEmpty
  let s : State := { s with retired := mapPut (linkDir a b) (min 192 (mapGet 0 s.retired (linkDir a b) + 1)) s.retired,
                            net := s.net.map fun p => { p with bad := p.bad || hit p } }
  if s.usable a b < 48 then s.withdrawLink (linkOf a b) else s

/-- ECC_UNCORRECTABLE (R429): a memory word is poisoned; a thread is stopped, an element blocked, with a record; a bobbin, or
one of its identities, is lost (R349); a link loses a row of its buffer (R292); a pool cell goes bad (R502, log 115). -/
def execEccUncorrectable (hit : EccHit) (s : State) : Out :=
  match hit with
  | .word key => ok (if s.ecc.contains (key / 8) then s else { s with ecc := key / 8 :: s.ecc })
  | .register th =>
      if (s.thread th).task.isNone then ok s
      else ok ((s.modThread th Thread.stop).record (s.threadRecord th cEccUncorr (s.thread th).pc 0 false))
  | .element slot =>
      match s.element? slot with
      | none => ok s
      | some x => if x.blocked then ok s else ok ((s.modElement slot fun y => { y with blocked := true, bad := y.raw }).elementEcc slot x)
  | .bobbin b id =>
      match mapFind? s.bobbins b with
      | none => ok s
      | some x =>
          let x := match id with
            | none => { x with lost := true }
            | some i => { x with lostIds := i :: x.lostIds }
          ok { s with bobbins := mapPut b x s.bobbins }
  | .link a b k => ok (s.linkEcc a b k)
  | .cell t bank row i ones zeros =>
      if isMemTile t then ok s
      else ok { s with stuck := mapPut (cellKey t bank row i) (ones, zeros) s.stuck }

/-! ## Firmware images (R451, R452) -/

/-- The key digest of a slot. -/
def State.slotDigest (s : State) (m slot : Nat) : Option (List Byte) := if slot = 0 then some Config.vendorKey else (s.module m).ownerKey

def imageType (img : List Byte) : Nat := imageField img 4 1
def imageSlot (img : List Byte) : Nat := imageField img 5 1
def imageVersion (img : List Byte) : Nat := imageField img 8 4
def imageBody (img : List Byte) : List Byte := (img.drop 1024).take (imageField img 12 4)

/-- An image verifies (R451). -/
def State.imageVerifies (s : State) (m : Nat) (img : List Byte) : Bool :=
  let modulus := (img.drop 128).take 384
  decide (1024 + imageField img 12 4 ≤ img.length) && imageField img 0 4 == 0x5746514A && within 1 4 (imageType img) &&
    decide (imageSlot img ≤ 1) && imageField img 6 2 == 0 && decide (Config.fuseVersion (imageType img) ≤ imageVersion img) &&
    sha256 (imageBody img) == (img.drop 24).take 32 && imageField img 56 72 == 0 && imageField img 896 128 == 0 &&
    some (sha256 modulus) == s.slotDigest m (imageSlot img) && rsaVerify modulus ((img.drop 512).take 384) (img.take 512)

/-- An image is measured and started. -/
def Module.start (x : Module) (img : List Byte) : Module :=
  let digest := (img.drop 24).take 32
  let step := [BitVec.ofNat 8 (imageType img), BitVec.ofNat 8 (imageSlot img)] ++ digest
  { x with measure := sha256 (x.measure ++ step), mlog := x.mlog ++ [step],
           firmware := mapPut (imageType img) (imageVersion img) x.firmware }

/-- What the module answers over the management port when it is asked for its measurement: M, its log, and their signature by the
fused attestation key (R452). -/
def State.measureReport (s : State) (m : Nat) : List Byte × List (List Byte) × List Byte :=
  let x := mapGet Module.reset s.modules m
  (x.measure, x.mlog, Config.attestation m (x.measure ++ x.mlog.flatten))

/-- A report over the management port: what it is about, its values. -/
def Module.report (x : Module) (r : List Nat) : Module := { x with reports := x.reports ++ [r] }

/-- FIRMWARE_BOOT (R451, R452): the next image in order is verified, measured and started, or its failure reported. -/
def execFirmwareBoot (m : Nat) (image : List Byte) (s : State) : Out :=
  let x := s.module m
  let next := ((List.range 4).map (· + 1)).find? fun t => (mapFind? x.firmware t).isNone
  if !x.powered || next.isNone then ok s
  else if next == some (imageType image) && s.imageVerifies m image then ok (s.modModule m fun x => x.start image)
  else ok (s.modModule m fun x => x.report [2, next.getD 0])

/-! ## Resets and power (R14, R15, R458) -/

/-- A place belongs to a module. -/
def ofModule (m loc : Nat) : Bool := moduleOfLoc loc == m

/-- What a module holds goes: its dies, tiles, threads, requests, packets, circuits; the owner key stays (R452). Cells that
`keep` names stay. -/
def State.clearModule (s : State) (m : Nat) (keep : Nat → Bool) : State :=
  let here (a : Nat) : Bool := a / 2 ^ 44 == m && !keep a
  let tile (t : Nat) : Bool := moduleOfTile t == m
  { s with
    mem := s.mem.filter fun (c : Host.Cell) => !here c.1, sstate := s.sstate.filter fun (x : Nat × Nat) => !here (8 * x.1),
    ecc := s.ecc.filter fun (w : Nat) => !here (8 * w), threads := s.threads.filter fun (x : Nat × Thread) => !tile (tileOfThread x.1),
    pes := s.pes.filter fun (x : Nat × Pe) => !tile (tileOfPe x.1), nodes := s.nodes.filter fun (x : Nat × NodeSlot) => !tile (x.1 / 16384),
    tiles := s.tiles.filter fun (x : Nat × Tile) => !tile x.1, dies := s.dies.filter fun (x : Nat × Die) => moduleOfDie x.1 != m,
    ios := s.ios.filter fun (x : Nat × Io) => x.1 / 2 != m, reqs := s.reqs.filter fun (r : Req) => !tile r.tile,
    net := s.net.filter fun (p : Packet) => !ofModule m p.at_ && !ofModule m p.src && !ofModule m p.dst,
    circuits := s.circuits.filter fun (c : Nat × Circuit) => !tile c.2.src.1 && !tile c.2.dst.1,
    bobbins := s.bobbins.filter fun (b : Nat × Bobbin) => (s.req? b.2.creq).isSome,
    contribs := s.contribs.filter fun (c : Contrib) => c.pa / 2 ^ 44 != m,
    withdrawn := s.withdrawn.filter fun (l : Nat) => !(ofModule m (l / 2 ^ 21) || ofModule m (l % 2 ^ 21)),
    retired := s.retired.filter fun (l : Nat × Nat) => !(ofModule m (l.1 / 2 / 2 ^ 21) || ofModule m (l.1 / 2 % 2 ^ 21)),
    modules := mapPut m { Module.reset with ownerKey := (s.module m).ownerKey } s.modules }

/-- MODULE_RESET (R14, R15, R458): power-up and release of reset; what the DRAM of a powered module holds stays, and
each die counts from zero. -/
def execModuleReset (m : Nat) (s : State) : Out :=
  let on := (s.module m).powered
  let s := s.clearModule m fun a => on && isDram a
  ok ((List.range 16).foldl (fun s i => s.setDie (16 * m + i) Die.reset) s)

/-- POWER_DOWN (R14, R458): nothing is kept and no clock runs until the next reset. -/
def execPowerDown (m : Nat) (s : State) : Out :=
  let s := (s.clearModule m fun _ => false).modModule m fun x => { x with powered := false }
  ok ((List.range 16).foldl (fun s i => s.setDie (16 * m + i) { Die.reset with tripped := true }) s)

/-! ## Thermal limits (R459) -/

/-- THERMAL_TRIP (R459): at the trip point, fused at 110 and never raised, the die's clocks stop; the trip is reported. `low` is the
point the management firmware asks for, which takes effect where it is lower (log 120). -/
def execThermalTrip (die : TripAt) (s : State) : Out :=
  let s := s.modDie die.die fun d => { d with tripPoint := min d.tripPoint die.low }
  if (s.die die.die).tripped ∨ die.celsius < (s.die die.die).tripPoint then ok s
  else ok ((s.modDie die.die fun d => { d with tripped := true }).modModule (moduleOfDie die.die) fun x => x.report [3, die.die])

/-- CURRENT_GOVERNOR_THROTTLE (R459): above the limit, fused at 1,875 A and never raised, a cycle passes in which nothing issues or
fires. `low` is the limit the management firmware asks for (log 120). -/
def execCurrentGovernorThrottle (die : Nat) (amps : Amps) (s : State) : Out :=
  let s := s.modDie die fun d => { d with governor := min d.governor amps.low }
  if amps.amps ≤ (s.die die).governor ∨ (s.die die).tripped then ok s else ok (s.modDie die fun d => { d with cycle := d.cycle + 1 })

end Sys2Proof.Machine
end

