-- ==== Sys2Proof/Machine/Journal.lean ====
section
/-! DEFINITION. The command journal (15_system_class.md R452-R457; 13_task_class.md R386, R393, R396). The layout of the
arguments of every command but INST is free (log 15): argument i is `Config.journalArg`. -/

namespace Sys2Proof.Machine

def journalBase : Nat := 0xFFF000000

/-- Physical address of a module's journal at an offset of die 0's DRAM. -/
def journalKey (m off : Nat) : Nat := m * 2 ^ 44 + off

/-- The mirror of the journal on die 8 (R454). -/
def mirrorKey (m off : Nat) : Nat := m * 2 ^ 44 + 8 * 2 ^ 40 + off

/-- Bytes of the journal; an uncorrectable error in die 0's copy is answered from die 8's (R455). -/
def State.journalRead (s : State) (m off n : Nat) : List Byte :=
  (List.range n).map fun i =>
    let a := journalKey m (off + i)
    s.readByte (if s.poisoned a 1 then a + 8 * 2 ^ 40 else a)

def State.journalCount (s : State) (m off : Nat) : Nat := bytesToNat (s.journalRead m (journalBase + off) 8)

/-- The journal's device works: the module has power and die 0's clock runs. -/
def State.journalUp (s : State) (m : Nat) : Bool := (s.module m).powered && !(s.die (16 * m)).tripped

/-- JOURNAL_ENTRY_ACCEPT (R454, R455): the entry at HEAD is copied, or fails with status 1; the mirror on die 8 takes TAIL and
the entry's bytes. -/
def execJournalEntryAccept (m : Nat) (s : State) : Out :=
  let x := s.module m
  let seq := x.head
  if !s.journalUp m || s.journalCount m 0 == seq then ok s
  else
    let bs := s.journalRead m (journalEntryOff seq) 128
    let good := imageField bs 8 1 == 1 && imageField bs 0 8 == seq
    let s := s.modModule m fun x =>
      { x with head := (seq + 1) % 2 ^ 64, entries := mapPut seq { bytes := bs, state := 1, aux := [] } x.entries }
    let s := (s.writeBytes (mirrorKey m journalBase) (s.journalRead m journalBase 8)).writeBytes (mirrorKey m (journalEntryOff seq)) bs
    let s := s.journalWrite m (journalBase + 8) (natToBytes 8 ((seq + 1) % 2 ^ 64))
    ok (if good then s.journalState m seq 2 (Config.freeNat s.tick 20) none else s.journalState m seq 5 1 none)

/-! ## Commands (R456) -/

def entryCommand (bs : List Byte) : Nat := imageField bs 10 2
def entryWaits (bs : List Byte) : Bool := (imageField bs 9 1).testBit 0

/-- Argument i of an entry. -/
def jarg (bs : List Byte) (i : Nat) : Nat := Config.journalArg (entryCommand bs) bs i

/-- The entry may start, or has started: commands start in order, one with WAIT once every earlier one has finished. -/
def Module.mayRun (x : Module) (seq : Nat) (e : JEntry) : Bool :=
  e.state == 3 || (e.state == 2 && x.entries.all fun y => decide (seq ≤ y.1) || (if entryWaits e.bytes then decide (4 ≤ y.2.state) else decide (3 ≤ y.2.state)))

/-- What a command comes to: it is over with a state and status, or it goes on. -/
inductive CmdEnd where
  | done
  | failed
  | going
  deriving DecidableEq, Repr, Inhabited

/-- A command of the journal runs: STARTED, then COMPLETED or FAILED; the spec states no status. -/
def State.command (s : State) (m seq code : Nat) (go : List Byte → State → CmdEnd × State) : Out :=
  let x := s.module m
  match mapFind? x.entries seq with
  | none => ok s
  | some e =>
      if !s.journalUp m || entryCommand e.bytes != code || !x.mayRun seq e then ok s
      else
        let s := if e.state = 3 then s else s.journalState m seq 3 (Config.freeNat s.tick 20) none
        let r := go e.bytes s
        match r.1 with
        | .done => ok (r.2.journalState m seq 4 (Config.freeNat s.tick 22) none)
        | .failed => ok (r.2.journalState m seq 5 (Config.freeNat s.tick 22) none)
        | .going => ok r.2

/-- A compute die of a module that an argument names. -/
def dieArg (m a : Nat) : Nat := 16 * m + a % 16

/-- Do something on every die of a module. -/
def State.onDies (s : State) (m : Nat) (f : Die → Die) : State := (List.range 16).foldl (fun s i => s.modDie (16 * m + i) f) s

/-- Bytes that an entry names by their address: backed memory alone has them (R24, R236). -/
def State.namedBytes (s : State) (a n : Nat) : Option (List Byte) :=
  if (List.range n).all fun i => backing s (a + i) != .unbacked then some ((List.range n).map fun i => s.plainByte (a + i))
  else none

/-- Type images written one by one from a number on, as TTWRITE writes them: whether all were. -/
def loadTypes (die addr : Nat) : Nat → Nat → State → Bool × State
  | 0, _, s => (true, s)
  | n + 1, ty, s =>
      match s.namedBytes addr 64 with
      | none => (false, s)
      | some bs =>
          let e := wordsOfBytes bs 8
          if 4096 ≤ ty ∨ !typeImageOk e ∨ s.typeBusy die ty then (false, s)
          else loadTypes die (addr + 64) n (ty + 1) (s.modDie die fun d => { d with types := mapPut ty e d.types })

/-- TLOAD: the die, the first type, the number of images, where they lie. -/
def execTload (m seq : Nat) (s : State) : Out :=
  s.command m seq 0x01 fun bs s =>
    let r := loadTypes (dieArg m (jarg bs 0)) (m * 2 ^ 44 + jarg bs 3 % 2 ^ 44) (jarg bs 2 % 4097) (jarg bs 1) s
    (if r.1 then .done else .failed, r.2)

/-! ## INST (R457) -/

/-- The fields of an INST entry. -/
structure InstArgs where
  die : Nat
  asid : Nat
  plist : Nat
  tva : Nat
  bva : Nat
  deriving DecidableEq, Repr, Inhabited

/-- The arguments, unless the first row of R457 refuses them. -/
def State.instArgs (s : State) (m : Nat) (bs : List Byte) : Option InstArgs :=
  let die := imageField bs 24 1
  let asid := imageField bs 26 2
  let plist := imageField bs 28 1
  let tva := imageField bs 32 8
  let bva := imageField bs 40 8
  let zero := imageField bs 25 1 == 0 && imageField bs 29 3 == 0 && imageField bs 48 80 == 0
  let defined := plist == 0 || (s.plist? m plist).isSome
  if zero && decide (die ≤ 15) && decide (asid < 4096) && (mapFind? (s.die (16 * m + die)).roots asid).isSome && defined &&
      tva % 64 == 0 && decide (tva < 2 ^ 56) && bva % 8 == 0 && decide (bva < 2 ^ 56) then
    some { die := 16 * m + die, asid := asid, plist := plist, tva := tva, bva := bva }
  else none

/-- The dispatcher's record of an INST that meets a fault: no task is named. -/
def State.instRecord (s : State) (die code va : Nat) : State :=
  s.record { code := code, die := die, io := false, tileByte := 0, unit := 0xFE, flags := 0, node := 0, tag := 0, task := 0,
             cycle := (s.die die).cycle, op0 := 0, op1 := 0, addr := BitVec.ofNat 64 va }

/-- INST (R457): as GINST on the die the entry names. -/
def execInstCmd (m seq : Nat) (s : State) : Out :=
  let x := s.module m
  match mapFind? x.entries seq with
  | none => ok s
  | some e =>
      if !s.journalUp m || entryCommand e.bytes != 0x02 || e.state != 2 || !x.mayRun seq e then ok s
      else
        match s.instArgs m e.bytes with
        | none => ok (s.journalState m seq 5 2 (some 0))
        | some a =>
            match s.readVirt a.die a.asid a.bva 128 with
            | .error (c, va) => ok ((s.instRecord a.die c va).journalState m seq 5 4 (some 0))
            | .ok bufs =>
                match s.instantiate a.die a.asid a.plist a.tva (wordsOfBytes bufs 16) (some (m, seq)) with
                | (.full, s) => ok (s.journalState m seq 5 3 (some 0))
                | (.bad c va, s) => ok ((s.instRecord a.die c va).journalState m seq 5 4 (some 0))
                | (.made h, s) => ok (s.journalState m seq 3 0 (some (h + a.die % 16 * 1024)))

/-! ## Tasks -/

/-- CANCEL: the die and the handle, as GFREE. -/
def execCancelCmd (m seq : Nat) (s : State) : Out :=
  s.command m seq 0x03 fun bs s => (.done, (s.endInst (dieArg m (jarg bs 0)) (jarg bs 1 % 1024)).2)

/-- DEC: the die, the index, the amount of a decrement. -/
def execDecCmd (m seq : Nat) (s : State) : Out :=
  s.command m seq 0x04 fun bs s =>
    if amountOk (jarg bs 2) then (.done, s.applyDecrement (dieArg m (jarg bs 0)) (jarg bs 1 % 262144) (jarg bs 2)) else (.failed, s)

/-- REPLAY: the task's instance id, as `.park`. -/
def execJournalReplay (m seq : Nat) (s : State) : Out :=
  s.command m seq 0x05 fun bs s =>
    match s.taskById (BitVec.ofNat 64 (jarg bs 0)) with
    | none => (.failed, s)
    | some k => if (s.parkedOps k).any s.resubmitHolds then (.going, s) else (.done, (s.replayPark k).2)

/-- PREEMPT: the task's instance id, the area with its address space and the die that translates it. -/
def execPreemptCmd (m seq : Nat) (s : State) : Out :=
  s.command m seq 0x06 fun bs s =>
    match s.taskById (BitVec.ofNat 64 (jarg bs 0)) with
    | none => (.failed, s)
    | some k =>
        if (s.die (dieOfTask k)).saves.any fun j => j.journal == some (m, seq) then (.going, s)
        else if s.mayPreempt k && jarg bs 1 % 4096 == 0 then
          (.going, s.acceptSave k (dieArg m (jarg bs 3)) (jarg bs 2 % 4096) (jarg bs 1) (some (m, seq)))
        else (.failed, s)

/-- RESTORE: the area with its address space and the die that translates it, the anchor word. -/
def execRestoreCmd (m seq : Nat) (s : State) : Out :=
  s.command m seq 0x07 fun bs s =>
    let die := dieArg m (jarg bs 2)
    let onto := dieArg m (jarg bs 3 / 256)
    if (s.die onto).loads.any fun j => j.journal == some (m, seq) then (.going, s)
    else
      match s.areaTask die (jarg bs 1 % 4096) (jarg bs 0) with
      | none => (.failed, s)
      | some k =>
          if s.savedOut k then
            (.going, s.acceptLoad k onto die (jarg bs 1 % 4096) (jarg bs 0) (jarg bs 3 % 16) (jarg bs 3 / 16 % 16) (some (m, seq)))
          else (.failed, s)

/-! ## Address spaces and partitions -/

/-- ASID: the ASID, its root, PRIV, on every die. -/
def execAsidCmd (m seq : Nat) (s : State) : Out :=
  s.command m seq 0x10 fun bs s =>
    (.done, s.onDies m fun d => { d with roots := mapPut (jarg bs 0 % 4096) (jarg bs 1, (jarg bs 2).testBit 0) d.roots })

/-- TLBINV on every die: the form, the ASID, the VA (R446). -/
def execJournalTlbinv (m seq : Nat) (s : State) : Out :=
  s.command m seq 0x11 fun bs s =>
    (.done, (List.range 16).foldl (fun s i => s.tlbDrop (16 * m + i) (jarg bs 0 % 3) (jarg bs 1 % 4096) (jarg bs 2)) s)

/-- Module numbers an entry lists, from an argument that counts them. -/
def moduleArgs (bs : List Byte) (i : Nat) : List Nat := (List.range (jarg bs i % 577)).map fun j => jarg bs (i + 1 + j) % 576

/-- PLIST: the list's id, its modules (R309). -/
def execPlistCmd (m seq : Nat) (s : State) : Out :=
  s.command m seq 0x12 fun bs s =>
    if within 1 255 (jarg bs 0) then (.done, s.modModule m fun x => { x with plists := mapPut (jarg bs 0) (moduleArgs bs 1) x.plists })
    else (.failed, s)

/-- PARTITION: the new epoch, the modules that the filter admits, those of them that are accelerators (R296, R453); within an
epoch the filter is locked. -/
def execPartitionCmd (m seq : Nat) (s : State) : Out :=
  s.command m seq 0x13 fun bs s =>
    if jarg bs 0 = (s.module m).epoch then (.failed, s)
    else
      (.done, s.modModule m fun x =>
        { x with epoch := jarg bs 0, filter := moduleArgs bs 1,
                 accels := (moduleArgs bs 1).filter fun i => (jarg bs (600 + i)).testBit 0 })

/-! ## Areas -/

/-- The area an AREA command asks for: kind 0 fault log of 2^k records, 1 overflow, 2 arena, 3 doorbell ring. -/
def areaOf (kind base len : Nat) : Option Area :=
  match kind with
  | 0 => if within 8 20 len then some { base := base, len := 64 + 64 * 2 ^ len } else none
  | 1 => some { base := base, len := len }
  | 2 => if len ≤ 0x200000000 then some { base := base, len := len } else none
  | _ => if base % 4096 = 0 then some { base := base, len := 16448 } else none

/-- An area lies in the die's DRAM outside the bytes that the journal reserves (R454). -/
def areaPlaceOk (die : Nat) (x : Area) : Bool :=
  decide (x.base + x.len ≤ if die % 8 = 0 then 0xFFF000000 else 0x1000000000)

/-- AREA: the die, the kind, the offset, the length or the power of two (R426, R402, R449). -/
def execAreaCmd (m seq : Nat) (s : State) : Out :=
  s.command m seq 0x14 fun bs s =>
    let die := dieArg m (jarg bs 0)
    let kind := jarg bs 1 % 4
    match areaOf kind (jarg bs 2) (jarg bs 3) with
    | none => (.failed, s)
    | some x =>
        if !areaPlaceOk die x then (.failed, s)
        else
          (.done, s.modDie die fun d =>
            match kind with
            | 0 => { d with log := some x }
            | 1 => { d with overflow := some x }
            | 2 => { d with arena := some x }
            | _ => { d with doorbell := some x })

/-! ## Serving units -/

/-- A die takes its place in a replica set, with the coordinator's table: so replicas that differ agree again (R410, R413; log 14). -/
def Die.joinSet (d : Die) (i : Nat) (set : List Nat) (coord iter : Nat) (table : SMap (List Byte)) : Die :=
  { d with btgrp := i % 64 + (set.length - 1) % 64 * 64 + (if i = coord then 4096 else 0) + 8192, iter := iter % 2 ^ 32, btset := set,
           btPrepared := none, btab := table }

/-- BTSET: the iteration, the coordinator's index, the dies of the set by number in the pod (R410); the module's own dies take
it, unless one of them has a transaction in flight. -/
def execBtset (m seq : Nat) (s : State) : Out :=
  s.command m seq 0x15 fun bs s =>
    let n := jarg bs 2 % 64 + 1
    let set := (List.range n).map fun i => jarg bs (3 + i) % (576 * 16)
    let mine := (set.zip (List.range n)).filter fun x => moduleOfDie x.1 == m
    if mine.any fun x => (s.die x.1).btTxn.isSome then (.going, s)
    else
      let coord := jarg bs 1 % 64
      let table := ((set[coord]?).map fun d => (s.die d).btab).getD []
      (.done, mine.foldl (fun s x => s.modDie x.1 fun d => d.joinSet x.2 set coord (jarg bs 0) table) s)

/-- KEYLOAD: the die, the key id, where the 32 key bytes stand in the entry; they are zeroed after (R418, R456). -/
def execKeyload (m seq : Nat) (s : State) : Out :=
  s.command m seq 0x16 fun bs s =>
    let off := 24 + jarg bs 2 % 73
    let key := (bs.drop off).take 32
    let s := s.modDie (dieArg m (jarg bs 0)) fun d => { d with keys := mapPut (jarg bs 1 % 256) key d.keys }
    (.done, s.journalWrite m (journalEntryOff seq + off) (List.replicate 32 0))

/-- SXFREE: the ASID whose pricking slots close, on every die, once no operation on them waits (R404, R409). -/
def execSxfree (m seq : Nat) (s : State) : Out :=
  s.command m seq 0x17 fun bs s =>
    let mine (i : Nat) : List Nat := (((s.die (16 * m + i)).pslots.filter fun x => x.2.asid == jarg bs 0 % 4096).map (·.1))
    if (List.range 16).any fun i => (mine i).any (s.slotHolds (16 * m + i)) then (.going, s)
    else (.done, (List.range 16).foldl (fun s i => (mine i).foldl (fun s n => s.closeSlot (16 * m + i) n) s) s)

/-- DMAWIN: the IO die, the window, its base and limit (R453). -/
def execDmawin (m seq : Nat) (s : State) : Out :=
  s.command m seq 0x18 fun bs s =>
    (.done, s.modIo (2 * m + jarg bs 0 % 2) fun x =>
      { x with windows := mapPut (jarg bs 1 % 64) (jarg bs 2 % 2 ^ 44, jarg bs 3 % 2 ^ 44) x.windows })

/-! ## Firmware and keys -/

/-- A die has no task in PREFETCH, READY or RUNNING. -/
def State.dieIdle (s : State) (die : Nat) : Bool :=
  (s.die die).tasks.all fun x => match x.2 with
    | .record r => !within 3 5 r.state
    | .cont _ => true

/-- FWUPDATE: the die, where the image lies (R451); a dispatcher or ostler image alone. -/
def execFwupdate (m seq : Nat) (s : State) : Out :=
  s.command m seq 0x20 fun bs s =>
    let a := m * 2 ^ 44 + jarg bs 1 % 2 ^ 44
    match (s.namedBytes (a + 12) 4).bind fun x => s.namedBytes a (1024 + bytesToNat x) with
    | none => (.failed, s)
    | some img =>
        if !(within 2 3 (imageType img) && s.imageVerifies m img) then (.failed, s)
        else if !s.dieIdle (dieArg m (jarg bs 0)) then (.going, s)
        else (.done, s.modModule m fun x => x.start img)

/-- OWNERKEY: where the 32 bytes of the digest stand in the entry; the slot is written once (R452). -/
def execOwnerkey (m seq : Nat) (s : State) : Out :=
  s.command m seq 0x21 fun bs s =>
    if (s.module m).ownerKey.isSome then (.failed, s)
    else (.done, s.modModule m fun x => { x with ownerKey := some ((bs.drop (24 + jarg bs 0 % 73)).take 32) })

end Sys2Proof.Machine
end

