-- ==== Sys2Proof/Machine/Debug.lean ====
section
/-! DEFINITION. Class 15 and the debug surface: breakpoints, watch comparators, trace records and their ring, wait-time
histograms, the cluster freeze, the ostler's side-band access (16_debug_class.md R460-R476). -/

namespace Sys2Proof.Machine

/-! ## Breakpoints (R473) -/

/-- BKPT (R460, R466, R473): its cause stops it once; with BKEN 0 it is a NOP that may leave a STOP record. -/
def execBkpt (o : AI) (s : State) : Out :=
  if s.me.pass then ok s.advance
  else
    match s.cause s.myTile 1 (numOfThread s.cur.th) 0 (o.imm.extractLsb' 0 16).toNat 0 s.threadStop with
    | (true, s) => ok (s.modMe fun t => { t with pass := true }).hold
    | (false, s) => ok s.advance

/-! ## Watch comparators (R474) -/

/-- WCFG from its fields. -/
def watchConfig (kind : Nat) (pool : Bool) (len asid : Nat) : Word :=
  BitVec.ofNat 64 (kind % 4 + (if pool then 4 else 0) + len % 64 * 8 + asid % 4096 * 512)

/-- WATCH (R474). -/
def execWatch (o : AR) (s : State) : Out :=
  let a := s.greg o.a
  let b := s.greg o.b
  let len := (b.extractLsb' 0 6).toNat
  if b.getLsbD 7 || (b.extractLsb' 10 54) != 0 || decide (20 < len) then ok (s.trap cIllegalDesc b)
  else if a.toNat % 2 ^ len != 0 || (a.extractLsb' 56 8) != 0 then ok (s.trap cIllegalDesc a)
  else if (s.dbg s.myTile 0).getLsbD 1 then ok (s.result o.d 0)
  else
    let c := (b.extractLsb' 8 2).toNat
    let cfg := watchConfig (o.f.toNat % 4) (b.getLsbD 6) len (s.taskAsid (s.myTask.getD 0))
    ok (((s.setDbg s.myTile (0x40 + 16 * c) a).setDbg s.myTile (0x48 + 16 * c) cfg).result o.d 1)

/-! ## Trace records (R467, R475) -/

/-- A record of the issuing thread. -/
def State.threadTrace (s : State) (kind : Nat) (tag : Word) (v : Nat) : State :=
  s.traceRec s.myTile kind tag (s.cur.pc.extractLsb' 0 16).toNat 0xFF (numOfThread s.cur.th) v

/-- TRACE (R475). -/
def execTrace (o : AR) (s : State) : Out :=
  ok (s.threadTrace kTrace (s.greg o.a) ((s.greg o.b).toNat % 2 ^ 32)).advance

/-- MARK (R475). -/
def execMark (o : AI) (s : State) : Out := ok (s.threadTrace kMark 0 (o.imm.toNat % 2 ^ 32)).advance

/-- A tracing node fires: its record, then L goes on unchanged, E with its count. -/
def State.fireTrace (s : State) (kind : Nat) (value : Firing → Nat) : State :=
  let f := s.cur.fir
  let w := f.l.headD default
  let flags := (if w.n then 8 else 0) + (if f.eos then 16 else 0) + (if w.p then 32 else 0)
  let s := s.beginFire.traceFire f f.tag f.l
  let s := s.traceRec (tileOfPe f.pe) kind f.tag (s.nodeAddr f.task f.slot) (f.pe % 16) flags (value f)
  if f.eos then s.passE f else s.emit f f.tag f.l

/-- TRACE as a node (R475). -/
def execTraceNode (s : State) : Out := ok (s.fireTrace kTrace fun f => (firstWord f.l).toNat % 2 ^ 32)

/-- MARK as a node (R475). -/
def execMarkNode (s : State) : Out := ok (s.fireTrace kMark fun f => f.node.r.lit32.toNat)

/-! ## Histograms (R470, R476) -/

/-- HISTCFG and PROFVA of the issuer's task on its tile. -/
def State.myHist (s : State) : Word × Word :=
  let tab := (s.taskTile (s.myTask.getD 0) s.myTile).table
  (s.dbg s.myTile (0x200 + 16 * tab), s.dbg s.myTile (0x208 + 16 * tab))

/-- Pool address of a counter, VA of a profile word, of the selected node 16 v + e and a bucket. -/
def counterAt (cfg : Word) (n b : Nat) : Nat := (cfg.extractLsb' 0 24).toNat + 16 * n + 2 * b
def profileAt (prof : Word) (n b : Nat) : Word := prof + BitVec.ofNat 64 (64 * n + 8 * b)

/-- 16 v + e of a selector. -/
def selNode (a : Word) : Nat := 16 * (a.extractLsb' 4 10).toNat + (a.extractLsb' 0 4).toNat

/-- Carries and clears of a profile word that are still to be performed. -/
def State.carries (s : State) (t : Nat) (va : Word) : List Nat :=
  (s.reqs.filter fun r => r.tile == t && r.va == va && r.unperformed && match r.op with
    | .atomic _ | .store _ _ => true
    | _ => false).map (·.id)

/-- HISTRD (R476). -/
def execHistrd (o : AR) (s : State) : Out :=
  let a := s.greg o.a
  let h := s.myHist
  if isMemTile s.myTile then ok (s.trap cIllegalOp s.cur.word)
  else if (a.extractLsb' 17 47) != 0 then ok (s.trap cIllegalDesc a)
  else if !h.1.getLsbD 24 then ok (s.unitOp o.d fun s => (BitVec.allOnes 64, s))
  else
    let b := (a.extractLsb' 14 3).toNat
    let va := profileAt h.2 (selNode a) b
    let at_ := counterAt h.1 (selNode a) b
    let c := if inPool at_ then s.poolLoad s.myTile at_ 2 else 0
    let dest := s.me.preg o.d
    ok (s.issueReq { s.threadReq (.histrd c) va dest true with after := s.carries s.myTile va } dest true)

/-- A posted store of zero to a profile word, behind the carries, the reads and the clears of it that are under way (R476). -/
def State.clearProfile (s : State) (va : Word) : State :=
  s.tileReq { s.threadReq (.store 8 0) va .none false with after := s.carries s.myTile va ++ s.histBefore s.myTile va }

/-- The counters and the profile words of one node are zeroed. -/
def State.clearHist (h : Word × Word) (s : State) (n : Nat) : State :=
  let s := if inPool (counterAt h.1 n 0) then s.poolWriteNat s.myTile (counterAt h.1 n 0) 16 0 else s
  (List.range 8).foldl (fun s b => s.clearProfile (profileAt h.2 n b)) s

/-- HISTCLR (R476). -/
def execHistclr (o : AR) (s : State) : Out :=
  let a := s.greg o.a
  let h := s.myHist
  let all := o.f.getLsbD 0
  if isMemTile s.myTile then ok (s.trap cIllegalOp s.cur.word)
  else if !all && (a.extractLsb' 17 47) != 0 then ok (s.trap cIllegalDesc a)
  else if !h.1.getLsbD 24 then ok s.advance
  else
    let ns := if all then List.range (16 * typeNodes (s.taskType (s.myTask.getD 0))) else [selNode a]
    ok (ns.foldl (State.clearHist h) s).advance

/-! ## The freeze commands (R460-R462) -/

/-- The tile's cluster is frozen. -/
def State.tileFrozen (s : State) (t : Nat) : Bool := (s.die (dieOfTile t)).frozen.contains (clusterOf t)

/-- DBG_FREEZE_COMMAND (R460, R462, R466). What a STOP record names as its unit is free here (log 16). -/
def execDbgFreezeCommand (tile : Nat) (s : State) : Out :=
  if s.tileFrozen tile then ok s
  else ok (s.cause tile 4 0 0 0 0 { tag := 0, node := 0, unit := Config.freeNat s.tick 23 % 256, flags := 0 }).2

/-- The slot watchdogs of a die stood still since a cycle (R461). -/
def State.shiftWatchdogs (s : State) (die since : Nat) : State :=
  let now := (s.die die).cycle
  { s with reqs := s.reqs.map fun (r : Req) => if dieOfTile r.tile = die then { r with cycle := r.cycle + (now - max since r.cycle) } else r }

/-- DBG_RESUME_COMMAND (R462): every tile of the cluster restarts; beats that wait are delivered. -/
def execDbgResumeCommand (tile : Nat) (s : State) : Out :=
  if !s.tileFrozen tile then ok s
  else
    let die := dieOfTile tile
    let s := s.modDie die fun d => { d with frozen := d.frozen.filter fun c => c != clusterOf tile, frozeAt := mapDel (clusterOf tile) d.frozeAt }
    let s := (clusterTiles tile).foldl (fun s u => (s.setDbg u 8 0).deliverAll u) s
    let s := (clusterTiles tile).foldl State.settleTile s
    ok (if (s.die die).frozen.isEmpty then s.shiftWatchdogs die (s.die die).froze else s)

/-! ## Debug registers (R463) -/

/-- A register of an array: its index, the offset within an element. -/
def arrayReg (base stride count off : Nat) : Option (Nat × Nat) :=
  if base ≤ off ∧ off < base + stride * count then some ((off - base) / stride, (off - base) % stride) else none

/-- The task that holds scope table i of a tile. -/
def State.tableTask (s : State) (t i : Nat) : Option Nat :=
  let die := dieOfTile t
  ((s.die die).runs.find? fun r => match mapFind? r.2.tiles t with
    | some y => y.table == i
    | none => false).map fun r => die * 262144 + r.1

/-- HISTCFG takes a value. -/
def State.histCfgOk (s : State) (t i : Nat) (v : Word) : Bool :=
  !v.getLsbD 24 || (s.dbg t (0x208 + 16 * i) != 0 && match s.tableTask t i with
    | some k => scratchOk s k t (v.extractLsb' 0 24).toNat 1
    | none => false)

/-- A write of a debug register but DBGCMD; an offset that is not listed discards it. -/
def State.writeDbg (s : State) (t off : Nat) (v : Word) : State :=
  let low (n : Nat) : Word := v &&& BitVec.ofNat 64 (2 ^ n - 1)
  if off = 0 then s.setDbg t 0 (low 3)
  else
    match arrayReg 0x40 16 4 off, arrayReg 0x100 32 4 off, arrayReg 0x200 16 16 off with
    | some (_, 0), _, _ => s.setDbg t off (low 56)
    | some (_, _), _, _ => if 20 < (v.extractLsb' 3 6).toNat then s else s.setDbg t off (low 9)
    | _, some (_, 0), _ | _, some (_, 8), _ => s.setDbg t off v
    | _, some (_, 16), _ => s.setDbg t off (low 18)
    | _, _, some (i, 0) => if s.histCfgOk t i v then s.setDbg t off (low 25 &&& ~~~(63 : Word)) else s
    | _, _, some (_, _) => s.setDbg t off (low 56 &&& ~~~(63 : Word))
    | _, _, _ => s

/-- A write in space 6. -/
def writeDbgRow (t off : Nat) (v : Word) (s : State) : Out :=
  if off = 0x10 then
    if v.extractLsb' 0 2 = 1 then execDbgFreezeCommand t s
    else if v.extractLsb' 0 2 = 2 then execDbgResumeCommand t s
    else ok s
  else ok (s.writeDbg t off v)

/-! ## The trace ring (R468, R469) -/

/-- A die trace register; none where the offset is not one. -/
def Die.traceReg (d : Die) (off : Nat) : Option Word :=
  match off with
  | 0x00 => some d.trbase
  | 0x08 => some d.trsize
  | 0x10 => some d.trtail
  | 0x18 => some d.trhead
  | 0x20 => some d.trlost
  | _ => none

/-- A die after a write of a trace register; TRBASE keeps its ring aligned, TRTAIL discards it. -/
def Die.writeTrace (d : Die) (off : Nat) (v : Word) : Die :=
  match off with
  | 0x00 => { d with trbase := v &&& BitVec.ofNat 64 (2 ^ 54 - 4096), trtail := 0, trhead := 0 }
  | 0x08 =>
      let k := (v.extractLsb' 0 5).toNat
      if within 8 24 k then { d with trsize := BitVec.ofNat 64 k, trtail := 0, trhead := 0 } else d
  | 0x18 => { d with trhead := v }
  | 0x20 => { d with trlost := v &&& 0xFFFFFFFF }
  | _ => d

/-- TRACE_RING_CONFIG_WRITE (R469). -/
def execTraceRingConfigWrite (die off : Nat) (v : Word) (s : State) : Out := ok (s.modDie die fun d => d.writeTrace off v)

/-- A record of the same tile stands before packet k (R468). -/
def State.traceBehind (s : State) (k tile : Nat) : Bool :=
  (s.net.takeWhile fun q => q.id != k).any fun q => match q.body with
    | .trace x => x.tile == tile
    | _ => false

/-- A trace record at the ring of its die: placed, or dropped and counted. -/
def State.placeTrace (s : State) (die : Nat) (r : TraceRec) : State :=
  let d := s.die die
  let n := 2 ^ d.trsize.toNat
  if d.trbase = 0 ∨ d.trsize = 0 ∨ n ≤ (d.trtail - d.trhead).toNat then
    (s.modDie die fun x => { x with trlost := if x.trlost = 0xFFFFFFFF then x.trlost else x.trlost + 1 }).modTile r.tile fun x =>
      { x with loss := true }
  else
    let a := d.trbase.toNat + 32 * (d.trtail.toNat % n)
    (s.writeBytes a r.bytes).modDie die fun x => { x with trtail := x.trtail + 1 }

/-- TRACE_RECORD_PLACE (R468): packet k has reached the die of its ring. -/
def execTraceRecordPlace (k : Nat) (s : State) : Out :=
  match s.packet? k with
  | none => ok s
  | some p =>
      match p.body with
      | .trace r =>
          if p.at_ ≠ p.dst ∨ s.placeStopped p.dst ∨ s.traceBehind k r.tile then ok s else ok ((s.dropPacket k).placeTrace p.dst r)
      | _ => ok s

/-! ## The side band (R471) -/

/-- SBSTAT.ERR. -/
def sbUnbacked : Nat := 1
def sbNotFrozen : Nat := 2
def sbRefused : Nat := 3

/-- What a side-band access comes to: an error, the value read, or the state after a write. -/
inductive Side where
  | err (n : Nat)
  | value (v : Word)
  | done (s : State)
  deriving DecidableEq, Repr, Inhabited

/-- An access that needs the cluster frozen. -/
def State.sideFrozen (s : State) (t : Nat) (x : Side) : Side := if s.tileFrozen t then x else .err sbNotFrozen

/-- Space 0: a thread's registers, its PC and its running flag. -/
def State.sideThread (s : State) (t off : Nat) (wr : Option Word) : Side :=
  let th := 8 * t + off / 2 ^ 11 % 8
  let r := off / 8 % 256
  let x := s.thread th
  if 2 ^ 14 ≤ off ∨ (0x28 < r ∧ r ≠ 0x30 ∧ r ≠ 0x31) then .err sbUnbacked
  else s.sideFrozen t <|
    match wr with
    | none => .value (if r = 0x30 then x.pc else if r = 0x31 then (if x.running then 1 else 0) else x.readWindow r)
    | some v =>
        .done (s.modThread th fun x =>
          if r = 0x30 then { x with pc := v &&& ~~~(7 : Word) }
          else if r = 0x31 then { x with running := v.getLsbD 0 }
          else x.writeWindow r v)

/-- A machine register's fields of access RW after a write: bits that only clear stay (R463, R471). -/
def writeRw (n : Nat) (v : Word) (s : State) : Out :=
  if within 0x020 0x023 n then ok s
  else if n = 0x004 then writeRow n (v &&& ~~~(0x3F0000 : Word)) s
  else writeRow n v s

/-- Space 1: machine registers; a number of the test window is the register it names, of a thread of the tile (log 95). -/
def State.sideMachine (s : State) (t off : Nat) (wr : Option Word) : Side :=
  let th := 8 * t + off / 2 ^ 19 % 8
  let n := off / 8 % 2 ^ 16
  if 2 ^ 22 ≤ off ∨ !inMap n then .err sbUnbacked
  else
    let gone := isMemTile t && computeReg n
    let other := windowThread t n
    match wr with
    | none => .value (if isWindow n then (s.thread other).readWindow (windowReg n) else if gone then 0 else s.readReg th n)
    | some v => s.sideFrozen t <|
        if isWindow n then .done (s.modThread other fun x => x.writeWindow (windowReg n) v)
        else if gone then .done s
        else
          match writeRw n v { s with cur := { Cur.reset with th := th } } with
          | .next s => .done s
          | _ => .done s

/-- The records of a task that stand on a PE. -/
def State.recordsOn (s : State) (pe k : Nat) : List ImageRec :=
  (s.nodes.filter fun x => x.1 / 1024 == pe && x.2.task == k).map fun x =>
    { pe := pe % 16, num := s.relNode k x.1, raw := x.2.raw, va := 0 }

/-- A record an ostler write puts into a node-store entry: validated, an illegal one blocks, and the debugger hears of it over the
management port, by the number of its entry (R72, R73, R75, R471; log 95). An entry of no task's range only holds it. -/
def State.putRecord (s : State) (slot : Nat) (raw : BitVec 128) : State :=
  match s.element? slot with
  | none => { s with nodes := mapPut slot { raw := raw, task := 2 ^ 32, va := 0, blocked := true, bad := raw, trapped := false, discarded := false, held := [] } s.nodes }
  | some x =>
      let y : ImageRec := { pe := slot / 1024 % 16, num := s.relNode x.task slot, raw := raw, va := 0 }
      let good := y.legal (s.taskType x.task) (y :: s.recordsOn (slot / 1024) x.task)
      let s := s.modElement slot fun x =>
        if good then { x with raw := raw }
        else
          { x with raw := raw, blocked := true, va := 0, bad := if x.blocked && x.bad == 0 then 0 else raw,
                   discarded := x.blocked && x.discarded }
      if good then s else s.modModule (slot / 2 ^ 26) fun m => { m with reports := m.reports ++ [[4, slot]] }

/-- Space 2: the node store; word 0 is held until word 1 of the same slot. -/
def State.sideNode (s : State) (t off : Nat) (wr : Option Word) : Side :=
  let slot := (16 * t + off / 2 ^ 14 % 16) * 1024 + off / 16 % 1024
  let die := dieOfTile t
  let raw := ((s.element? slot).map NodeSlot.raw).getD 0
  if 2 ^ 18 ≤ off ∨ isMemTile t then .err sbUnbacked
  else s.sideFrozen t <|
    match wr with
    | none => .value (if off % 16 = 0 then raw.extractLsb' 0 64 else raw.extractLsb' 64 64)
    | some v =>
        if off % 16 = 0 then .done (s.modDie die fun d => { d with sbhold := some (slot, v) })
        else
          let w0 := match (s.die die).sbhold with
            | some (i, w) => if i = slot then w else raw.extractLsb' 0 64
            | none => raw.extractLsb' 0 64
          .done ((s.modDie die fun d => { d with sbhold := none }).putRecord slot (v ++ w0))

/-- Space 3: the matching store; an entry that is not taken reads zero. -/
def State.sideMatch (s : State) (t off : Nat) (wr : Option Word) : Side :=
  let pe := 16 * t + off / 2 ^ 17 % 16
  let e := (s.pe pe).entries.find? fun e =>
    e.level == .matching && e.set == off / 2 ^ 11 % 64 && e.pos == off / 256 % 8
  if 2 ^ 21 ≤ off ∨ isMemTile t then .err sbUnbacked
  else
    match wr with
    | some _ => .err sbRefused
    | none => s.sideFrozen t <| .value <| match e with
        | some e => BitVec.ofNat 64 (bytesToNat (((s.entryBytes pe e).drop (off % 256)).take 8))
        | none => 0

/-- Space 4: pool or SRAM at any time: a read as an ordinary load gives it, a write of the word as it stands, whatever its structure
state, which stays (log 95). -/
def State.sidePool (s : State) (t off : Nat) (wr : Option Word) : Side :=
  if (if isMemTile t then 0x400000 else 0x200000) ≤ off then .err sbUnbacked
  else
    match wr with
    | none => .value (BitVec.ofNat 64 (s.poolLoad t off 8))
    | some v => .done (s.writeNat (poolKey s t off) 8 v.toNat)

/-- Space 5: stream ports. -/
def State.sidePort (s : State) (t off : Nat) (wr : Option Word) : Side :=
  let key := (if off / 2 ^ 8 % 2 = 1 then 16 else 0) + off / 16 % 16
  if 2 ^ 9 ≤ off then .err sbUnbacked
  else
    match wr with
    | some _ => .err sbRefused
    | none => .value (if off % 16 = 0 then s.scurWord t key else BitVec.ofNat 64 (((s.port? t key).map Port.credits).getD 0))

/-- Space 6: debug registers. -/
def State.sideDebug (s : State) (t off : Nat) (wr : Option Word) : Side :=
  match wr with
  | none => .value (s.dbg t off)
  | some v =>
      match writeDbgRow t off v s with
      | .next s => .done s
      | _ => .done s

/-- Space 7: die trace registers; the tile is ignored. -/
def State.sideTrace (s : State) (die off : Nat) (wr : Option Word) : Side :=
  match (s.die die).traceReg off with
  | none => .err sbUnbacked
  | some x =>
      match wr with
      | none => .value x
      | some v => .done (s.modDie die fun d => d.writeTrace off v)

/-- A side-band access at SBADDR. -/
def State.side (s : State) (die : Nat) (wr : Option Word) : Side :=
  let a := (s.die die).sbaddr
  let t := die * 256 + (a.extractLsb' 40 8).toNat
  let off := (a.extractLsb' 0 36).toNat
  if off % 8 ≠ 0 then .err sbUnbacked
  else
    match (a.extractLsb' 36 4).toNat with
    | 0 => s.sideThread t off wr
    | 1 => s.sideMachine t off wr
    | 2 => s.sideNode t off wr
    | 3 => s.sideMatch t off wr
    | 4 => s.sidePool t off wr
    | 5 => s.sidePort t off wr
    | 6 => s.sideDebug t off wr
    | 7 => s.sideTrace die off wr
    | _ => .err sbUnbacked

/-- The next offset. -/
def sbNext (a : Word) : Word := setField a 0 36 ((a.extractLsb' 0 36).toNat + 8)

/-- SBSTAT after a write: ERR is clear. -/
def Die.clearErr (d : Die) : Die := { d with sbstat := setField d.sbstat 1 3 0 }

/-- An access of SBDATA, then 8 more on the offset. -/
def State.sbData (s : State) (die : Nat) (wr : Bool) (v : Word) : State :=
  let s := match s.side die (if wr then some v else none) with
    | .err n => s.modDie die fun d => { d with sbstat := setField d.sbstat 1 3 n, sbdata := if wr then d.sbdata else 0 }
    | .value x => s.modDie die fun d => { d with sbdata := x }
    | .done s => s
  s.modDie die fun d => { d with sbaddr := sbNext d.sbaddr }

/-- SBDATA_ACCESS (R471): the Access Register command on a register number: SBADDR, SBDATA, SBSTAT; for a number above them the
debugger gets "not supported", told as a report of code 5 (log 95). The debugger may have written SBADDR before. -/
def execSbdataAccess (die : Nat) (addr : SbReg) (wr : Bool) (v : Word) (s : State) : Out :=
  if (s.die die).tripped then ok s
  else
    let s := match addr.addr with
      | some a => s.modDie die fun d => { d with sbaddr := a &&& BitVec.ofNat 64 (2 ^ 48 - 1) }
      | none => s
    if addr.reg = 0xC001 then ok (s.sbData die wr v)
    else if addr.reg = 0xC000 then
      ok (s.modDie die fun d => if wr then { d with sbaddr := v &&& BitVec.ofNat 64 (2 ^ 48 - 1) } else { d with sbdata := d.sbaddr })
    else if addr.reg = 0xC002 then ok (s.modDie die fun d => if wr then d.clearErr else { d with sbdata := d.sbstat })
    else if 0xC003 ≤ addr.reg ∧ addr.reg ≤ 0xFFFF then ok (s.modModule (moduleOfDie die) fun m => m.report [5, die, addr.reg])
    else ok s

/-- SBSTAT_WRITE (R471): any write clears ERR. -/
def execSbstatWrite (die : Nat) (_v : Word) (s : State) : Out := ok (s.modDie die Die.clearErr)

end Sys2Proof.Machine
end

