-- ==== Sys2Proof/Machine/NodeAlu.lean ====
section
/-! DEFINITION. Integer and vector operations on carrier N (05_scalar_class.md R137; 06_vector_class.md R164-R177). -/

namespace Sys2Proof.Machine

/-! ## Class 1 (R137) -/

/-- An operand taken to n bits: sign-extended from its link's width, or truncated. -/
def operandBits (n : Nat) (x : TWord) : Nat :=
  if x.wide then x.w.toNat % 2 ^ n else wrapInt n (asSigned 32 (x.w.toNat % 2 ^ 32))

/-- The 32-bit parameter word taken to n bits. -/
def paramBits (n : Nat) (l : HWord) : Nat := wrapInt n (asSigned 32 l.toNat)

/-- A class-1 firing word by word: n is the width of L's words; `op n x y c` gives the result and its classes. -/
def intNode (op : Nat → Nat → Nat → Nat → Nat × Raised) (s : State) : Out :=
  fireCompute (fun _ f =>
    [(f.tag, (List.range f.len).map fun i =>
      let x := f.l.getD i default
      let n := if x.wide then 64 else 32
      let v := op n (operandBits n x) (operandBits n (f.r.getD i default)) (operandBits n (f.c.getD i default))
      ({ w := BitVec.ofNat 64 (v.1 % 2 ^ n), p := f.laneP i, n := false, wide := x.wide }, v.2))]) s

def clean (v : Nat) : Nat × Raised := (v, 0)

/-- RND as the f value of R134. -/
def State.fireF (s : State) : Nat := s.cur.fir.node.r.rnd.toNat

def State.fireLit (s : State) : HWord := s.cur.fir.node.r.lit32

/-- ADD on a node (R137, R134). -/
def execAddNode (s : State) : Out := intNode (fun _ x y _ => clean (x + y)) s

/-- SUB on a node (R137, R134). -/
def execSubNode (s : State) : Out := intNode (fun n x y _ => clean (x + (2 ^ n - y))) s

/-- ADDI on a node (R137, R134). -/
def execAddiNode (s : State) : Out := intNode (fun n x _ _ => clean (x + paramBits n s.fireLit)) s

/-- MUL on a node (R137, R136). -/
def execMulNode (s : State) : Out := intNode (fun n x y _ => clean (mulBits s.fireF n x y)) s

/-- DIV on a node (R137, R136). -/
def execDivNode (s : State) : Out := intNode (fun n x y _ => (divBits s.fireF n x y, if y = 0 then raisedIdz else 0)) s

/-- REM on a node (R137, R136). -/
def execRemNode (s : State) : Out := intNode (fun n x y _ => (remBits s.fireF n x y, if y = 0 then raisedIdz else 0)) s

/-- AND on a node (R137, R134). -/
def execAndNode (s : State) : Out := intNode (fun _ x y _ => clean (Nat.land x y)) s

/-- OR on a node (R137, R134). -/
def execOrNode (s : State) : Out := intNode (fun _ x y _ => clean (Nat.lor x y)) s

/-- XOR on a node (R137, R134). -/
def execXorNode (s : State) : Out := intNode (fun _ x y _ => clean (Nat.xor x y)) s

/-- ANDN on a node (R137, R134). -/
def execAndnNode (s : State) : Out := intNode (fun n x y _ => clean (Nat.land x (2 ^ n - 1 - y))) s

/-- SHL on a node (R137, R134). -/
def execShlNode (s : State) : Out := intNode (fun n x y _ => clean (x * 2 ^ (y % n))) s

/-- SHR on a node (R137, R134). -/
def execShrNode (s : State) : Out := intNode (fun n x y _ => clean (shrBits s.fireF n x (y % n))) s

/-- ROTL on a node (R137, R134). -/
def execRotlNode (s : State) : Out := intNode (fun n x y _ => clean (rotlBits n x (y % n))) s

/-- CLZ on a node (R137, R134). -/
def execClzNode (s : State) : Out := intNode (fun n x _ _ => clean (clzBits n x)) s

/-- POPC on a node (R137, R134). -/
def execPopcNode (s : State) : Out := intNode (fun n x _ _ => clean (popBits n x)) s

/-- MIN on a node (R137, R134). -/
def execMinNode (s : State) : Out := intNode (fun n x y _ => clean (if condHolds (if s.fireF = 0 then 2 else 3) n x y then x else y)) s

/-- MAX on a node (R137, R134). -/
def execMaxNode (s : State) : Out := intNode (fun n x y _ => clean (if condHolds (if s.fireF = 0 then 2 else 3) n x y then y else x)) s

/-- SET on a node (R137, R134). -/
def execSetNode (s : State) : Out := intNode (fun n x y _ => clean (if condHolds s.fireF n x y then 1 else 0)) s

/-- MOVI on a node (R137, R134). -/
def execMoviNode (s : State) : Out := intNode (fun n _ _ _ => clean (paramBits n s.fireLit)) s

/-- BFX on a node (R137, R136). -/
def execBfxNode (s : State) : Out := intNode (fun n x y _ => clean (bfxBits s.fireF n x y)) s

/-- BFI on a node (R137, R136). -/
def execBfiNode (s : State) : Out := intNode (fun n x y c => clean (bfiBits n c x y)) s

/-- LEA on a node (R137, R134). -/
def execLeaNode (s : State) : Out := intNode (fun n x y _ => clean (x + y * 2 ^ s.fireF + paramBits n s.fireLit)) s

/-- SEL on a node (R137): L if C's payload is nonzero, else R. -/
def execSelNode (s : State) : Out :=
  fireCompute (fun _ f =>
    [(f.tag, (List.range f.len).map fun i =>
      let x := f.l.getD i default
      let n := if x.wide then 64 else 32
      let v := if (f.c.getD i default).w = 0 then operandBits n (f.r.getD i default) else operandBits n x
      ({ w := BitVec.ofNat 64 v, p := f.laneP i, n := false, wide := x.wide }, 0))]) s

/-! ## Classes 4 and 5 (R164) -/

/-- The low 32 bits of a word. -/
def bits32 (x : TWord) : Nat := x.w.toNat % 2 ^ 32

def words32 (l : List TWord) : List Nat := l.map bits32

/-- Word-wise results of a run with the P of each lane. -/
def laneWords (f : Firing) (ws : List ERes) : List (TWord × Raised) :=
  (ws.zip (List.range ws.length)).map fun x => (narrow x.1.1 (f.laneP x.2), x.1.2)

/-- Element-wise over the words of a run: x, y, z from L, R and C (R164, R168). -/
def vecNode (op : ElemType → RndSat → Bool → Nat → Nat → Nat → ERes) (s : State) : Out :=
  fireCompute (fun s f =>
    let t := f.node.r.etype
    let es := mapElemsN (op t (nodeRnd f.node.r.rnd) (s.taskFtz f.task)) (unpackWords t (words32 f.l))
      (unpackWords t (words32 f.r)) (unpackWords t (words32 f.c))
    [(f.tag, laneWords f (packElems t es))]) s

/-- Items sorted by F0. -/
def insertByF0 {α : Type} (x : Nat × α) : List (Nat × α) → List (Nat × α)
  | [] => [x]
  | y :: l => if x.1 < y.1 then x :: y :: l else y :: insertByF0 x l

def sortByF0 {α : Type} (l : List (Nat × α)) : List (Nat × α) := l.foldl (fun m x => insertByF0 x m) []

/-- Vector tokens of at most 32 words of consecutive F0, in ascending F0 (R171, R173). -/
def spreadRuns (s : State) (f : Firing) (items : List (Nat × TWord × Raised)) : List (Word × List (TWord × Raised)) :=
  (runsOf (α := Nat × TWord × Raised) (·.1) (fun _ _ => true) (sortByF0 items)).flatMap fun run =>
    (groupsOf 32 run.length run).map fun g => (s.withF0 f.task f.tag ((g.head?.map (·.1)).getD 0), g.map (·.2))

/-- One output word per input element of type t, at F0 = f * epw + i (R171, R173). -/
def spreadNode (t : ElemType) (conv : Nat → ERes) (s : State) (f : Firing) : List (Word × List (TWord × Raised)) :=
  let b := s.f0 f.task f.tag
  let w := 2 ^ (s.fieldAt f.task 0).1
  spreadRuns s f ((List.range f.len).flatMap fun i =>
    ((unpackWord t (bits32 (f.l.getD i default))).zip (List.range t.epw)).map fun e =>
      let r := conv e.1
      (((b + i) * t.epw + e.2) % w, narrow r.1 (f.laneP i), r.2))

/-- A reduction: one scalar token with the run's base tag; P if any word carries it (R175). -/
def redNode (op : ElemType → RndSat → Bool → List Nat → List Nat → ERes) (s : State) : Out :=
  fireCompute (fun s f =>
    let t := f.node.r.etype
    let r := op t (nodeRnd f.node.r.rnd) (s.taskFtz f.task) (unpackWords t (words32 f.l)) (unpackWords t (words32 f.r))
    [(f.tag, [(narrow r.1 f.anyP, r.2)])]) s

/-- VADD on a node (R168). -/
def execVaddNode (s : State) : Out := vecNode (eAdd) s

/-- VSUB on a node (R168). -/
def execVsubNode (s : State) : Out := vecNode (eSub) s

/-- VMUL on a node (R168). -/
def execVmulNode (s : State) : Out := vecNode (eMul) s

/-- VFMA on a node (R168). -/
def execVfmaNode (s : State) : Out := vecNode (eFma) s

/-- VMIN on a node (R168). -/
def execVminNode (s : State) : Out := vecNode (eMin) s

/-- VMAX on a node (R168). -/
def execVmaxNode (s : State) : Out := vecNode (eMax) s

/-- VABS on a node (R168). -/
def execVabsNode (s : State) : Out := vecNode (eAbs) s

/-- VNEG on a node (R168). -/
def execVnegNode (s : State) : Out := vecNode (eNeg) s

/-- VCMP on a node (R170). -/
def execVcmpNode (s : State) : Out := vecNode (eCmp s.fireF) s

/-- VSEL on a node (R170). -/
def execVselNode (s : State) : Out := vecNode (eSel) s

/-- VAND on a node (R169). -/
def execVandNode (s : State) : Out := vecNode (eAnd) s

/-- VOR on a node (R169). -/
def execVorNode (s : State) : Out := vecNode (eOr) s

/-- VXOR on a node (R169). -/
def execVxorNode (s : State) : Out := vecNode (eXor) s

/-- VSHL on a node (R169). -/
def execVshlNode (s : State) : Out := vecNode (eShl) s

/-- VSHR on a node (R169). -/
def execVshrNode (s : State) : Out := vecNode (eShr (s.fireF == 1)) s

/-- VCVT on a node (R171): the source type is LIT32's; each element gives a word of its own. -/
def execVcvtNode (s : State) : Out :=
  fireCompute (fun s f =>
    let src := (ElemType.ofCode (f.node.r.lit32.extractLsb' 0 4)).getD .i32
    spreadNode src (eCvt src f.node.r.etype (nodeRnd f.node.r.rnd) (s.taskFtz f.task)) s f) s

/-- VQNT on a node (R172): L is FP32, R's word the scale. -/
def execVqntNode (s : State) : Out :=
  fireCompute (fun s f =>
    [(f.tag, (List.range f.len).map fun i =>
      let r := eQnt .fp32 f.node.r.etype (nodeRnd f.node.r.rnd) (s.taskFtz f.task) (bits32 (f.l.getD i default))
        (bits32 (f.r.getD i default))
      (narrow r.1 (f.laneP i), r.2))]) s

/-- VPACK on a node (R173): the run's words grouped by F0 div epw; positions not supplied are zero. -/
def execVpackNode (s : State) : Out :=
  fireCompute (fun s f =>
    let t := f.node.r.etype
    let b := s.f0 f.task f.tag
    let lo := b / t.epw
    let hi := (b + f.len - 1) / t.epw
    [(s.withF0 f.task f.tag lo, (List.range (hi - lo + 1)).map fun g =>
      let at_ (q : Nat) : Option Nat := if (lo + g) * t.epw + q < b then none else some ((lo + g) * t.epw + q - b)
      let es := (List.range t.epw).map fun q => match at_ q with
        | some i => bits32 (f.l.getD i default) % 2 ^ t.width
        | none => 0
      let p := (List.range t.epw).any fun q => match at_ q with
        | some i => (f.l.getD i default).p
        | none => false
      (narrow (packWord t es) p, 0))]) s

/-- VUNPACK on a node (R173). -/
def execVunpackNode (s : State) : Out :=
  fireCompute (fun s f => spreadNode f.node.r.etype clean s f) s

/-- VCLAMP on a node (R170): VMIN(VMAX(L, R), C). -/
def execVclampNode (s : State) : Out := vecNode (fun t _ ftz x y z => eClamp t ftz x y z) s

/-- VMOV on a node (R170). -/
def execVmovNode (s : State) : Out := vecNode (fun t _ _ x _ _ => (x % 2 ^ t.width, 0)) s

/-- VIOTA on a node (R174): the word at F0 = f holds f * epw + i. -/
def execViotaNode (s : State) : Out :=
  fireCompute (fun s f =>
    let t := f.node.r.etype
    let b := s.f0 f.task f.tag
    [(f.tag, (List.range f.len).map fun i =>
      let es := (List.range t.epw).map fun q => eIota t (nodeRnd f.node.r.rnd) (s.taskFtz f.task) ((b + i) * t.epw + q)
      (narrow (packWord t (es.map (·.1))) (f.laneP i), es.foldl (fun r e => r ||| e.2) 0))]) s

/-- VSHUF on a node (R174): P of the index word and of every source word drawn from. -/
def execVshufNode (s : State) : Out :=
  fireCompute (fun s f =>
    let t := f.node.r.etype
    let src := unpackWords t (words32 f.l)
    [(f.tag, (List.range f.len).map fun i =>
      let ks := (unpackWord t (bits32 (f.r.getD i default))).map fun (k : Nat) => shufIndex (s.fireF == 1) src.length (k : Int)
      let es := ks.map fun k => match k with
        | some k => src.getD k 0
        | none => 0
      let p := (f.r.getD i default).p || ks.any fun k => match k with
        | some k => (f.l.getD (k / t.epw) default).p
        | none => false
      (narrow (packWord t es) p, 0))]) s

/-- VREDSUM on a node (R175). -/
def execVredsumNode (s : State) : Out := redNode (fun t r ftz xs _ => eRedSum t r ftz xs) s

/-- VREDMAX on a node (R175). -/
def execVredmaxNode (s : State) : Out := redNode (fun t _ ftz xs _ => eRedSel false t ftz xs) s

/-- VREDMIN on a node (R175). -/
def execVredminNode (s : State) : Out := redNode (fun t _ ftz xs _ => eRedSel true t ftz xs) s

/-- VSCAN on a node (R176): a prefix carries P from the first word that does. -/
def execVscanNode (s : State) : Out :=
  fireCompute (fun s f =>
    let t := f.node.r.etype
    let ws := packElems t (eScan t (nodeRnd f.node.r.rnd) (s.taskFtz f.task) (unpackWords t (words32 f.l)))
    [(f.tag, (ws.zip (List.range ws.length)).map fun x =>
      (narrow x.1.1 ((f.l.take (x.2 + 1)).any (·.p)), x.1.2))]) s

/-- VDOT on a node (R175). -/
def execVdotNode (s : State) : Out := redNode eDot s

/-- A special function on a node: one type (R167, R177). -/
def sfuNode (op : SfuOp) (s : State) : Out := vecNode (fun t r ftz x _ _ => eSfu op t t r ftz x) s

/-- VEXP on a node (R177). -/
def execVexpNode (s : State) : Out := sfuNode .exp s

/-- VLOG2 on a node (R177). -/
def execVlog2Node (s : State) : Out := sfuNode .log2 s

/-- VRCP on a node (R177). -/
def execVrcpNode (s : State) : Out := sfuNode .rcp s

/-- VRSQRT on a node (R177). -/
def execVrsqrtNode (s : State) : Out := sfuNode .rsqrt s

/-- VSQRT on a node (R177). -/
def execVsqrtNode (s : State) : Out := sfuNode .sqrt s

/-- VSIG on a node (R177). -/
def execVsigNode (s : State) : Out := sfuNode .sig s

/-- VTANH on a node (R177). -/
def execVtanhNode (s : State) : Out := sfuNode .tanh s

/-- VSIN on a node (R177). -/
def execVsinNode (s : State) : Out := sfuNode .sin s

/-- VCOS on a node (R177). -/
def execVcosNode (s : State) : Out := sfuNode .cos s

end Sys2Proof.Machine
end

