-- ==== Sys2Proof/Machine/TokenOps.lean ====
section
/-! DEFINITION. The token instructions, class 7 (08_token_class.md R219-R233), and the checks of a record that need its
task (02_formats.md R72, R219). -/

namespace Sys2Proof.Machine

/-! ## Emission of parts (R213, R222) -/

/-- A word at its offset in the firing's run. -/
abbrev Item := Nat × TWord

/-- Parts of consecutive offsets that agree in null-ness and in a mark go out as tokens in ascending F0. -/
def State.emitParts (s : State) (f : Firing) (dests : List (BitVec 16)) (mark : Nat → Nat) (items : List Item) : State :=
  (runsOf (α := Item) (·.1) (fun a b => a.2.n == b.2.n && mark a.1 == mark b.1) items).foldl (fun s run =>
    s.emitAt f false (s.withF0 f.task f.tag (s.f0 f.task f.tag + (run.head?.map (·.1)).getD 0)) (run.map (·.2)) dests) s

/-- Parts of consecutive offsets and equal null-ness go out as tokens in ascending F0. -/
def State.emitItems (s : State) (f : Firing) (dests : List (BitVec 16)) (items : List Item) : State :=
  s.emitParts f dests (fun _ => 0) items

def Firing.dests (f : Firing) : List (BitVec 16) := [f.node.r.dsta, f.node.r.dstb]

/-! ## The words and tags of results -/

def lWord (f : Firing) (i : Nat) : TWord := f.l.getD i default
def rWord (f : Firing) (i : Nat) : TWord := f.r.getD i default
def cWord (f : Firing) (i : Nat) : TWord := f.c.getD i default

def lanes (f : Firing) : List Nat := List.range f.len

/-- STEER's word for one side: the data word where the control chooses it, else a null. -/
def steerWord (f : Firing) (side : Bool) (i : Nat) : TWord :=
  let x := lWord f i
  let c := rWord f i
  if x.n || c.n || (c.w != 0) != side then nullWord (f.laneP i) else { x with p := f.laneP i }

/-- GATE's word, when it emits one. -/
def gateWord (f : Firing) (i : Nat) : Option TWord :=
  let x := lWord f i
  let c := rWord f i
  if c.n then some (nullWord (f.laneP i))
  else if c.w = 0 then none
  else if x.n then some (nullWord (f.laneP i)) else some { x with p := f.laneP i }

/-- MERGE's word (R222): with a control, the word it selects, a null one too; P of any operand word (log 34). -/
def mergeWord (f : Firing) (i : Nat) : TWord :=
  let x := lWord f i
  let y := rWord f i
  let p := f.laneP i
  if f.c.isEmpty then
    if x.n then (if y.n then nullWord p else { y with p := p }) else { x with p := p }
  else if (cWord f i).n then nullWord p
  else if (cWord f i).w = 0 then { y with p := p } else { x with p := p }

/-- The tag ctx ‖ 0. -/
def ctxTag (ctx : Nat) : Word := BitVec.ofNat 64 (ctx * 2 ^ 48)

/-- The linkage of a context on a tile: its PE and entry (R226). -/
def State.linkOf (s : State) (t ctx : Nat) : Option (Nat × WEntry) :=
  (s.tileEntries t).find? fun x => ctxOf x.2.tag == ctx && match x.2.kind with
    | .linkage _ _ => true
    | _ => false

/-- The tag that TAGSET gives a word (R230). -/
def State.tagsetTag (s : State) (f : Firing) : Word :=
  let j := (f.node.r.lit32.extractLsb' 0 3).toNat
  let v := (rWord f 0).w.toNat
  if j = 6 then setField f.tag 48 16 v else putTag (s.fieldAt f.task j) f.tag v

/-- TAGGET's words (R230). -/
def State.taggetWords (s : State) (f : Firing) : List TWord :=
  let j := (f.node.r.lit32.extractLsb' 0 3).toNat
  (lanes f).map fun i =>
    let v := if j = 6 then ctxOf f.tag
      else if j = 0 then (s.f0 f.task f.tag + i) else getTag (s.fieldAt f.task j) f.tag
    narrow v (lWord f i).p

/-- CONST's words (R229). -/
def constWords (f : Firing) : List TWord := f.l.map fun x => narrow f.node.r.lit32.toNat x.p

/-! ## The start of a firing -/

/-- The tag of a class-7 firing's first result before TAGOP: CALLT, RETT, TAGSET and REPEAT give it another than the firing's. -/
def State.resultTag (s : State) (f : Firing) : Word :=
  match f.node.op with
  | .callt => ((s.freeCtx? f.task (tileOfPe f.pe)).map ctxTag).getD f.tag
  | .rett =>
      match s.linkOf (tileOfPe f.pe) (ctxOf f.tag) with
      | some (_, e) => (match e.kind with
          | .linkage tag _ => tag
          | _ => f.tag)
      | none => f.tag
  | .tagset => if f.eos || f.nul then f.tag else s.tagsetTag f
  | .repeatTok => if f.eos || f.nul then f.tag else s.withF0 f.task f.tag 0
  | _ => f.tag

/-- The words of its first result; the input words where the firing emits them or, like JOIN or RUNPACK, keeps them. -/
def State.resultWords (s : State) (f : Firing) : List TWord :=
  if f.eos then f.l ++ f.r
  else
    match f.node.op with
    | .merge => (lanes f).map (mergeWord f)
    | .steer => (lanes f).map (steerWord f true)
    | .gate => ((lanes f).filterMap (gateWord f)) ++ f.l
    | .constTok => if f.nul then f.nulls else constWords f
    | .tagget => if f.nul then f.nulls else s.taggetWords f
    | _ => f.l ++ f.r

/-- The start of a class-7 firing: sample and FIRE record, with the first result's tag and word (R467). -/
def State.beginToken (s : State) : State :=
  let f := s.cur.fir
  s.beginFire.traceFire f (s.resultTag f) (s.resultWords f)

/-- A class-7 node: E passes (R215), a null firing passes nulls where `nulls` says so (R214), else the body. -/
def fireToken (nulls : Bool) (body : State → Firing → State) (s : State) : Out :=
  let f := s.cur.fir
  let s := s.beginToken
  if f.eos then ok (s.passE f)
  else if nulls && f.nul then ok (s.emit f f.tag f.nulls)
  else ok (body s f)

/-! ## STEER, MERGE, GATE (R222) -/

/-- Where a run is divided: the truth of its control words. -/
def truthMark (ws : List TWord) (i : Nat) : Nat :=
  let c := ws.getD i default
  if c.n then 2 else if c.w = 0 then 0 else 1

/-- STEER (R222). -/
def execSteer (s : State) : Out :=
  fireToken false (fun s f =>
    let s := s.emitParts f [f.node.r.dsta] (truthMark f.r) ((lanes f).map fun i => (i, steerWord f true i))
    s.emitParts f [f.node.r.dstb] (truthMark f.r) ((lanes f).map fun i => (i, steerWord f false i))) s

/-- GATE (R222). -/
def execGate (s : State) : Out :=
  fireToken false (fun s f =>
    s.emitParts f f.dests (truthMark f.r) ((lanes f).filterMap fun i => (gateWord f i).map fun w => (i, w))) s

/-- MERGE (R222). -/
def execMerge (s : State) : Out :=
  fireToken false (fun s f =>
    s.emitParts f f.dests (if f.c.isEmpty then fun _ => 0 else truthMark f.c) ((lanes f).map fun i => (i, mergeWord f i))) s

/-! ## Loops (R223-R225) -/

/-- The instance key: the tag with Fk := 0. -/
def State.loopKey (s : State) (f : Firing) : Word := putTag (s.fieldAt f.task f.node.r.k.toNat) f.tag 0

def State.loopIter (s : State) (f : Firing) : Nat := getTag (s.fieldAt f.task f.node.r.k.toNat) f.tag

def State.loopMod (s : State) (f : Firing) : Nat := 2 ^ (s.fieldAt f.task f.node.r.k.toNat).1

/-- The loop entry of an instance of the LOOPENT at an element. -/
def State.loopEntry (s : State) (pe slot : Nat) (key : Word) : Option WEntry :=
  (s.pe pe).entry? fun e => e.slot == slot && e.tag == key && match e.kind with
    | .loop _ _ _ => true
    | _ => false

/-- The element of the LOOPENT a WAVE or LOOPEXIT names (R219). -/
def State.loopSlot (s : State) (f : Firing) : Nat := s.nodeKey f.task f.pe (f.node.r.lit32.extractLsb' 2 10).toNat

/-- The bound kk of a LOOPENT. -/
def State.loopBound (s : State) (slot : Nat) : Nat :=
  match (s.element? slot).bind NodeSlot.rcd with
  | some x => (x.r.lit32.extractLsb' 0 7).toNat
  | none => 0

/-- The window moves past retired iterations. -/
def shiftWindow (m : Nat) : Nat → Nat → List Nat → Nat × List Nat
  | 0, b, r => (b, r)
  | n + 1, b, r => if r.contains 0 then shiftWindow m n ((b + 1) % m) ((r.erase 0).map (· - 1)) else (b, r)

/-- Free a closed instance whose exit iteration has retired (R223, R225). -/
def State.settleLoop (s : State) (pe m : Nat) (e : WEntry) : State :=
  match e.kind with
  | .loop b _ (some x) => if b = (x + 1) % m then s.dropEntry pe e else s
  | _ => s

/-- WAVE words parked for an instance that its window now admits, in ascending Fk, become ready (R223, R224). -/
def State.releaseParked (s : State) (f : Firing) (slot : Nat) (key : Word) (b kk m : Nat) : State :=
  let fl := s.fieldAt f.task f.node.r.k.toNat
  let mine := (s.pe f.pe).entries.filter fun e =>
    e.kind == .parkedWave && putTag fl e.tag 0 == key && decide ((getTag fl e.tag + 1 + m - b) % m < kk) &&
      match (s.element? e.slot).bind NodeSlot.rcd with
      | some x => s.nodeKey f.task f.pe (x.r.lit32.extractLsb' 2 10).toNat == slot
      | none => false
  (sortByField (getTag fl) mine).foldl (fun s e =>
    match (s.element? e.slot).bind NodeSlot.rcd with
    | none => s
    | some x =>
        (s.dropEntry f.pe e).readyFiring
          { f with slot := e.slot, tag := e.tag, port := 0, l := e.words, r := [], c := [], node := x, wait := none }) s
where
  /-- Entries in ascending order of a tag field. -/
  sortByField (g : Word → Nat) : List WEntry → List WEntry
    | [] => []
    | e :: es => insertE g e (sortByField g es)
  insertE (g : Word → Nat) (e : WEntry) : List WEntry → List WEntry
    | [] => [e]
    | x :: xs => if g e.tag ≤ g x.tag then e :: x :: xs else x :: insertE g e xs

/-- LOOPENT's entry port (R223). -/
def loopEnter (s : State) (f : Firing) : State :=
  let key := s.loopKey f
  if f.nul then s.emit f f.tag f.nulls
  else if (s.loopEntry f.pe f.slot key).isSome then s.flowRecord f 4 0
  else
    let r := s.placeOf f.pe (s.newEntry f.pe f.task f.slot 0 f.seq key (.loop 0 [] none) []) f.tag f.l
    if r.1 then r.2.emit f f.tag f.l else r.2

/-- LOOPENT's retire port (R223). -/
def loopRetire (s : State) (f : Firing) : State :=
  let key := s.loopKey f
  let kk := s.loopBound f.slot
  let m := s.loopMod f
  match s.loopEntry f.pe f.slot key with
  | none => s.flowRecord f 3 0
  | some e =>
      match e.kind with
      | .loop b r x =>
          let off := (s.loopIter f + m - b) % m
          if kk ≤ off ∨ r.contains off then s.flowRecord f 5 0
          else
            let w := shiftWindow m 64 b (r ++ [off])
            let e' := { e with kind := .loop w.1 w.2 x }
            let s := s.swapEntry f.pe e e'
            (s.releaseParked f f.slot key w.1 kk m).settleLoop f.pe m e'
      | _ => s

/-- LOOPENT (R223): each port fires alone; an E passes from L and ends on R (log 12). -/
def execLoopent (s : State) : Out :=
  let f := s.cur.fir
  let s := s.beginToken
  if f.eos then ok (if f.port = 0 then s.passE f else s)
  else ok ((s.scalars f).foldl (fun s g => if f.port = 0 then loopEnter s g else loopRetire s g) s)

/-- WAVE on one word (R224). -/
def waveWord (s : State) (f : Firing) : State :=
  let slot := s.loopSlot f
  let m := s.loopMod f
  if f.nul then s
  else
    match s.loopEntry f.pe slot (s.loopKey f) with
    | none => s.flowRecord f 3 0
    | some e =>
        match e.kind with
        | .loop _ _ (some _) => s.flowRecord f 3 0
        | .loop b _ none =>
            if (s.loopIter f + 1 + m - b) % m < s.loopBound slot then s.emit f f.tag f.l
            else (s.place f.pe (s.newEntry f.pe f.task f.slot 0 f.seq f.tag .parkedWave f.l)).2
        | _ => s

/-- WAVE (R224). -/
def execWave (s : State) : Out := fireToken false (fun s f => (s.scalars f).foldl waveWord s) s

/-- LOOPEXIT on one word (R225). -/
def exitWord (s : State) (f : Firing) : State :=
  let slot := s.loopSlot f
  if f.nul then s
  else
    match s.loopEntry f.pe slot (s.loopKey f) with
    | none => s.flowRecord f 3 0
    | some e =>
        match e.kind with
        | .loop b r none =>
            let e' := { e with kind := .loop b r (some (s.loopIter f)) }
            ((s.swapEntry f.pe e e').emit f f.tag f.l).settleLoop f.pe (s.loopMod f) e'
        | _ => s.flowRecord f 3 0

/-- LOOPEXIT (R225). -/
def execLoopexit (s : State) : Out := fireToken false (fun s f => (s.scalars f).foldl exitWord s) s

/-! ## Calls (R226, R227) -/

/-- A word of a called run as emitted, with its own port's flags. -/
def State.callEmit (s : State) (f : Firing) (tag : Word) (ws : List TWord) (d : BitVec 16) : State :=
  if f.eos then s.emitAt f true tag [countWord f.eCount f.anyP] [d] else s.emitAt f false tag ws [d]

/-- CALLT's call, or its wait for a context (R226). The link token's word is the context id, which no operand carries, so its P is
clear (log 112; DESIGN CHOICE: the rule does not say). -/
def State.callGo (s : State) (f : Firing) : State :=
  let t := tileOfPe f.pe
  match s.freeCtx? f.task t with
  | none => (s.place f.pe (s.newEntry f.pe f.task f.slot 0 f.seq f.tag (.callWait f s.nextId) [])).2.fresh
  | some ctx =>
      let r := s.placeOf f.pe
        (s.newEntry f.pe f.task f.slot 0 f.seq (ctxTag ctx) (.linkage f.tag (f.node.r.lit32.extractLsb' 0 16)) []) f.tag (f.l ++ f.r)
      if !r.1 then r.2
      else
        let s := r.2.drawCtx f.task t ctx
        let s := s.callEmit f (ctxTag ctx) f.l f.node.r.dsta
        if f.node.r.arity = .two then s.callEmit f (ctxTag ctx) f.r f.node.r.dstb
        else s.emitAt f false f.tag [narrow ctx false] [f.node.r.dstb]

/-- CALLT (R226): a null still calls. -/
def execCallt (s : State) : Out :=
  let f := s.cur.fir
  ok (s.beginToken.callGo f)

/-- The oldest call that waits for a context of a task on a tile. -/
def State.waitingCall (s : State) (k t : Nat) : Option (Nat × WEntry) :=
  ((s.tileEntries t).filter fun x => x.2.task == k && match x.2.kind with
    | .callWait _ _ => true
    | _ => false).foldl (fun b x => match b with
      | none => some x
      | some y => if callOrder x.2 < callOrder y.2 then some x else some y) none
where
  /-- Its place among the waiting calls. -/
  callOrder (e : WEntry) : Nat :=
    match e.kind with
    | .callWait _ n => n
    | _ => 0

/-- A freed id completes the oldest waiting call (R226). -/
def State.serveCall (s : State) (k t : Nat) : State :=
  match s.waitingCall k t with
  | none => s
  | some (pe, e) =>
      match e.kind with
      | .callWait f _ => (s.dropEntry pe e).callGo f
      | _ => s

/-- Free the context of a firing: what waits in it is discarded and counted (R227). -/
def State.freeCtxOf (s : State) (f : Firing) : State :=
  let t := tileOfPe f.pe
  let c := ctxOf f.tag
  let s := match s.linkOf t c with
    | some (pe, e) => s.dropEntry pe e
    | none => s
  let n := (s.ctxEntries t c).length
  let s := s.releaseCtx t c
  let s := if n = 0 then s else s.flowRecord f 1 n
  s.serveCall f.task t

/-- RETT (R227). -/
def execRett (s : State) : Out :=
  let f := s.cur.fir
  let s := s.beginToken
  match s.linkOf (tileOfPe f.pe) (ctxOf f.tag) with
  | none => ok (s.flowRecord f 2 0)
  | some (pe, e) =>
      match e.kind with
      | .linkage tag dest =>
          if s.entryBad pe e then
            ok (((s.entryEcc pe e).callEmit f tag (f.l.map fun w => { w with p := true }) dest).freeCtxOf f)
          else ok ((s.callEmit f tag f.l dest).freeCtxOf f)
      | _ => ok s

/-- FREECTX (R227); an E does nothing there (R215). -/
def execFreectx (s : State) : Out :=
  let f := s.cur.fir
  let s := s.beginToken
  if f.eos then ok s
  else
    match s.linkOf (tileOfPe f.pe) (ctxOf f.tag) with
    | none => ok (s.flowRecord f 2 0)
    | some _ => ok (s.freeCtxOf f)

/-! ## REPEAT, CONST, DUP, JOIN (R228, R229) -/

/-- Runs of 32 aligned on F0 multiples of 32: the value under every F0 below n. -/
def repeatGo (f : Firing) (w : TWord) (n : Nat) : Nat → Nat → State → State
  | 0, _, s => s
  | fuel + 1, a, s =>
      if n ≤ a then s
      else repeatGo f w n fuel (a + 32) (s.emit f (s.withF0 f.task f.tag a) (List.replicate (min 32 (n - a)) w))

/-- REPEAT on one value (R228): what the count word governs carries its P beside L's (R39, R113). -/
def repeatWord (s : State) (f : Firing) : State :=
  let w := { lWord f 0 with p := f.laneP 0 }
  let n := if f.node.r.lit then f.node.r.lit32.toNat else (rWord f 0).w.toNat % 2 ^ 32
  let m := 2 ^ (s.fieldAt f.task 0).1
  let k := min n m
  let s := repeatGo f w k (k / 32 + 1) 0 s
  let s := if m < n then
      s.peRecord f.pe f.task (s.relNode f.task f.slot) cStreamLength f.tag (BitVec.ofNat 64 (m + n % 2 ^ 32 * 2 ^ 32)) 0 0 0
    else s
  s.emitE f f.tag k (w.p || decide (m < n))

/-- REPEAT (R228): a null L emits a single null. The words of a run are repeated one after another, each over F0 from 0 on (log 112;
DESIGN CHOICE: the rule speaks of one value). -/
def execRepeatTok (s : State) : Out := fireToken true (fun s f => (s.scalars f).foldl repeatWord s) s

/-- CONST (R229). -/
def execConstTok (s : State) : Out :=
  fireToken true (fun s f => s.emit f f.tag (constWords f)) s

/-- DUP (R229): to DSTA, DSTB, the third and the fourth destination. -/
def execDup (s : State) : Out :=
  let f := s.cur.fir
  let s := s.beginToken
  ok (s.emitAt f f.eos f.tag f.l (f.dests ++ [f.node.r.lit32.extractLsb' 0 16, f.node.r.lit32.extractLsb' 16 16]))

/-- JOIN counting one word (R229). A count entry that finds no place is reported with this one word's token (R209; DESIGN CHOICE,
log 112). -/
def joinWord (s : State) (f : Firing) : State :=
  let w := lWord f 0
  let n := (f.node.r.lit32.extractLsb' 0 16).toNat
  let found := (s.pe f.pe).entry? fun e => e.slot == f.slot && e.tag == f.tag && match e.kind with
    | .count _ _ _ _ => true
    | _ => false
  let c := match found with
    | some e => (match e.kind with
        | .count a b _ p => (a + 1, b + (if w.n then 0 else 1), p || w.p || s.entryBad f.pe e)
        | _ => (1, 0, false))
    | none => (1, (if w.n then 0 else 1), w.p)
  let s := match found with
    | some e => if s.entryBad f.pe e then s.entryEcc f.pe e else s
    | none => s
  if n ≤ c.1 then
    let s := match found with
      | some e => s.dropEntry f.pe e
      | none => s
    s.emit f f.tag [{ narrow c.2.1 c.2.2 with n := c.2.1 == 0 }]
  else
    let kind := WKind.count c.1 c.2.1 0 c.2.2
    match found with
    | some e => s.swapEntry f.pe e { e with kind := kind }
    | none => (s.placeOf f.pe (s.newEntry f.pe f.task f.slot 0 f.seq f.tag kind []) f.tag [w]).2

/-- JOIN (R229). -/
def execJoinTok (s : State) : Out :=
  fireToken false (fun s f =>
    if f.node.r.arity = .one then (s.scalars f).foldl joinWord s
    else if f.nul then s.emit f f.tag f.nulls
    else s.emit f f.tag ((lanes f).map fun i => { lWord f i with p := f.laneP i })) s

/-! ## TAGGET, TAGSET (R230) -/

/-- TAGGET (R230). -/
def execTagget (s : State) : Out := fireToken true (fun s f => s.emit f f.tag (s.taggetWords f)) s

/-- TAGSET on one word (R230). -/
def tagsetWord (s : State) (f : Firing) : State := s.emit f (s.tagsetTag f) [{ lWord f 0 with p := f.laneP 0 }]

/-- TAGSET (R230). -/
def execTagset (s : State) : Out := fireToken true (fun s f => (s.scalars f).foldl tagsetWord s) s

/-! ## SEND and RECV (R231, R232) -/

/-- SEND of a run to one tile; outside the region or to a memory tile it is discarded with a record (R231). -/
def sendRun (s : State) (f : Firing) (idx : Nat) (ws : List TWord) : State :=
  let tile := dieOfTile (tileOfPe f.pe) * 256 + idx
  if isMemTile tile ∨ !(s.region f.task).contains tile then s.fireRecord f cAccessFault (BitVec.ofNat 64 idx)
  else
    let r := s.actTag f.task f.node.r f.eos f.tag ws
    s.emitTo f f.node.r.run f.eos r.1 r.2 (f.node.r.lit32.extractLsb' 16 16) (some tile)

/-- SEND (R231): with ARITY 10 each word names its tile: a run goes word by word, TAGOP and RUN included; a null word's tile is the
one its low bits name; an E, with which no R word comes, goes to the tile of LIT32[7:0] (R215; DESIGN CHOICE, log 119). -/
def execSendTok (s : State) : Out :=
  let f := s.cur.fir
  let s := s.beginToken
  let lit := (f.node.r.lit32.extractLsb' 0 8).toNat
  if f.eos then ok (sendRun s f lit f.l)
  else if f.node.r.arity = .two then
    ok ((s.scalars f).foldl (fun s g =>
      sendRun s g ((rWord g 0).w.toNat % 256) (g.l.map fun x => { x with p := g.laneP 0, n := x.n || g.nul })) s)
  else ok (sendRun s f lit f.l)

/-- RECV (R232). -/
def execRecv (s : State) : Out := fireToken true (fun s f => s.emit f f.tag f.l) s

/-- MAILBOX_SCAN (R232): the RECV at an entry of a PE takes the next published record. -/
def execMailboxScan (pe node : Nat) (s : State) : Out :=
  let slot := pe * 1024 + node
  let t := tileOfPe pe
  match s.element? slot with
  | none => ok s
  | some e =>
      match e.rcd with
      | none => ok s
      | some x =>
          if x.op != .recv || s.stopped t || s.inputHeld t e.task then ok s
          else
            let a := (x.r.lit32.extractLsb' 0 24).toNat
            let n := 2 ^ (x.r.lit32.extractLsb' 24 4).toNat
            let tail := s.poolLoad t a 4
            let head := s.poolLoad t (a + 4) 4
            if tail = head ∨ !poolOk s (some e.task) t a (16 + 16 * n) false then ok s
            else
              let q := a + 16 + 16 * (head % n)
              let flags := s.poolLoad t (q + 12) 1
              let w : TWord := { w := BitVec.ofNat 64 (s.poolLoad t (q + 8) 4), p := false, n := flags.testBit 0, wide := false }
              let dest := BitVec.ofNat 16 (pe % 16 * 4096 + s.relNode e.task slot * 4)
              let tok : Token := { tag := BitVec.ofNat 64 (s.poolLoad t q 8), dest := dest, words := [w], eos := flags.testBit 1 }
              ok ((s.toInput pe (2 ^ 41 + slot) tok).poolWriteNat t (a + 4) 4 ((head + 1) % 2 ^ 32))

/-! ## EOS, RUNPACK, RUNSPLIT (R233) -/

/-- EOS (R233). -/
def execEos (s : State) : Out :=
  fireToken true (fun s f => (s.scalars f).foldl (fun s g => s.emitE g g.tag ((lWord g 0).w.toNat % 2 ^ 32) (lWord g 0).p) s) s

/-- RUNSPLIT (R233): cut at every multiple of n in F0. -/
def execRunsplit (s : State) : Out :=
  fireToken false (fun s f =>
    let n := (f.node.r.lit32.extractLsb' 0 6).toNat
    let b := s.f0 f.task f.tag
    (runsOf (α := Item) (·.1) (fun a c => (b + a.1) / n == (b + c.1) / n)
      ((lanes f).map fun i => (i, lWord f i))).foldl (fun s run =>
        s.emit f (s.withF0 f.task f.tag (b + (run.head?.map (·.1)).getD 0)) (run.map (·.2))) s) s

/-- The gathered words of a group: its entry, keyed by the tag with F0 div n. -/
def State.groupEntry (s : State) (pe slot : Nat) (key : Word) : Option WEntry :=
  (s.pe pe).entry? fun e => e.slot == slot && e.tag == key && match e.kind with
    | .gathered _ none => true
    | _ => false

/-- The E tokens that wait for the last words of a stream, earliest first. -/
def State.endEntries (s : State) (pe slot : Nat) (key : Word) : List WEntry :=
  (s.pe pe).entries.filter fun e => e.slot == slot && e.tag == key && match e.kind with
    | .gathered _ (some _) => true
    | _ => false

/-- The earliest word at each F0 of a list, when all are there, and what is left. -/
def takeEach (ws : List (Nat × TWord)) : List Nat → Option (List Item × List (Nat × TWord))
  | [] => some ([], ws)
  | f :: fs =>
      match ws.find? fun w => w.1 == f with
      | none => none
      | some w => (takeEach (ws.erase w) fs).map fun r => (w :: r.1, r.2)

/-- Emit the words lo to hi - 1 of a group as a run. -/
def State.emitGroup (s : State) (f : Firing) (e : WEntry) (lo n : Nat) : Option State :=
  match e.kind with
  | .gathered ws none =>
      match takeEach ws ((List.range n).map fun i => lo + i) with
      | none => none
      | some (run, rest) =>
          let bad := s.entryBad f.pe e
          let run := if bad then run.map fun x => (x.1, { x.2 with p := true }) else run
          let s := if bad then s.entryEcc f.pe e else s
          let s := if rest.isEmpty then s.dropEntry f.pe e else s.swapEntry f.pe e { e with kind := .gathered rest none }
          let g := { f with tag := s.withF0 f.task f.tag 0 }
          some (s.emitItems g f.dests run)
  | _ => none

/-- One E of a stream leaves once the words before it have left. -/
def endGo (f : Firing) (n : Nat) (s : State) (e : WEntry) : State :=
  let key := s.keyOf f.task f.tag
  match e.kind with
  | .gathered _ (some (c, p)) =>
      if c % n = 0 then (s.dropEntry f.pe e).emitE f key c p
      else
        match s.groupEntry f.pe f.slot (s.withF0 f.task f.tag (c / n)) with
        | none => s
        | some g =>
            match s.emitGroup f g (c / n * n) (c % n) with
            | none => s
            | some s => (s.dropEntry f.pe e).emitE f key c p
  | _ => s

/-- Every E that waits for the stream is looked at, in the order of arrival (R215, R233). -/
def State.packTail (s : State) (f : Firing) (n : Nat) : State :=
  (s.endEntries f.pe f.slot (s.keyOf f.task f.tag)).foldl (endGo f n) s

/-- RUNPACK on one word (R233). A group that finds no place is reported with this one word's token, and the next words go on (R209;
DESIGN CHOICE, log 112). -/
def packWordTok (n : Nat) (s : State) (f : Firing) : State :=
  let b := s.f0 f.task f.tag
  let key := s.withF0 f.task f.tag (b / n)
  let w := lWord f 0
  let r := match s.groupEntry f.pe f.slot key with
    | some e =>
        let e' := { e with kind := match e.kind with
          | .gathered ws x => .gathered (ws ++ [(b, w)]) x
          | k => k }
        (some e', s.swapEntry f.pe e e')
    | none =>
        let r := s.placeOf f.pe (s.newEntry f.pe f.task f.slot 0 f.seq key (.gathered [(b, w)] none) []) f.tag [w]
        (r.2.groupEntry f.pe f.slot key, r.2)
  match r.1 with
  | none => r.2
  | some e => ((r.2.emitGroup f e (b / n * n) n).getD r.2).packTail f n

/-- RUNPACK (R233). -/
def execRunpack (s : State) : Out :=
  let f := s.cur.fir
  let s := s.beginToken
  let n := (f.node.r.lit32.extractLsb' 0 6).toNat
  if f.eos then
    let key := s.keyOf f.task f.tag
    let r := s.placeOf f.pe (s.newEntry f.pe f.task f.slot 0 f.seq key (.gathered [] (some (f.eCount, f.anyP))) []) f.tag f.l
    ok (r.2.packTail f n)
  else ok ((s.scalars f).foldl (packWordTok n) s)

end Sys2Proof.Machine
end

