-- ==== Sys2Proof/Machine/Dispatch.lean ====
section
/-! DEFINITION. The dispatch: one arm per instruction, each one direct call of its meaning. -/

namespace Sys2Proof.Machine

def exec (i : Instr) (s : State) : Host.Outcome State Fault Refusal :=
  match i with
  | .add o => Sys2Proof.Machine.execAdd o s
  | .sub o => Sys2Proof.Machine.execSub o s
  | .addi o => Sys2Proof.Machine.execAddi o s
  | .mul o => Sys2Proof.Machine.execMul o s
  | .div o => Sys2Proof.Machine.execDiv o s
  | .rem o => Sys2Proof.Machine.execRem o s
  | .andA o => Sys2Proof.Machine.execAndA o s
  | .orA o => Sys2Proof.Machine.execOrA o s
  | .xorA o => Sys2Proof.Machine.execXorA o s
  | .andn o => Sys2Proof.Machine.execAndn o s
  | .shl o => Sys2Proof.Machine.execShl o s
  | .shr o => Sys2Proof.Machine.execShr o s
  | .rotl o => Sys2Proof.Machine.execRotl o s
  | .clz o => Sys2Proof.Machine.execClz o s
  | .popc o => Sys2Proof.Machine.execPopc o s
  | .min o => Sys2Proof.Machine.execMin o s
  | .max o => Sys2Proof.Machine.execMax o s
  | .setCond o => Sys2Proof.Machine.execSetCond o s
  | .sel o => Sys2Proof.Machine.execSel o s
  | .movi o => Sys2Proof.Machine.execMovi o s
  | .bfx o => Sys2Proof.Machine.execBfx o s
  | .bfi o => Sys2Proof.Machine.execBfi o s
  | .lea o => Sys2Proof.Machine.execLea o s
  | .br o => Sys2Proof.Machine.execBr o s
  | .brp o => Sys2Proof.Machine.execBrp o s
  | .bri o => Sys2Proof.Machine.execBri o s
  | .call o => Sys2Proof.Machine.execCall o s
  | .ret o => Sys2Proof.Machine.execRet o s
  | .pset o => Sys2Proof.Machine.execPset o s
  | .plogic o => Sys2Proof.Machine.execPlogic o s
  | .tstart o => Sys2Proof.Machine.execTstart o s
  | .tstop o => Sys2Proof.Machine.execTstop o s
  | .tid o => Sys2Proof.Machine.execTid o s
  | .nop o => Sys2Proof.Machine.execNop o s
  | .waitf o => Sys2Proof.Machine.execWaitf o s
  | .fadd o => Sys2Proof.Machine.execFadd o s
  | .fsub o => Sys2Proof.Machine.execFsub o s
  | .fmul o => Sys2Proof.Machine.execFmul o s
  | .ffma o => Sys2Proof.Machine.execFfma o s
  | .fdiv o => Sys2Proof.Machine.execFdiv o s
  | .fsqrt o => Sys2Proof.Machine.execFsqrt o s
  | .fmin o => Sys2Proof.Machine.execFmin o s
  | .fmax o => Sys2Proof.Machine.execFmax o s
  | .fcmp o => Sys2Proof.Machine.execFcmp o s
  | .fcvt o => Sys2Proof.Machine.execFcvt o s
  | .fclass o => Sys2Proof.Machine.execFclass o s
  | .mshape o => Sys2Proof.Machine.execMshape o s
  | .mma o => Sys2Proof.Machine.execMma o s
  | .mmaz o => Sys2Proof.Machine.execMmaz o s
  | .mmas o => Sys2Proof.Machine.execMmas o s
  | .mmax o => Sys2Proof.Machine.execMmax o s
  | .mzero o => Sys2Proof.Machine.execMzero o s
  | .mout o => Sys2Proof.Machine.execMout o s
  | .mtrn o => Sys2Proof.Machine.execMtrn o s
  | .mfetch o => Sys2Proof.Machine.execMfetch o s
  | .ld o => Sys2Proof.Machine.execLd o s
  | .st o => Sys2Proof.Machine.execSt o s
  | .ldp o => Sys2Proof.Machine.execLdp o s
  | .stp o => Sys2Proof.Machine.execStp o s
  | .isread o => Sys2Proof.Machine.execIsread o s
  | .iswrite o => Sys2Proof.Machine.execIswrite o s
  | .isclr o => Sys2Proof.Machine.execIsclr o s
  | .pref o => Sys2Proof.Machine.execPref o s
  | .cflush o => Sys2Proof.Machine.execCflush o s
  | .cinv o => Sys2Proof.Machine.execCinv o s
  | .copy o => Sys2Proof.Machine.execCopy o s
  | .copy2d o => Sys2Proof.Machine.execCopy2d o s
  | .gather o => Sys2Proof.Machine.execGather o s
  | .scatter o => Sys2Proof.Machine.execScatter o s
  | .mcast o => Sys2Proof.Machine.execMcast o s
  | .chopen o => Sys2Proof.Machine.execChopen o s
  | .chclose o => Sys2Proof.Machine.execChclose o s
  | .tlread o => Sys2Proof.Machine.execTlread o s
  | .tlwait o => Sys2Proof.Machine.execTlwait o s
  | .uiarm o => Sys2Proof.Machine.execUiarm o s
  | .uiret o => Sys2Proof.Machine.execUiret o s
  | .aadd o => Sys2Proof.Machine.execAadd o s
  | .afadd o => Sys2Proof.Machine.execAfadd o s
  | .amin o => Sys2Proof.Machine.execAmin o s
  | .amax o => Sys2Proof.Machine.execAmax o s
  | .aand o => Sys2Proof.Machine.execAand o s
  | .aor o => Sys2Proof.Machine.execAor o s
  | .axor o => Sys2Proof.Machine.execAxor o s
  | .aswap o => Sys2Proof.Machine.execAswap o s
  | .acas o => Sys2Proof.Machine.execAcas o s
  | .aredn o => Sys2Proof.Machine.execAredn o s
  | .fence o => Sys2Proof.Machine.execFence o s
  | .scopew o => Sys2Proof.Machine.execScopew o s
  | .scoper o => Sys2Proof.Machine.execScoper o s
  | .scopekill o => Sys2Proof.Machine.execScopekill o s
  | .widen o => Sys2Proof.Machine.execWiden o s
  | .bar o => Sys2Proof.Machine.execBar o s
  | .barwait o => Sys2Proof.Machine.execBarwait o s
  | .tspawn o => Sys2Proof.Machine.execTspawn o s
  | .tdec o => Sys2Proof.Machine.execTdec o s
  | .tsucc o => Sys2Proof.Machine.execTsucc o s
  | .ginst o => Sys2Proof.Machine.execGinst o s
  | .gfree o => Sys2Proof.Machine.execGfree o s
  | .tdone o => Sys2Proof.Machine.execTdone o s
  | .tquery o => Sys2Proof.Machine.execTquery o s
  | .ttwrite o => Sys2Proof.Machine.execTtwrite o s
  | .targ o => Sys2Proof.Machine.execTarg o s
  | .sxsel o => Sys2Proof.Machine.execSxsel o s
  | .sxapp o => Sys2Proof.Machine.execSxapp o s
  | .sxprop o => Sys2Proof.Machine.execSxprop o s
  | .sxlen o => Sys2Proof.Machine.execSxlen o s
  | .sxsave o => Sys2Proof.Machine.execSxsave o s
  | .sxload o => Sys2Proof.Machine.execSxload o s
  | .sxwin o => Sys2Proof.Machine.execSxwin o s
  | .sxclr o => Sys2Proof.Machine.execSxclr o s
  | .btprop o => Sys2Proof.Machine.execBtprop o s
  | .btcommit o => Sys2Proof.Machine.execBtcommit o s
  | .btread o => Sys2Proof.Machine.execBtread o s
  | .tkmerge o => Sys2Proof.Machine.execTkmerge o s
  | .rngdraw o => Sys2Proof.Machine.execRngdraw o s
  | .vocchk o => Sys2Proof.Machine.execVocchk o s
  | .trap o => Sys2Proof.Machine.execTrap o s
  | .eret o => Sys2Proof.Machine.execEret o s
  | .mrd o => Sys2Proof.Machine.execMrd o s
  | .mwr o => Sys2Proof.Machine.execMwr o s
  | .halt o => Sys2Proof.Machine.execHalt o s
  | .tlbinv o => Sys2Proof.Machine.execTlbinv o s
  | .ctxsave o => Sys2Proof.Machine.execCtxsave o s
  | .ctxload o => Sys2Proof.Machine.execCtxload o s
  | .pwrhint o => Sys2Proof.Machine.execPwrhint o s
  | .swint o => Sys2Proof.Machine.execSwint o s
  | .replay o => Sys2Proof.Machine.execReplay o s
  | .bkpt o => Sys2Proof.Machine.execBkpt o s
  | .watch o => Sys2Proof.Machine.execWatch o s
  | .trace o => Sys2Proof.Machine.execTrace o s
  | .mark o => Sys2Proof.Machine.execMark o s
  | .histrd o => Sys2Proof.Machine.execHistrd o s
  | .histclr o => Sys2Proof.Machine.execHistclr o s
  | .vadd o => Sys2Proof.Machine.execVadd o s
  | .vsub o => Sys2Proof.Machine.execVsub o s
  | .vmul o => Sys2Proof.Machine.execVmul o s
  | .vfma o => Sys2Proof.Machine.execVfma o s
  | .vmin o => Sys2Proof.Machine.execVmin o s
  | .vmax o => Sys2Proof.Machine.execVmax o s
  | .vabs o => Sys2Proof.Machine.execVabs o s
  | .vneg o => Sys2Proof.Machine.execVneg o s
  | .vcmp o => Sys2Proof.Machine.execVcmp o s
  | .vsel o => Sys2Proof.Machine.execVsel o s
  | .vand o => Sys2Proof.Machine.execVand o s
  | .vor o => Sys2Proof.Machine.execVor o s
  | .vxor o => Sys2Proof.Machine.execVxor o s
  | .vshl o => Sys2Proof.Machine.execVshl o s
  | .vshr o => Sys2Proof.Machine.execVshr o s
  | .vcvt o => Sys2Proof.Machine.execVcvt o s
  | .vqnt o => Sys2Proof.Machine.execVqnt o s
  | .vpack o => Sys2Proof.Machine.execVpack o s
  | .vunpack o => Sys2Proof.Machine.execVunpack o s
  | .vclamp o => Sys2Proof.Machine.execVclamp o s
  | .vmov o => Sys2Proof.Machine.execVmov o s
  | .viota o => Sys2Proof.Machine.execViota o s
  | .vshuf o => Sys2Proof.Machine.execVshuf o s
  | .vredsum o => Sys2Proof.Machine.execVredsum o s
  | .vredmax o => Sys2Proof.Machine.execVredmax o s
  | .vredmin o => Sys2Proof.Machine.execVredmin o s
  | .vscan o => Sys2Proof.Machine.execVscan o s
  | .vdot o => Sys2Proof.Machine.execVdot o s
  | .vexp o => Sys2Proof.Machine.execVexp o s
  | .vlog2 o => Sys2Proof.Machine.execVlog2 o s
  | .vrcp o => Sys2Proof.Machine.execVrcp o s
  | .vrsqrt o => Sys2Proof.Machine.execVrsqrt o s
  | .vsqrt o => Sys2Proof.Machine.execVsqrt o s
  | .vsig o => Sys2Proof.Machine.execVsig o s
  | .vtanh o => Sys2Proof.Machine.execVtanh o s
  | .vsin o => Sys2Proof.Machine.execVsin o s
  | .vcos o => Sys2Proof.Machine.execVcos o s
  | .topk o => Sys2Proof.Machine.execTopk o s
  | .waitfSatisfied => Sys2Proof.Machine.execWaitfSatisfied s
  | .waitfTimeout => Sys2Proof.Machine.execWaitfTimeout s
  | .deferredTrapEntry => Sys2Proof.Machine.execDeferredTrapEntry s
  | .userInterruptTake => Sys2Proof.Machine.execUserInterruptTake s
  | .preemptInterruptTake => Sys2Proof.Machine.execPreemptInterruptTake s
  | .vectorEngineTake tile => Sys2Proof.Machine.execVectorEngineTake tile s
  | .vectorCommandComplete tile => Sys2Proof.Machine.execVectorCommandComplete tile s
  | .matrixEngineTake tile => Sys2Proof.Machine.execMatrixEngineTake tile s
  | .matrixOperationComplete tile k => Sys2Proof.Machine.execMatrixOperationComplete tile k s
  | .tokenArrival pe k => Sys2Proof.Machine.execTokenArrival pe k s
  | .deepLookupComplete pe set => Sys2Proof.Machine.execDeepLookupComplete pe set s
  | .matchingWayRefill pe set => Sys2Proof.Machine.execMatchingWayRefill pe set s
  | .firingWeightUpdate pe => Sys2Proof.Machine.execFiringWeightUpdate pe s
  | .packerFlush pe k => Sys2Proof.Machine.execPackerFlush pe k s
  | .requestAdmit r => Sys2Proof.Machine.execRequestAdmit r s
  | .translationWalkComplete r => Sys2Proof.Machine.execTranslationWalkComplete r s
  | .regionAccessApply r => Sys2Proof.Machine.execRegionAccessApply r s
  | .structureOperationApply r => Sys2Proof.Machine.execStructureOperationApply r s
  | .cacheBankFill r => Sys2Proof.Machine.execCacheBankFill r s
  | .memoryReplyArrival r => Sys2Proof.Machine.execMemoryReplyArrival r s
  | .requestRetry r => Sys2Proof.Machine.execRequestRetry r s
  | .copyEngineTake tile => Sys2Proof.Machine.execCopyEngineTake tile s
  | .gatherEngineTake tile => Sys2Proof.Machine.execGatherEngineTake tile s
  | .engineCommandComplete tile k => Sys2Proof.Machine.execEngineCommandComplete tile k s
  | .atomicApply r => Sys2Proof.Machine.execAtomicApply r s
  | .combiningJoin r q => Sys2Proof.Machine.execCombiningJoin r q s
  | .combinedReplySplit b => Sys2Proof.Machine.execCombinedReplySplit b s
  | .combinedFaultCopy b => Sys2Proof.Machine.execCombinedFaultCopy b s
  | .reproContributionArrival r => Sys2Proof.Machine.execReproContributionArrival r s
  | .reproGroupAbandon k => Sys2Proof.Machine.execReproGroupAbandon k s
  | .barrierArrivalApply r => Sys2Proof.Machine.execBarrierArrivalApply r s
  | .scopeMarkArrival k => Sys2Proof.Machine.execScopeMarkArrival k s
  | .scopeMarkAcknowledge tile k => Sys2Proof.Machine.execScopeMarkAcknowledge tile k s
  | .scopeInstallArrival k => Sys2Proof.Machine.execScopeInstallArrival k s
  | .scopeMissReply r => Sys2Proof.Machine.execScopeMissReply r s
  | .missRingReissue tile k => Sys2Proof.Machine.execMissRingReissue tile k s
  | .decrementArrival k => Sys2Proof.Machine.execDecrementArrival k s
  | .pendingPass die => Sys2Proof.Machine.execPendingPass die s
  | .prefetchOperandLand die idx j => Sys2Proof.Machine.execPrefetchOperandLand die idx j s
  | .selectionPass die => Sys2Proof.Machine.execSelectionPass die s
  | .energyWindowStart die => Sys2Proof.Machine.execEnergyWindowStart die s
  | .taskCompletion die idx => Sys2Proof.Machine.execTaskCompletion die idx s
  | .sxpropEvaluate die k => Sys2Proof.Machine.execSxpropEvaluate die k s
  | .sxloadRebuildComplete die k => Sys2Proof.Machine.execSxloadRebuildComplete die k s
  | .btProposalArrival k => Sys2Proof.Machine.execBtProposalArrival k s
  | .btAbortArrival k => Sys2Proof.Machine.execBtAbortArrival k s
  | .btCommitArrival k => Sys2Proof.Machine.execBtCommitArrival k s
  | .btReplicaTimeout die => Sys2Proof.Machine.execBtReplicaTimeout die s
  | .generatorDrawServe die => Sys2Proof.Machine.execGeneratorDrawServe die s
  | .missringWrite v => Sys2Proof.Machine.execMissringWrite v s
  | .ntrapctlWrite v => Sys2Proof.Machine.execNtrapctlWrite v s
  | .repairWrite num v => Sys2Proof.Machine.execRepairWrite num v s
  | .timelineCounterWrite num v => Sys2Proof.Machine.execTimelineCounterWrite num v s
  | .errorRegisterClear num v => Sys2Proof.Machine.execErrorRegisterClear num v s
  | .ebudgetWrite v => Sys2Proof.Machine.execEbudgetWrite v s
  | .machineRegisterWrite num v => Sys2Proof.Machine.execMachineRegisterWrite num v s
  | .classGSave die k => Sys2Proof.Machine.execClassGSave die k s
  | .classSSave die k => Sys2Proof.Machine.execClassSSave die k s
  | .saveHeldRequestTimeout die k => Sys2Proof.Machine.execSaveHeldRequestTimeout die k s
  | .preemptAckTimeout die k => Sys2Proof.Machine.execPreemptAckTimeout die k s
  | .contextRestore die k => Sys2Proof.Machine.execContextRestore die k s
  | .faultRecordPlace k => Sys2Proof.Machine.execFaultRecordPlace k s
  | .eccUncorrectable hit => Sys2Proof.Machine.execEccUncorrectable hit s
  | .dbgFreezeCommand tile => Sys2Proof.Machine.execDbgFreezeCommand tile s
  | .dbgResumeCommand tile => Sys2Proof.Machine.execDbgResumeCommand tile s
  | .sbdataAccess die addr wr v => Sys2Proof.Machine.execSbdataAccess die addr wr v s
  | .sbstatWrite die v => Sys2Proof.Machine.execSbstatWrite die v s
  | .traceRingConfigWrite die off v => Sys2Proof.Machine.execTraceRingConfigWrite die off v s
  | .traceRecordPlace k => Sys2Proof.Machine.execTraceRecordPlace k s
  | .mailboxScan pe node => Sys2Proof.Machine.execMailboxScan pe node s
  | .channelRingScan tile port out => Sys2Proof.Machine.execChannelRingScan tile port out s
  | .streamBeatArrival c => Sys2Proof.Machine.execStreamBeatArrival c s
  | .streamCreditReturn c => Sys2Proof.Machine.execStreamCreditReturn c s
  | .fifoForward tile port => Sys2Proof.Machine.execFifoForward tile port s
  | .packetReceive k => Sys2Proof.Machine.execPacketReceive k s
  | .requestWatchdogExpiry r => Sys2Proof.Machine.execRequestWatchdogExpiry r s
  | .linkWithdraw lnk => Sys2Proof.Machine.execLinkWithdraw lnk s
  | .streamCircuitReroute c => Sys2Proof.Machine.execStreamCircuitReroute c s
  | .ualinkPortTraining io port lanes speed => Sys2Proof.Machine.execUalinkPortTraining io port lanes speed s
  | .ualinkChunkReceive io src off data jequa => Sys2Proof.Machine.execUalinkChunkReceive io src off data jequa s
  | .pcieDmaAccess io wr addr data => Sys2Proof.Machine.execPcieDmaAccess io wr addr data s
  | .roleSwapFillComplete tile => Sys2Proof.Machine.execRoleSwapFillComplete tile s
  | .journalEntryAccept m => Sys2Proof.Machine.execJournalEntryAccept m s
  | .tload m seq => Sys2Proof.Machine.execTload m seq s
  | .instCmd m seq => Sys2Proof.Machine.execInstCmd m seq s
  | .cancelCmd m seq => Sys2Proof.Machine.execCancelCmd m seq s
  | .decCmd m seq => Sys2Proof.Machine.execDecCmd m seq s
  | .journalReplay m seq => Sys2Proof.Machine.execJournalReplay m seq s
  | .preemptCmd m seq => Sys2Proof.Machine.execPreemptCmd m seq s
  | .restoreCmd m seq => Sys2Proof.Machine.execRestoreCmd m seq s
  | .asidCmd m seq => Sys2Proof.Machine.execAsidCmd m seq s
  | .journalTlbinv m seq => Sys2Proof.Machine.execJournalTlbinv m seq s
  | .plistCmd m seq => Sys2Proof.Machine.execPlistCmd m seq s
  | .partitionCmd m seq => Sys2Proof.Machine.execPartitionCmd m seq s
  | .areaCmd m seq => Sys2Proof.Machine.execAreaCmd m seq s
  | .btset m seq => Sys2Proof.Machine.execBtset m seq s
  | .keyload m seq => Sys2Proof.Machine.execKeyload m seq s
  | .sxfree m seq => Sys2Proof.Machine.execSxfree m seq s
  | .dmawin m seq => Sys2Proof.Machine.execDmawin m seq s
  | .fwupdate m seq => Sys2Proof.Machine.execFwupdate m seq s
  | .ownerkey m seq => Sys2Proof.Machine.execOwnerkey m seq s
  | .moduleReset m => Sys2Proof.Machine.execModuleReset m s
  | .firmwareBoot m image => Sys2Proof.Machine.execFirmwareBoot m image s
  | .thermalTrip die => Sys2Proof.Machine.execThermalTrip die s
  | .currentGovernorThrottle die amps => Sys2Proof.Machine.execCurrentGovernorThrottle die amps s
  | .powerDown m => Sys2Proof.Machine.execPowerDown m s
  | .scopeUpdateAckArrival k => Sys2Proof.Machine.execScopeUpdateAckArrival k s
  | .batchingAcknowledgement k => Sys2Proof.Machine.execBatchingAcknowledgement k s
  | .transactionLayerResponse r v => Sys2Proof.Machine.execTransactionLayerResponse r v s
  | .addNode => Sys2Proof.Machine.execAddNode s
  | .subNode => Sys2Proof.Machine.execSubNode s
  | .addiNode => Sys2Proof.Machine.execAddiNode s
  | .mulNode => Sys2Proof.Machine.execMulNode s
  | .divNode => Sys2Proof.Machine.execDivNode s
  | .remNode => Sys2Proof.Machine.execRemNode s
  | .andNode => Sys2Proof.Machine.execAndNode s
  | .orNode => Sys2Proof.Machine.execOrNode s
  | .xorNode => Sys2Proof.Machine.execXorNode s
  | .andnNode => Sys2Proof.Machine.execAndnNode s
  | .shlNode => Sys2Proof.Machine.execShlNode s
  | .shrNode => Sys2Proof.Machine.execShrNode s
  | .rotlNode => Sys2Proof.Machine.execRotlNode s
  | .clzNode => Sys2Proof.Machine.execClzNode s
  | .popcNode => Sys2Proof.Machine.execPopcNode s
  | .minNode => Sys2Proof.Machine.execMinNode s
  | .maxNode => Sys2Proof.Machine.execMaxNode s
  | .setNode => Sys2Proof.Machine.execSetNode s
  | .selNode => Sys2Proof.Machine.execSelNode s
  | .moviNode => Sys2Proof.Machine.execMoviNode s
  | .bfxNode => Sys2Proof.Machine.execBfxNode s
  | .bfiNode => Sys2Proof.Machine.execBfiNode s
  | .leaNode => Sys2Proof.Machine.execLeaNode s
  | .vaddNode => Sys2Proof.Machine.execVaddNode s
  | .vsubNode => Sys2Proof.Machine.execVsubNode s
  | .vmulNode => Sys2Proof.Machine.execVmulNode s
  | .vfmaNode => Sys2Proof.Machine.execVfmaNode s
  | .vminNode => Sys2Proof.Machine.execVminNode s
  | .vmaxNode => Sys2Proof.Machine.execVmaxNode s
  | .vabsNode => Sys2Proof.Machine.execVabsNode s
  | .vnegNode => Sys2Proof.Machine.execVnegNode s
  | .vcmpNode => Sys2Proof.Machine.execVcmpNode s
  | .vselNode => Sys2Proof.Machine.execVselNode s
  | .vandNode => Sys2Proof.Machine.execVandNode s
  | .vorNode => Sys2Proof.Machine.execVorNode s
  | .vxorNode => Sys2Proof.Machine.execVxorNode s
  | .vshlNode => Sys2Proof.Machine.execVshlNode s
  | .vshrNode => Sys2Proof.Machine.execVshrNode s
  | .vcvtNode => Sys2Proof.Machine.execVcvtNode s
  | .vqntNode => Sys2Proof.Machine.execVqntNode s
  | .vpackNode => Sys2Proof.Machine.execVpackNode s
  | .vunpackNode => Sys2Proof.Machine.execVunpackNode s
  | .vclampNode => Sys2Proof.Machine.execVclampNode s
  | .vmovNode => Sys2Proof.Machine.execVmovNode s
  | .viotaNode => Sys2Proof.Machine.execViotaNode s
  | .vshufNode => Sys2Proof.Machine.execVshufNode s
  | .vredsumNode => Sys2Proof.Machine.execVredsumNode s
  | .vredmaxNode => Sys2Proof.Machine.execVredmaxNode s
  | .vredminNode => Sys2Proof.Machine.execVredminNode s
  | .vscanNode => Sys2Proof.Machine.execVscanNode s
  | .vdotNode => Sys2Proof.Machine.execVdotNode s
  | .vexpNode => Sys2Proof.Machine.execVexpNode s
  | .vlog2Node => Sys2Proof.Machine.execVlog2Node s
  | .vrcpNode => Sys2Proof.Machine.execVrcpNode s
  | .vrsqrtNode => Sys2Proof.Machine.execVrsqrtNode s
  | .vsqrtNode => Sys2Proof.Machine.execVsqrtNode s
  | .vsigNode => Sys2Proof.Machine.execVsigNode s
  | .vtanhNode => Sys2Proof.Machine.execVtanhNode s
  | .vsinNode => Sys2Proof.Machine.execVsinNode s
  | .vcosNode => Sys2Proof.Machine.execVcosNode s
  | .mshapeNode => Sys2Proof.Machine.execMshapeNode s
  | .mmaNode => Sys2Proof.Machine.execMmaNode s
  | .mmazNode => Sys2Proof.Machine.execMmazNode s
  | .mmasNode => Sys2Proof.Machine.execMmasNode s
  | .mmaxNode => Sys2Proof.Machine.execMmaxNode s
  | .mzeroNode => Sys2Proof.Machine.execMzeroNode s
  | .moutNode => Sys2Proof.Machine.execMoutNode s
  | .mtrnNode => Sys2Proof.Machine.execMtrnNode s
  | .mfetchNode => Sys2Proof.Machine.execMfetchNode s
  | .steer => Sys2Proof.Machine.execSteer s
  | .merge => Sys2Proof.Machine.execMerge s
  | .wave => Sys2Proof.Machine.execWave s
  | .loopent => Sys2Proof.Machine.execLoopent s
  | .loopexit => Sys2Proof.Machine.execLoopexit s
  | .callt => Sys2Proof.Machine.execCallt s
  | .rett => Sys2Proof.Machine.execRett s
  | .freectx => Sys2Proof.Machine.execFreectx s
  | .repeatTok => Sys2Proof.Machine.execRepeatTok s
  | .gate => Sys2Proof.Machine.execGate s
  | .joinTok => Sys2Proof.Machine.execJoinTok s
  | .constTok => Sys2Proof.Machine.execConstTok s
  | .dup => Sys2Proof.Machine.execDup s
  | .tagget => Sys2Proof.Machine.execTagget s
  | .tagset => Sys2Proof.Machine.execTagset s
  | .sendTok => Sys2Proof.Machine.execSendTok s
  | .recv => Sys2Proof.Machine.execRecv s
  | .eos => Sys2Proof.Machine.execEos s
  | .runpack => Sys2Proof.Machine.execRunpack s
  | .runsplit => Sys2Proof.Machine.execRunsplit s
  | .ldw => Sys2Proof.Machine.execLdw s
  | .stw => Sys2Proof.Machine.execStw s
  | .ldx => Sys2Proof.Machine.execLdx s
  | .stx => Sys2Proof.Machine.execStx s
  | .isreadNode => Sys2Proof.Machine.execIsreadNode s
  | .iswriteNode => Sys2Proof.Machine.execIswriteNode s
  | .isclrNode => Sys2Proof.Machine.execIsclrNode s
  | .copyNode => Sys2Proof.Machine.execCopyNode s
  | .gatherNode => Sys2Proof.Machine.execGatherNode s
  | .scatterNode => Sys2Proof.Machine.execScatterNode s
  | .aaddNode => Sys2Proof.Machine.execAaddNode s
  | .afaddNode => Sys2Proof.Machine.execAfaddNode s
  | .aminNode => Sys2Proof.Machine.execAminNode s
  | .amaxNode => Sys2Proof.Machine.execAmaxNode s
  | .aandNode => Sys2Proof.Machine.execAandNode s
  | .aorNode => Sys2Proof.Machine.execAorNode s
  | .axorNode => Sys2Proof.Machine.execAxorNode s
  | .aswapNode => Sys2Proof.Machine.execAswapNode s
  | .acasNode => Sys2Proof.Machine.execAcasNode s
  | .arednNode => Sys2Proof.Machine.execArednNode s
  | .acomb => Sys2Proof.Machine.execAcomb s
  | .fenceNode => Sys2Proof.Machine.execFenceNode s
  | .widenNode => Sys2Proof.Machine.execWidenNode s
  | .barNode => Sys2Proof.Machine.execBarNode s
  | .tdecNode => Sys2Proof.Machine.execTdecNode s
  | .tdecSelfNode => Sys2Proof.Machine.execTdecSelfNode s
  | .commit => Sys2Proof.Machine.execCommit s
  | .traceNode => Sys2Proof.Machine.execTraceNode s
  | .markNode => Sys2Proof.Machine.execMarkNode s

end Sys2Proof.Machine
end

