-- ==== Sys2Proof/Machine/Issue.lean ====
section
/-! DEFINITION. Who moves in a step: a thread in a cycle it owns (05_scalar_class.md R119, R121, R139, R140;
02_formats.md R46-R50, R70, R71), a PE that fires (08_token_class.md R211), an event of the machine. -/

namespace Sys2Proof.Machine

/-! ## Fetch and the checks before issue -/

/-- The registers a bundle's formats name, valid or not (R49, R121). -/
def namedWord (w : Word) : List RegNo :=
  let r := arFields w
  let a := if w.extractLsb' 62 2 = 0 ∨ w.extractLsb' 62 2 = 1 then
      match slotAForm (w.extractLsb' 52 10) with
      | some (.ar mk) => namedA (mk r)
      | some (.are mk) => namedA (mk { d := r.d, a := r.a, b := r.b, f := r.f, e := 0 })
      | some (.ai mk) => namedA (mk { d := r.d, a := r.a, imm := 0 })
      | some (.ax mk) =>
          namedA (mk { d := r.d, a := r.a, b := r.b, f := r.f, scope := 0, order := 0,
                       repro := w.getLsbD 20, nocomb := false })
      | none => []
    else []
  let b := if w.extractLsb' 62 2 = 0 ∧ w.extractLsb' 0 28 ≠ 0 then
      match slotBForm (w.extractLsb' 18 10) with
      | some _ => [w.extractLsb' 10 5, w.extractLsb' 5 5, w.extractLsb' 0 5]
      | none => []
    else []
  a ++ b

/-- A bundle names a pending register and does not issue (R121). -/
def Thread.waitsFor (t : Thread) (w : Word) : Bool := (namedWord w).any fun r => t.pending (t.preg r)

/-- The descriptors of slot B as they stand before the bundle (R49). -/
def Thread.descs (t : Thread) (i : Instr) : Word × Word × Word :=
  match i.enc with
  | .bo _ o => (t.reg o.d, t.reg o.a, t.reg o.b)
  | _ => (0, 0, 0)

/-- The checks of R70 that need the machine, rows 6 to 8: the code and the value of the trap. -/
def slotBFault (t : Thread) (mem : Bool) (w : Word) (b : Option (BitVec 3 × Instr)) : Option (Nat × Word) :=
  match b with
  | none => none
  | some (_, i) =>
      if mem then some (cIllegalOp, w)
      else
        let ds := t.descs i
        (descError i ds.1 ds.2.1 ds.2.2).map fun v => (cIllegalDesc, v)

/-- A class-6 slot A whose guard holds stands on a memory tile or fails a check of its entry: these come after rows 1 to 5 of R70 and
before row 6 (R185). The code and the value of the trap. -/
def matrixFault (s : State) (w : Word) : Option (Nat × Word) :=
  if 2 ≤ (w.extractLsb' 62 2).toNat || !s.me.pred (w.extractLsb' 49 3).toNat then none
  else
    match decodeSlotA (w.extractLsb' 62 2 == 1) w with
    | .error _ => none
    | .ok i =>
        match i.enc with
        | .ar c o =>
            if (c.extractLsb' 6 4).toNat ≠ 6 then none
            else if isMemTile s.myTile then some (cIllegalOp, w)
            else
              match i with
              | .mshape _ => if shapeValid (s.greg o.a) then none else some (cIllegalDesc, s.greg o.a)
              | _ =>
                  (mtxError i (s.shape (s.myTask.getD 0) s.myTile (o.f.extractLsb' 0 3).toNat) (s.greg o.d) (s.greg o.a)
                    (s.greg o.b)).map fun v => (cIllegalDesc, v)
        | _ => none

/-- The instruction is of classes 8 to 11, which a fence holds back (R328). -/
def fenced (i : Instr) : Bool := decide (8 ≤ (i.opc.extractLsb' 6 4).toNat ∧ (i.opc.extractLsb' 6 4).toNat ≤ 11)

/-- Slot A issues under its guard; a slot whose guard is false has no effect (R47). -/
def issueA (x : Bundle) (s : State) : Out :=
  if s.me.pred x.grdA.toNat then exec x.a s else ok s.advance

/-- Slot B issues after slot A has completed without a trap (R50), with the predicates and descriptors of the
bundle's start. -/
def issueB (t : Thread) (x : Bundle) (s : State) : Out :=
  match x.b with
  | none => ok s
  | some (g, i) =>
      if t.pred g.toNat then exec i { s with cur := { s.cur with slotB := true, desc := some (t.descs i) } } else ok s

/-- A decoded bundle issues as a unit (R50): held, trapped in slot A, or both slots in turn. -/
def issueBundle (x : Bundle) (s : State) : Out :=
  let s := s.settleFence s.cur.th
  let t := s.me
  let fullB := match x.b with
    | some (g, _) => t.pred g.toNat && t.queueFull 1
    | none => false
  if fullB then ok s
  else if s.fenceHolds s.cur.th && fenced x.a && t.pred x.grdA.toNat then ok s
  else
    match issueA x s with
    | .next s1 =>
        if s1.cur.held then ok s1
        else
          let s1 := s1.modMe fun t => { t with pass := false }
          if s1.cur.trapped then ok s1 else issueB t x s1
    | r => r

/-- Row 5 of R119: the bundle at PC goes through the steps of R50. A fetch whose translation fails traps at the
bundle (log 8). -/
def issueAt (s : State) : Out :=
  let t := s.me
  if !s.inCode s.cur.th t.pc then ok (s.trap cAccessFault t.pc)
  else
    match translateAt s s.myTile (s.taskAsid (t.task.getD 0)) t.pc false with
    | .error c => ok (s.trap c t.pc)
    | .ok pa =>
        let w := s.homeWord s.myDie pa
        let s := { s with cur := { s.cur with word := w } }
        if !s.homeUp s.myDie pa || t.waitsFor w then ok s
        else
          match matrixFault s w with
          | some (c, v) => ok (s.trap c v)
          | none =>
              match decodeBundle w with
              | .error e => ok ({ s with cur := { s.cur with slotB := e == DecodeError.slotB } }.trap cIllegalOp w)
              | .ok x =>
                  match slotBFault t (isMemTile s.myTile) w x.b with
                  | some (c, v) => ok ({ s with cur := { s.cur with slotB := true } }.trap c v)
                  | none => issueBundle x s

/-- The cycle in which a thread issues next (R21): one it owns, after its last. -/
def State.nextOwned (s : State) (th : Nat) : Nat :=
  let c := max (s.cycleOf (tileOfThread th)) ((s.thread th).lastIssue + 1)
  c + (numOfThread th + 8 - c % 8) % 8

/-- The thread's cycle has come; its cycles are counted, so that later bundles stand at higher positions of its program order
(R118, log 18). -/
def State.beginThread (s : State) (th : Nat) : State :=
  let c := s.nextOwned th
  let s := s.modDie (dieOfTile (tileOfThread th)) fun d => { d with cycle := c }
  let s := s.modThread th fun t => { t with lastIssue := c, order := t.order + 1 }
  { s with cur := { Cur.reset with th := th, pc := (s.thread th).pc } }

/-- A thread does nothing in its cycles: it is stopped, a freeze wave or the replay of a restore holds it (R119, R440, R443). -/
def State.idle (s : State) (th : Nat) : Bool :=
  !(s.thread th).running || match (s.thread th).task with
    | some k => s.frozenTask k || s.replays k
    | none => false

/-- A thread in a cycle it owns: the first row of R119 that applies. -/
def cycleTurn (th : Nat) (s : State) : Out :=
  let s := s.beginThread th
  let t := s.me
  if !t.deferred.isEmpty then exec .deferredTrapEntry s
  else if t.preempt && !t.hnd then exec .preemptInterruptTake s
  else if t.userPending then exec .userInterruptTake s
  else
    match t.wait with
    | some w =>
        if s.waitPoison th w || s.waitReady th w then exec .waitfSatisfied s
        else if s.waitOver th w then exec .waitfTimeout s
        else ok s
    | none => issueAt s

/-- The turn of a thread; where its clock stands still it may yet have met a cause (R460, R462). -/
def threadTurn (th : Nat) (s : State) : Out :=
  if s.idle th then ok s
  else if s.stopped (tileOfThread th) then s.lateCause (tileOfThread th) (cycleTurn th)
  else cycleTurn th s

/-! ## Firings -/

/-- w_c of a class (R212); 1 where not set. -/
def Pe.weight (p : Pe) (c : Nat) : Nat := p.weights.getD c 0 + 1

/-- The classes in the order in which the PE tries them (R211): the one it serves while its share lasts, then the
others in round order, then that one again. -/
def Pe.order (p : Pe) : List (Nat × Nat) :=
  (if p.given < p.weight p.cls then [(p.cls, p.given)] else []) ++
    [((p.cls + 1) % 4, 0), ((p.cls + 2) % 4, 0), ((p.cls + 3) % 4, 0), (p.cls, 0)]

/-- An element that never fires (R73). -/
def State.blockedAt (s : State) (slot : Nat) : Bool := ((s.element? slot).map NodeSlot.blocked).getD false

/-- The first ready firing of a class; a freeze wave holds its task's (R234), a blocked element its own (R73). -/
def State.firstReady (s : State) (pe c : Nat) : Option Firing :=
  (s.pe pe).ready.find? fun f => classOf f.node == c && !s.frozenTask f.task && !s.blockedAt f.slot

/-- The firing leaves the ready list and is counted. -/
def Pe.served (p : Pe) (f : Firing) (c given : Nat) : Pe :=
  { p with ready := p.ready.erase f, cls := c, given := given + 1, fires := p.fires + 1 }

/-- A result of the firing would enter a stream port that has no credit (R210, R285). -/
def State.streamHolds (s : State) (f : Firing) : Bool :=
  [f.node.r.dsta, f.node.r.dstb].any fun d => s.portHeld (tileOfPe f.pe) f.task d

/-- Try classes in turn; a firing whose unit is busy keeps its place and other classes proceed (R211). A firing that
froze its cluster stands before its cause (R460). -/
def fireGo (pe : Nat) (s : State) : List (Nat × Nat) → Out
  | [] => ok s
  | (c, g) :: rest =>
      match s.firstReady pe c with
      | none => fireGo pe s rest
      | some f =>
          if s.streamHolds f then fireGo pe s rest
          else
          match exec f.node.op { s with cur := { Cur.reset with fir := f } } with
          | .next s2 =>
              if s2.cur.held then if s2.stopped (tileOfPe pe) then ok s2 else fireGo pe s2 rest
              else ok (s2.modPe pe fun p => p.served f c g)
          | r => r

/-- A PE fires one ready firing (R211); where its clock stands still it may yet have met a cause (R460, R462). -/
def fireTurn (pe : Nat) (s : State) : Out :=
  if s.stopped (tileOfPe pe) then s.lateCause (tileOfPe pe) fun s => fireGo pe s (s.pe pe).order
  else
    let s := s.settleNodes (tileOfPe pe)
    fireGo pe s (s.pe pe).order

/-! ## Events -/

/-- The events that a turn may name by themselves: not those of a thread's cycle, nor the registers MWR writes. -/
def freeEvent (i : Instr) : Bool :=
  i.isEvent &&
    match i with
    | .waitfSatisfied | .waitfTimeout | .deferredTrapEntry | .userInterruptTake | .preemptInterruptTake => false
    | .missringWrite _ | .ntrapctlWrite _ | .repairWrite _ _ | .timelineCounterWrite _ _ | .errorRegisterClear _ _
    | .ebudgetWrite _ | .machineRegisterWrite _ _ => false
    | _ => true

/-- The journal's mirror on die 8, which the device alone writes (R454). -/
def mirrored (pa : Nat) : Bool := pa / 2 ^ 40 % 16 == 8 && decide (0xFFF000000 ≤ pa % 2 ^ 40 ∧ pa % 2 ^ 40 < 0x1000000000)

/-- A byte that a store from outside may change: one of a DRAM that answers, as the host's memory does (R14, R24, R33, R459). -/
def State.hostKey (s : State) (pa : Nat) : Bool := isDram pa && s.dramUp (pa / 2 ^ 40) && !mirrored pa

/-- What the one who moves does. -/
def moveOf (x : Turn) (s : State) : Out :=
  match x with
  | .thread th => threadTurn th s
  | .fire pe => fireTurn pe s
  | .event i => if freeEvent i then exec i { s with cur := Cur.reset } else ok s
  | .outside addr data =>
      if s.writable addr data.length && (List.range data.length).all (fun i => s.hostKey (addr + i)) then
        ok (s.writeBytes addr data)
      else ok s

/-- The outcome of a move, with the held barrier requests released whose phases it has moved. -/
def settled : Out → Out
  | .next t => .next t.settleBars
  | r => r

/-- One turn: its mover acts; then the held barrier requests go on whose phases it has moved, whatever wrote the words (R321, R322). -/
def turn (x : Turn) (s : State) : Out := settled (moveOf x s)

/-- Time passes on every die whose clock runs, on each by a count of its own (R15, log 6). -/
def State.elapsed (s : State) : State :=
  { s with tick := s.tick + 1,
           dies := s.dies.map fun (k, d) => (k, if d.tripped then d else { d with cycle := d.cycle + Config.elapse s.tick k }) }

/-- Who moves: the head of the agenda, or a free choice (log 4). -/
def State.nextTurn (s : State) : Turn × State :=
  match s.agenda with
  | x :: rest => (x, { s with agenda := rest })
  | [] => (Config.freeTurn s.tick, s)

/-! ## An instruction placed where the next step fetches it -/

/-- Three page tables map the first GiB of die 0 to itself: root, level 3, a level-2 leaf (R242). -/
def placeTables (s : State) : State :=
  ((s.writeNat 0x1000 8 0x2001).writeNat 0x2000 8 0x3001).writeNat 0x3000 8 0x0F

/-- A bundle at 0x8000 of a privileged task of die 0, thread 0 of tile 0 about to issue it. -/
def placeBundle (s : State) (w : Nat) : State :=
  let s := placeTables s
  let type : List Word := [0, 0x8000, 0x8000, 0x8000000000000000, BitVec.ofNat 64 (512 * 2 ^ 32 + 512 * 2 ^ 48), 0, 0, 0]
  let run : TaskRun :=
    { type := type, asid := 1, plist := 0, ctx := 0, tiles := [], prefetch := [], prefParked := [],
      since := 0, returned := 0, stopping := false, failed := none, saving := false, replaying := false, fabric := default }
  let s := s.writeNat 0x8000 8 w
  let s := s.modDie 0 fun d => { d with roots := mapPut 1 (0x1000, true) d.roots, runs := mapPut 1 run d.runs }
  let s := s.modThread 0 fun t => { t with running := true, pc := 0x8000, task := some 1, deferred := [], preempt := false,
                                           uistat := 0, wait := none }
  { s with agenda := [.thread 0] }

/-- A node record in entry 0 of PE 0 of tile 0 with a ready firing of it: one zero word on each port. -/
def placeNode (s : State) (w : Nat) : State :=
  let raw := BitVec.ofNat 128 w
  match decodeSlot raw with
  | .error _ => { s with agenda := [.fire 0] }
  | .ok x =>
      let z : List TWord := [⟨0, false, false, false⟩]
      let f : Firing := { pe := 0, slot := 0, tag := 0, port := 0, l := z, r := z, c := z, eos := false, seq := 0,
                          wait := none, task := 1, node := x }
      let slot : NodeSlot := { raw := raw, task := 1, va := 0, blocked := false, bad := raw, trapped := false, discarded := false,
                               held := [] }
      let s := { s with nodes := mapPut 0 slot s.nodes }
      let s := s.modPe 0 fun p => { p with ready := [f] }
      { s with agenda := [.fire 0] }

end Sys2Proof.Machine
end

