-- ==== Sys2Proof/Machine/Step.lean ====
section
/-! DEFINITION. One step of the part: time passes and one mover acts. -/

namespace Sys2Proof.Machine

/-- One step. -/
def step (s : State) : Host.Outcome State Fault Refusal :=
  let n := s.nextTurn
  turn n.1 n.2.elapsed

/-- The state with the instruction placed where the next step runs it: a bundle that thread 0 issues, or a node
record that PE 0 fires. -/
def State.withFetchWord (s : State) (nbits w : Nat) : State :=
  if nbits ≤ 64 then placeBundle s (w % 2 ^ nbits) else placeNode s (w % 2 ^ nbits)

end Sys2Proof.Machine
end

