-- ==== Sys2Proof/Safety.lean ====
section
/-! DEFINITION. What counts as a safe run, and the invariant of memory that statements use. -/

namespace Sys2Proof.Machine

/-- Memory stands in its canonical form. -/
def State.Inv (s : State) : Prop := memWf s.mem = true

/-- A step is safe when the part goes on: no fault, no refusal. -/
def safe (x : Host.Outcome State Fault Refusal) : Prop := ∃ s, x = .next s

end Sys2Proof.Machine
end

