-- ==== Sys2Proof/Certificates/Slice0/Obligations.lean ====
section
/-! DEFINITION. The statements about the model, one definition each; `Sys2Proof.Claims` holds what several of them share. -/

namespace Sys2Proof.Claims

open Sys2Proof.Machine

/-- An instruction answers a state. -/
def Runs (i : Instr) (s t : State) : Prop := exec i s = .next t

/-- The thread that issues has gone on to the next bundle, register d holding v; d = 0 writes nothing. -/
def Writes (i : Instr) (s : State) (d : RegNo) (v : Word) : Prop := exec i s = .next (s.result d v)

/-- A precise trap of the issuing bundle with code c and value v (R130). -/
def Traps (i : Instr) (s : State) (c : Nat) (v : Word) : Prop := exec i s = .next (s.trap c v)

/-- Two states hold the same but for the thread th. -/
def SameButThread (th : Nat) (s t : State) : Prop :=
  (∀ x, x ≠ th → t.thread x = s.thread x) ∧ t.mem = s.mem ∧ t.sstate = s.sstate ∧ t.ecc = s.ecc ∧ t.pes = s.pes ∧
    t.nodes = s.nodes ∧ t.tiles = s.tiles ∧ t.dies = s.dies ∧ t.modules = s.modules ∧ t.ios = s.ios ∧ t.bobbins = s.bobbins ∧
    t.contribs = s.contribs ∧ t.circuits = s.circuits ∧ t.images = s.images ∧ t.withdrawn = s.withdrawn ∧ t.retired = s.retired ∧ t.reqs = s.reqs ∧
    t.net = s.net ∧ t.stuck = s.stuck ∧ t.tick = s.tick ∧ t.agenda = s.agenda ∧ t.nextId = s.nextId

/-- A thread differs from another at most in what `f` names of it: the registers, predicates, pc and EXCMODE. -/
def SameRest (x y : Thread) : Prop :=
  y = { x with g := y.g, h := y.h, p := y.p, pc := y.pc, excmode := y.excmode }

end Sys2Proof.Claims

open Sys2Proof Sys2Proof.Machine Sys2Proof.Claims

/-! ## Reset, decoding, stepping -/

/-- Every thread is stopped at reset with the register values R122, R127, R110, R280 and R403 give; memory lists nothing and is in its
canonical form (that an unlisted byte reads 0 is the model's choice, log 1). -/
def Obligations.ResetLeaves : Prop :=
  (State.reset.mem = [] ∧ State.reset.reqs = [] ∧ State.reset.net = [] ∧
     ∀ th, ((State.reset.thread th).running = false ∧ (State.reset.thread th).excmode = 0x0405 ∧
       (State.reset.thread th).vocab = 0xFFFFFFFF ∧ (State.reset.thread th).sxlmin = 1 ∧ (State.reset.thread th).sxlmax = 64 ∧
       (State.reset.thread th).round = 0 ∧ (State.reset.thread th).uivec = 0 ∧ (State.reset.thread th).hnd = false)) ∧
  (State.reset.Inv)

/-- Bundles and node slots that the spec writes out decode to what it says they are (R135, R141, R147, R149, R434, R472, R477); headers 10
and 11, an unused field that is not zero and the opcodes of class 0 are refused by name (R70, R146). -/
def Obligations.WordsOfTheSpec : Prop :=
  (decodeBundle 0x0510321430000000 = .ok ⟨0, .setCond ⟨3, 4, 5, 3⟩, none⟩ ∧
   decodeBundle 0x0440321400000000 = .ok ⟨0, .div ⟨3, 4, 5, 0⟩, none⟩ ∧
   decodeBundle 0x081030FFC0000000 = .ok ⟨0, .brp ⟨3, 1, -4⟩, none⟩ ∧
   decodeBundle 0x48B02214000003E8 = .ok ⟨0, .waitf ⟨2, 4, 5, 0, 1000⟩, none⟩ ∧
   decodeBundle 0x0C00321540000000 = .ok ⟨0, .fadd ⟨3, 4, 5, 0x14⟩, none⟩ ∧
   decodeBundle 0x7830030450000002 = .ok ⟨0, .mwr ⟨0, 6, 0x1045⟩, none⟩ ∧
   decodeBundle 0x3C10321420000000 = .ok ⟨0, .watch ⟨3, 4, 5, 2⟩, none⟩ ∧
   decodeBundle 0x3C40530000000000 = .ok ⟨0, .histrd ⟨5, 6, 0, 0⟩, none⟩ ∧
   (decodeSlot 0xF0D08227FFF8000000000077).toOption.map NodeRecord.op = some .markNode ∧
   (decodeSlot 0xF0D08227FFF8000000000077).toOption.map (fun x => (x.r.dsta, x.r.dstb, x.r.lit32)) = some (0x1044, 0xFFFF, 0x77)) ∧
  ((∀ w : Word, 2 ≤ (w.extractLsb' 62 2).toNat → decodeBundle w = .error .reservedHeader) ∧
   (∀ w : Word, (w.extractLsb' 62 2).toNat ≤ 1 → (w.extractLsb' 58 4) = 0 → decodeBundle w = .error .opcodeA) ∧
   (∀ w : Word, w.extractLsb' 62 2 = 0 → w.extractLsb' 52 10 = 0x08A → w.extractLsb' 28 21 ≠ 0 → decodeBundle w = .error .fieldsA))

/-- The bundle of a well-formed pair of slots reads back as it was (R45-R57). -/
def Obligations.BundleRoundTrip : Prop :=
  ∀ x : Bundle, x.wf = true → ∃ w, encodeBundle x = some w ∧ decodeBundle w = .ok x

/-- The slot of a well-formed node record reads back as it was (R62-R68). -/
def Obligations.NodeSlotRoundTrip : Prop :=
  ∀ x : NodeRecord, x.wf = true → ∃ w, encodeSlot x = some w ∧ decodeSlot w = .ok x

/-- What decodes is well-formed: no refused field slips through. -/
def Obligations.DecodedIsWellFormed : Prop :=
  (∀ w x, decodeBundle w = .ok x → x.wf = true) ∧ (∀ w x, decodeSlot w = .ok x → x.wf = true)

/-- A thread whose turn has come and whom nothing holds issues the bundle that its PC's bytes decode to: slot A under its guard,
and slot B after it where slot A was neither held nor trapped (R50, R119). After each move the barrier requests go on whose phases it
has moved (`settled`: R321, R322). -/
def Obligations.StepIssuesDecodedBundle : Prop :=
  ∀ s th rest x pa,
    s.agenda = .thread th :: rest →
    let s0 := ({ s with agenda := rest } : State).elapsed
    s0.idle th = false → s0.stopped (tileOfThread th) = false →
    let s1 := s0.beginThread th
    s1.me.deferred = [] → (s1.me.preempt && !s1.me.hnd) = false → s1.me.userPending = false → s1.me.wait = none →
    s1.inCode th s1.me.pc = true →
    translateAt s1 s1.myTile (s1.taskAsid (s1.me.task.getD 0)) s1.me.pc false = .ok pa →
    s1.homeUp s1.myDie pa = true →
    let w := s1.homeWord s1.myDie pa
    decodeBundle w = .ok x →
    let s2 : State := { s1 with cur := { s1.cur with word := w } }
    s2.me.waitsFor w = false →
    matrixFault s2 w = none →
    slotBFault s2.me (isMemTile s2.myTile) w x.b = none →
    let s3 := s2.settleFence th
    step s = settled (issueBundle x s2) ∧
      (s3.me.pred x.grdA.toNat = true → (s3.fenceHolds th && fenced x.a) = false →
        (∀ g b, x.b = some (g, b) → (s3.me.pred g.toNat && s3.me.queueFull 1) = false) →
        ∀ t, exec x.a s3 = .next t →
          (t.cur.held = true → step s = .next t.settleBars) ∧
          (t.cur.held = false → (x.b = none ∨ t.cur.trapped = true) →
            step s = .next (t.modMe fun y => { y with pass := false }).settleBars) ∧
          (t.cur.held = false → t.cur.trapped = false → ∀ g b, x.b = some (g, b) → s3.me.pred g.toNat = true →
            let t1 := t.modMe fun y => { y with pass := false }
            step s = settled (exec b { t1 with cur := { t1.cur with slotB := true, desc := some (s3.me.descs b) } })))

/-- A bundle whose header the decoder refuses, or any other that does not decode, traps with ILLEGAL_OP at the bundle, SLOTB set where slot B
is at fault; a slot whose guard is false has no effect: slot A's bundle only goes on, slot B's operation changes nothing, and a bundle
with both guards false leaves all but the thread's PC as it was (R47, R70, R128). -/
def Obligations.BundlesWithoutEffect : Prop :=
  (∀ s pa e,
     s.inCode s.cur.th s.me.pc = true →
     translateAt s s.myTile (s.taskAsid (s.me.task.getD 0)) s.me.pc false = .ok pa →
     s.homeUp s.myDie pa = true →
     let w := s.homeWord s.myDie pa
     s.me.waitsFor w = false →
     matrixFault { s with cur := { s.cur with word := w } } w = none →
     decodeBundle w = .error e →
     issueAt s = .next (({ s with cur := { s.cur with word := w, slotB := e == .slotB } } : State).trap cIllegalOp w)) ∧
  (∀ (x : Bundle) s, s.me.pred x.grdA.toNat = false → issueA x s = .next s.advance) ∧
  (∀ (x : Bundle) (s : State) g b, x.b = some (g, b) → s.me.fence = [] → s.me.acquire = none →
    s.me.pred x.grdA.toNat = false → s.me.pred g.toNat = false → s.cur.held = false → s.cur.trapped = false →
    issueBundle x s = .next (s.advance.modMe fun y => { y with pass := false }) ∧
    ∀ t u : State, issueB s.me x u = .next t → t = u)

/-- A PE whose turn has come fires the firing that R211 selects: the step is the node's operation on it. An event of the machine is one
step of it. -/
def Obligations.StepFiresAndRunsEvents : Prop :=
  (∀ s pe rest f t,
     s.agenda = .fire pe :: rest →
     let s0 := ({ s with agenda := rest } : State).elapsed
     s0.stopped (tileOfPe pe) = false →
     let s1 := s0.settleNodes (tileOfPe pe)
     (s1.pe pe).given < (s1.pe pe).weight (s1.pe pe).cls →
     s1.firstReady pe (s1.pe pe).cls = some f →
     s1.streamHolds f = false →
     exec f.node.op { s1 with cur := { Cur.reset with fir := f } } = .next t → t.cur.held = false →
     step s = .next (t.modPe pe fun p => p.served f (s1.pe pe).cls (s1.pe pe).given).settleBars) ∧
  (∀ s i rest, s.agenda = .event i :: rest → freeEvent i = true →
     step s = settled (exec i { ({ s with agenda := rest } : State).elapsed with cur := Cur.reset }))

/-! ## Class 1 on carrier A -/

/-- The one-result integer instructions complete with the value of R134 in g[d]; SET writes 1 where its condition holds and 0 where not. -/
def Obligations.IntegerResults : Prop :=
  (∀ s : State,
     (∀ o : AR, let x := s.greg o.a; let y := s.greg o.b
       Writes (.add o) s o.d (x + y) ∧ Writes (.sub o) s o.d (x - y) ∧ Writes (.andA o) s o.d (x &&& y) ∧
       Writes (.orA o) s o.d (x ||| y) ∧ Writes (.xorA o) s o.d (x ^^^ y) ∧ Writes (.andn o) s o.d (x &&& ~~~y) ∧
       Writes (.shl o) s o.d (x <<< (y.toNat % 64)) ∧
       (o.f = 0 → Writes (.shr o) s o.d (x >>> (y.toNat % 64))) ∧ (o.f = 1 → Writes (.shr o) s o.d (x.sshiftRight (y.toNat % 64))) ∧
       Writes (.rotl o) s o.d (x.rotateLeft (y.toNat % 64)) ∧
       (∃ v, Writes (.clz o) s o.d (BitVec.ofNat 64 v) ∧ v ≤ 64 ∧ (∀ i, i < v → x.getLsbD (63 - i) = false) ∧
         (v < 64 → x.getLsbD (63 - v) = true)) ∧
       Writes (.popc o) s o.d (BitVec.ofNat 64 ((List.range 64).filter x.getLsbD).length) ∧
       (o.f = 0 → Writes (.min o) s o.d (if x.slt y then x else y) ∧ Writes (.max o) s o.d (if x.slt y then y else x)) ∧
       (o.f = 1 → Writes (.min o) s o.d (if x < y then x else y) ∧ Writes (.max o) s o.d (if x < y then y else x)) ∧
       Writes (.sel o) s o.d (if o.f.toNat = 0 ∨ s.me.p.getLsbD o.f.toNat = true then x else y)) ∧
     (∀ o : AI, Writes (.addi o) s o.d (s.greg o.a + o.imm.signExtend 64) ∧ Writes (.movi o) s o.d (o.imm.signExtend 64)) ∧
     (∀ o : ARE, Writes (.lea o) s o.d (s.greg o.a + (s.greg o.b <<< o.f.toNat) + o.e.signExtend 64))) ∧
  (∀ (o : AR) s, let x := s.greg o.a; let y := s.greg o.b
     (o.f = 0 → Writes (.setCond o) s o.d (if x = y then 1 else 0)) ∧ (o.f = 1 → Writes (.setCond o) s o.d (if x = y then 0 else 1)) ∧
     (o.f = 2 → Writes (.setCond o) s o.d (if x.slt y then 1 else 0)) ∧ (o.f = 3 → Writes (.setCond o) s o.d (if x.ult y then 1 else 0)) ∧
     (o.f = 4 → Writes (.setCond o) s o.d (if x.sle y then 1 else 0)) ∧ (o.f = 5 → Writes (.setCond o) s o.d (if x.ule y then 1 else 0)))

/-- MUL's low, signed high and unsigned high halves; BFX and BFI on the field cut at bit 63; DIV and REM: the quotient toward zero and its
remainder, a zero divisor sets the IDZ flag and traps in TRAP mode, else gives all ones and the dividend (R136, R110, R112). -/
def Obligations.MultiplyDivideFieldResults : Prop :=
  (∀ (o : AR) s, let x := s.greg o.a; let y := s.greg o.b
     let pos := y.toNat % 64
     let k := min (y.toNat / 256 % 64 + 1) (64 - pos)
     (o.f = 0 → Writes (.mul o) s o.d (x * y)) ∧
     (o.f = 1 → Writes (.mul o) s o.d ((x.signExtend 128 * y.signExtend 128).extractLsb' 64 64)) ∧
     (o.f = 2 → Writes (.mul o) s o.d ((x.setWidth 128 * y.setWidth 128).extractLsb' 64 64)) ∧
     (o.f = 0 → Writes (.bfx o) s o.d ((x.extractLsb' pos k).setWidth 64)) ∧
     (o.f = 1 → Writes (.bfx o) s o.d ((x.extractLsb' pos k).signExtend 64)) ∧
     (∃ v : Word, Writes (.bfi o) s o.d v ∧
       ∀ i, i < 64 → v.getLsbD i = if pos ≤ i ∧ i < pos + k then x.getLsbD (i - pos) else (s.greg o.d).getLsbD i)) ∧
  (∀ (o : AR) s, let x := s.greg o.a; let y := s.greg o.b
     let flagged := s.modMe fun t => { t with excmode := t.excmode ||| 0x200000 }
     (y ≠ 0 → o.f = 0 → Writes (.div o) s o.d (x.sdiv y) ∧ Writes (.rem o) s o.d (x.srem y)) ∧
     (y ≠ 0 → o.f = 1 → Writes (.div o) s o.d (x / y) ∧ Writes (.rem o) s o.d (x % y)) ∧
     (y = 0 → s.me.excmode.extractLsb' 10 2 = 2 →
       exec (.div o) s = .next (flagged.trap 0x0013 x) ∧ exec (.rem o) s = .next (flagged.trap 0x0013 x)) ∧
     (y = 0 → s.me.excmode.extractLsb' 10 2 ≠ 2 →
       exec (.div o) s = .next (flagged.result o.d (BitVec.allOnes 64)) ∧ exec (.rem o) s = .next (flagged.result o.d x)))

/-! ## Classes 2 and 3 on carrier A -/

/-- The branches: where control goes, and the link register (R139, R141); PSET and PLOGIC write one predicate (R142). -/
def Obligations.BranchPredicateResults : Prop :=
  (∀ s : State,
     (∀ o : AI, let target := s.cur.pc + 8 * o.imm.signExtend 64
       exec (.br o) s = .next (s.modMe fun t => { t with pc := target }) ∧
       exec (.call o) s = .next (s.modMe fun t => { t.setReg 31 (s.cur.pc + 8) with pc := target }) ∧
       ((o.d.toNat = 0 ∨ s.me.p.getLsbD o.d.toNat = true) → o.a = 0 → exec (.brp o) s = .next (s.modMe fun t => { t with pc := target })) ∧
       (o.d.toNat ≠ 0 → s.me.p.getLsbD o.d.toNat = false → o.a = 1 → exec (.brp o) s = .next (s.modMe fun t => { t with pc := target })) ∧
       (o.d.toNat ≠ 0 → s.me.p.getLsbD o.d.toNat = false → o.a = 0 → exec (.brp o) s = .next s.advance) ∧
       ((o.d.toNat = 0 ∨ s.me.p.getLsbD o.d.toNat = true) → o.a = 1 → exec (.brp o) s = .next s.advance)) ∧
     (∀ o : AR,
       ((s.greg o.a).extractLsb' 0 3 = 0 →
         exec (.bri o) s = .next (s.modMe fun t => { t.setReg o.d (s.cur.pc + 8) with pc := s.greg o.a })) ∧
       ((s.greg o.a).extractLsb' 0 3 ≠ 0 → Traps (.bri o) s 0x0021 (s.greg o.a)) ∧
       ((s.greg 31).extractLsb' 0 3 = 0 → exec (.ret o) s = .next (s.modMe fun t => { t with pc := s.greg 31 })) ∧
       ((s.greg 31).extractLsb' 0 3 ≠ 0 → Traps (.ret o) s 0x0021 (s.greg 31)))) ∧
  (∀ (o : AR) s,
     let x := s.greg o.a; let y := s.greg o.b
     let a := s.me.pred o.a.toNat; let b := s.me.pred o.b.toNat
     (∀ c : Bool, (o.f = 0 ∧ c = (x == y)) ∨ (o.f = 1 ∧ c = (x != y)) ∨ (o.f = 2 ∧ c = x.slt y) ∨ (o.f = 3 ∧ c = x.ult y) ∨
       (o.f = 4 ∧ c = x.sle y) ∨ (o.f = 5 ∧ c = x.ule y) → exec (.pset o) s = .next (s.resultPred o.d c)) ∧
     (∀ c : Bool, (o.f = 0 ∧ c = (a && b)) ∨ (o.f = 1 ∧ c = (a || b)) ∨ (o.f = 2 ∧ c = (a ^^ b)) ∨ (o.f = 3 ∧ c = !a) ∨
       (o.f = 4 ∧ c = (a && !b)) → exec (.plogic o) s = .next (s.resultPred o.d c)))

/-- TID (0x089, field d alone) writes MODULE << 20 | DIE << 16 | INDEX << 8 | TNUM of the issuing thread, as MS.TILE and MS.THREAD give
them; thread t5 on m0.d3.x4.y2 reads 0x0003_2405 (R145). -/
def Obligations.TidResult : Prop :=
  (∀ (o : AR) s, let t := s.cur.th / 8
    Writes (.tid o) s o.d (BitVec.ofNat 64 (t / 4096 * 2 ^ 20 + t / 256 % 16 * 2 ^ 16 + t % 256 * 2 ^ 8 + s.cur.th % 8))) ∧
  (∀ (o : AR) s, s.cur.th < 576 * 32768 → let tile := s.readReg s.cur.th 0x001; let thread := s.readReg s.cur.th 0x000
    Writes (.tid o) s o.d ((tile.extractLsb' 12 10).setWidth 64 <<< 20 ||| (tile.extractLsb' 8 4).setWidth 64 <<< 16 |||
      (tile.extractLsb' 0 8).setWidth 64 <<< 8 ||| (thread.extractLsb' 0 3).setWidth 64)) ∧
  (∀ (o : AR) s, s.cur.th = (3 * 256 + 2 * 16 + 4) * 8 + 5 → Writes (.tid o) s o.d 0x00032405) ∧
  (∀ d : RegNo, decodeBundle (0x0890000000000000 ||| d.setWidth 64 <<< 44) = .ok ⟨0, .tid ⟨d, 0, 0, 0⟩, none⟩) ∧
  (∀ w : Word, w.extractLsb' 62 2 = 0 → w.extractLsb' 52 10 = 0x089 → w.extractLsb' 28 16 ≠ 0 → decodeBundle w = .error .fieldsA)

/-- NOP (0x08A) with every field zero goes on to the next bundle and changes nothing else; any other field that is not zero raises
ILLEGAL_OP (R146). -/
def Obligations.NopChangesNothing : Prop :=
  (∀ (o : AR) s, exec (.nop o) s = .next (s.modMe fun t => { t with pc := s.cur.pc + 8 })) ∧
  decodeBundle 0x08A0000000000000 = .ok ⟨0, .nop ⟨0, 0, 0, 0⟩, none⟩ ∧
  (∀ s pa, s.inCode s.cur.th s.me.pc = true → translateAt s s.myTile (s.taskAsid (s.me.task.getD 0)) s.me.pc false = .ok pa →
    s.homeUp s.myDie pa = true →
    let w := s.homeWord s.myDie pa
    s.me.waitsFor w = false → w.extractLsb' 62 2 = 0 → w.extractLsb' 52 10 = 0x08A → w.extractLsb' 28 21 ≠ 0 →
    issueAt s = .next (({ s with cur := { s.cur with word := w, slotB := false } } : State).trap 0x0001 w))

/-- TSTOP stops the issuing thread, clears HND and UIH and keeps its registers, queues and loads (R144); TSTART starts the lowest stopped
thread of the task, or writes all ones, or traps where the target is no code (R143). -/
def Obligations.ThreadStartStop : Prop :=
  (∀ (o : AR) s, ∃ t, exec (.tstop o) s = .next t ∧
     (t.me.running = false ∧ t.me.hnd = false ∧ t.me.uih = false ∧ t.me.g = s.me.g ∧ t.me.h = s.me.h ∧ t.me.p = s.me.p ∧
       t.me.pend = s.me.pend ∧ t.me.ldout = s.me.ldout ∧ t.me.queues = s.me.queues) ∧ SameButThread s.cur.th s t) ∧
  (∀ (o : AI) s k,
     let target := s.cur.pc + 8 * o.imm.signExtend 64
     (s.inCode s.cur.th target = false → Traps (.tstart o) s 0x0021 target) ∧
     (s.inCode s.cur.th target = true → s.me.task = some k → (∀ th ∈ s.allotted k s.myTile, (s.thread th).running = true) →
       Writes (.tstart o) s o.d (BitVec.allOnes 64)) ∧
     (∀ th, s.inCode s.cur.th target = true → s.me.task = some k →
       (s.allotted k s.myTile).find? (fun x => !(s.thread x).running) = some th →
       ∃ t, exec (.tstart o) s = .next t ∧ (th ≠ s.cur.th →
         (t.thread th).running = true ∧ (t.thread th).pc = target ∧ (t.thread th).hnd = false ∧ (t.thread th).uih = false ∧
           mapGet 0 (t.thread th).g 1 = s.greg o.a ∧ (t.thread th).pend = (s.thread th).pend ∧ (t.thread th).p = (s.thread th).p ∧
           (o.d ≠ 0 → t.greg o.d = BitVec.ofNat 64 (th % 8)) ∧ t.me.pc = s.cur.pc + 8)))

/-- WAITF: a bad address traps; a tile that its role swap fills takes no test yet (R240); a poisoned word traps (R429; WAITF is not named
there: log 109); a condition met writes 1, a timeout passed 0; else the thread waits at its own address, and each later owned cycle tests
again (R147). -/
def Obligations.WaitfResults : Prop :=
  ∀ (o : ARE) s,
    let n := if o.f.getLsbD 3 then 8 else 4
    let a := s.greg o.a
    let w : Wait := { addr := a.toNat, f := o.f, y := s.greg o.b, dest := s.me.preg o.d, start := s.cycleOf s.myTile, timeout := o.e.toNat }
    let done (w : Wait) (v : Word) : Host.Outcome State Fault Refusal :=
      .next (s.modMe fun t => { t.setPReg w.dest v with wait := none, pc := s.cur.pc + 8 })
    ((a.toNat % n ≠ 0 ∨ poolOk s s.myTask s.myTile a.toNat n false = false) → Traps (.waitf o) s 0x0021 a) ∧
    (a.toNat % n = 0 → poolOk s s.myTask s.myTile a.toNat n false = true →
      (s.filling s.myTile = true → exec (.waitf o) s = .next s.hold) ∧
      (s.filling s.myTile = false → s.waitPoison s.cur.th w = true → Traps (.waitf o) s 0x00C0 a) ∧
      (s.filling s.myTile = false → s.waitPoison s.cur.th w = false →
        (s.waitReady s.cur.th w = true → exec (.waitf o) s = done w 1) ∧
        (s.waitReady s.cur.th w = false → o.e = 0 → exec (.waitf o) s = done w 0) ∧
        (s.waitReady s.cur.th w = false → o.e ≠ 0 → exec (.waitf o) s = .next (s.modMe fun t => { t with wait := some w })))) ∧
    (∀ w, s.me.wait = some w →
      (s.waitPoison s.cur.th w = true → exec .waitfSatisfied s = .next (s.trap 0x00C0 (BitVec.ofNat 64 w.addr))) ∧
      (s.waitPoison s.cur.th w = false → s.waitReady s.cur.th w = true → exec .waitfSatisfied s = done w 1) ∧
      (s.waitReady s.cur.th w = false → w.timeout ≤ s.cycleOf s.myTile - w.start → exec .waitfTimeout s = done w 0) ∧
      (s.waitPoison s.cur.th w = false → s.waitReady s.cur.th w = false → exec .waitfSatisfied s = .next s))

/-- The rounding floating-point instructions: the exact value rounded once into the type, the raised flags set, a trap in TRAP mode
(R148, R149, R111, R112); FMIN, FMAX, FCMP and FCVT with their traps, and each bit of FCLASS (R150-R152). -/
def Obligations.FloatResults : Prop :=
  (∀ (o : AR) s,
     let t := scalarType o.f
     let r := if o.f.getLsbD 3 then s.me.dynRound else ⟨RMode.ofCode (o.f.extractLsb' 1 2), o.f.getLsbD 0⟩
     let x := t.read s.me.ftz ((s.greg o.a).toNat % 2 ^ t.width)
     let y := t.read s.me.ftz ((s.greg o.b).toNat % 2 ^ t.width)
     let z := t.read s.me.ftz ((s.greg o.d).toNat % 2 ^ t.width)
     ∀ i e, (i, e) ∈ [(Instr.fadd o, xadd r.mode x y), (.fsub o, xadd r.mode x y.neg), (.fmul o, xmul x y), (.ffma o, xfma r.mode x y z),
         (.fdiv o, xdiv x y), (.fsqrt o, xsqrt x)] →
       let v := t.round r.mode r.sat s.me.ftz e.v
       let flagged := s.modMe fun u => u.raise (e.raised ||| v.raised)
       ((∀ c, judge s.me.modes (e.raised ||| v.raised) ≠ .trap c) → exec i s = .next (flagged.result o.d (BitVec.ofNat 64 v.bits))) ∧
       (∀ c, judge s.me.modes (e.raised ||| v.raised) = .trap c → exec i s = .next (flagged.trap c (s.greg o.a)))) ∧
  (∀ (o : AR) s,
     let t := scalarType o.f
     let x := t.read s.me.ftz ((s.greg o.a).toNat % 2 ^ t.width)
     let y := t.read s.me.ftz ((s.greg o.b).toNat % 2 ^ t.width)
     let least (a b : XReal) (p q : Nat) : Nat := if xltTotal a b then p else q
     let xb := flushedBits t s.me.ftz ((s.greg o.a).toNat % 2 ^ t.width)
     let yb := flushedBits t s.me.ftz ((s.greg o.b).toNat % 2 ^ t.width)
     (x.isNaN = true → Writes (.fmin o) s o.d (BitVec.ofNat 64 yb) ∧ Writes (.fmax o) s o.d (BitVec.ofNat 64 yb)) ∧
     (x.isNaN = false → y.isNaN = true → Writes (.fmin o) s o.d (BitVec.ofNat 64 xb) ∧ Writes (.fmax o) s o.d (BitVec.ofNat 64 xb)) ∧
     (x.isNaN = false → y.isNaN = false →
       Writes (.fmin o) s o.d (BitVec.ofNat 64 (least x y xb yb)) ∧ Writes (.fmax o) s o.d (BitVec.ofNat 64 (least y x xb yb))) ∧
     ((x.isNaN || y.isNaN) = true → (o.f.extractLsb' 0 3).toNat ∈ [1, 2] → s.me.excmode.extractLsb' 0 2 ≠ 2 →
       exec (.fcmp o) s = .next ((s.modMe fun u => { u with excmode := u.excmode ||| 0x10000 }).resultPred o.d false)) ∧
     ((x.isNaN || y.isNaN) = true → (o.f.extractLsb' 0 3).toNat ∈ [1, 2] → s.me.excmode.extractLsb' 0 2 = 2 →
       exec (.fcmp o) s = .next ((s.modMe fun u => { u with excmode := u.excmode ||| 0x10000 }).trap 0x0010 (s.greg o.a))) ∧
     (∀ c : Bool, ((o.f.extractLsb' 0 3).toNat, c) ∈ [(0, xeq x y), (3, x.isNaN || y.isNaN), (4, !xeq x y)] →
       exec (.fcmp o) s = .next (s.resultPred o.d c)) ∧
     (∀ c : Bool, (x.isNaN || y.isNaN) = false → ((o.f.extractLsb' 0 3).toNat, c) ∈ [(1, xlt x y), (2, !xlt y x)] →
       exec (.fcmp o) s = .next (s.resultPred o.d c)) ∧
     (let r := if o.b.getLsbD 3 then s.me.dynRound else ⟨RMode.ofCode (o.f.extractLsb' 1 2), o.f.getLsbD 0⟩
      let v := fcvtValue (o.f.extractLsb' 3 3).toNat (o.b.extractLsb' 0 3).toNat r s.me.ftz (s.greg o.a).toNat
      ((∀ c, judge s.me.modes v.2 ≠ .trap c) →
        exec (.fcvt o) s = .next ((s.modMe fun u => u.raise v.2).result o.d (BitVec.ofNat 64 v.1))) ∧
      (∀ c, judge s.me.modes v.2 = .trap c → exec (.fcvt o) s = .next ((s.modMe fun u => u.raise v.2).trap c (s.greg o.a)))) ∧
     (∀ eb mb : Nat, ((o.f.extractLsb' 4 2).toNat, eb, mb) ∈ [(0, 11, 52), (1, 8, 23), (2, 5, 10), (3, 8, 7)] →
       let b := (s.greg o.a).toNat % 2 ^ (1 + eb + mb)
       let e := b / 2 ^ mb % 2 ^ eb
       let m := b % 2 ^ mb
       let side (neg pos : Nat) : Nat := if b / 2 ^ (eb + mb) = 1 then neg else pos
       Writes (.fclass o) s o.d (BitVec.ofNat 64 (2 ^ (
         if e = 2 ^ eb - 1 then (if m = 0 then side 0 7 else 8)
         else if e = 0 then (if m = 0 then side 3 4 else side 2 5) else side 1 6)))))

/-! ## Frames and traps of the scalar classes -/

/-- What the register-only instructions of classes 1 to 3 leave as it was: every other thread and unit, every byte of memory, every
register but g[d], the predicates, and of EXCMODE all but FLAGS. -/
def Obligations.RegisterInstructionFrame : Prop :=
  ∀ (s t : State) (i : Instr) (d : RegNo),
    ((∃ o : AR, o.d = d ∧ i ∈ [.add o, .sub o, .mul o, .div o, .rem o, .andA o, .orA o, .xorA o, .andn o, .shl o, .shr o, .rotl o, .clz o,
        .popc o, .min o, .max o, .setCond o, .sel o, .bfx o, .bfi o, .tid o, .fadd o, .fsub o, .fmul o, .ffma o, .fdiv o, .fsqrt o,
        .fmin o, .fmax o, .fcvt o, .fclass o]) ∨
      (∃ o : AI, o.d = d ∧ i ∈ [.addi o, .movi o]) ∨ (∃ o : ARE, o.d = d ∧ i = .lea o)) →
    exec i s = .next t → t.cur.trapped = false →
    SameButThread s.cur.th s t ∧ (∀ a, t.readByte a = s.readByte a) ∧ (∀ r, r ≠ d → t.greg r = s.greg r) ∧
      t.me.pc = s.cur.pc + 8 ∧ t.me.excmode &&& ~~~(0x3F0000 : Word) = s.me.excmode &&& ~~~(0x3F0000 : Word) ∧
      t.me = { s.me with g := t.me.g, h := t.me.h, pc := t.me.pc, excmode := t.me.excmode }

/-- A write to g0 is discarded, g0 reads zero, and another register reads back what was written (R122). -/
def Obligations.RegisterZeroDiscards : Prop :=
  ∀ (s : State) v,
    (s.result 0 v = s.advance) ∧ (s.greg 0 = 0) ∧
    (∀ d, d ≠ 0 → (s.result d v).greg d = v ∧ (s.result d v).me.pc = s.cur.pc + 8)

/-- Branches, predicate writes and NOP leave memory, other threads and units, and what the entry does not name. -/
def Obligations.ControlFrame : Prop :=
  ∀ (s t : State) (i : Instr),
    ((∃ o : AR, i ∈ [.bri o, .ret o, .pset o, .plogic o, .nop o, .fcmp o]) ∨ (∃ o : AI, i ∈ [.br o, .brp o, .call o])) →
    exec i s = .next t → t.cur.trapped = false →
    SameButThread s.cur.th s t ∧ (∀ a, t.readByte a = s.readByte a) ∧
      t.me = { s.me with g := t.me.g, h := t.me.h, p := t.me.p, pc := t.me.pc, excmode := t.me.excmode } ∧
      ((∀ o, i ≠ .fcmp o) → t.me.excmode = s.me.excmode) ∧
      ((∀ o, i ≠ .pset o ∧ i ≠ .plogic o ∧ i ≠ .fcmp o) → t.me.p = s.me.p) ∧
      (∀ r, r ≠ 31 → (∀ o, i = .bri o → r ≠ o.d) → t.greg r = s.greg r)

/-- Trap entry (R130): what the trap registers hold, and either the handler or a stopped thread with its record. -/
def Obligations.TrapEntry : Prop :=
  ∀ (s : State) (th code : Nat) (defer slotB : Bool) (pc v : Word),
    let t := s.thread th
    let s' := s.takeTrap th code defer slotB pc v
    let t' := s'.thread th
    ((t'.trapcause.extractLsb' 0 16).toNat = code % 65536 ∧ t'.trapcause.getLsbD 16 = defer ∧ t'.trapcause.getLsbD 17 = slotB ∧
      t'.trapcause.getLsbD 18 = t.uih ∧ t'.trapcause.extractLsb' 24 7 = t.p.extractLsb' 1 7 ∧
      t'.trappc = pc &&& ~~~(7 : Word) ∧ t'.trapval = v ∧ t'.uih = false ∧ t'.g = t.g ∧ t'.h = t.h ∧ t'.p = t.p ∧ t'.excmode = t.excmode) ∧
    (t.hnd = false → t.trapvec.getLsbD 0 = true →
      t'.hnd = true ∧ t'.pc = t.trapvec &&& ~~~(7 : Word) ∧ t'.running = t.running ∧ s'.net = s.net) ∧
    ((t.hnd = true ∨ t.trapvec.getLsbD 0 = false) →
      t'.running = false ∧ t'.hnd = false ∧
      s'.net = (s.send clsFlt (dieOfTile (tileOfThread th)) (dieOfTile (tileOfThread th)) (.fault (s.threadRecord th code pc v t.hnd))).net) ∧
    (∀ x, x ≠ th → s'.thread x = s.thread x) ∧ (∀ a, s'.readByte a = s.readByte a) ∧ s'.tiles = s.tiles ∧ s'.pes = s.pes

/-- TRAP raises a software trap whose value is its immediate (R428). ERET outside a handler is an illegal operation; in one it restores PC,
predicates and UIH and leaves HND 0; nothing is resubmitted where TRAPCAUSE.DEFER is 0, and where it is 1 the parked access is, unless
its scope entry is under update, when ERET is held (R133, R311, R430). -/
def Obligations.TrapAndReturn : Prop :=
  (∀ (o : AI) s, Traps (.trap o) s 0x00B0 (o.imm.signExtend 64)) ∧
  (∀ (o : AR) s,
     (s.me.hnd = false → Traps (.eret o) s 0x0001 s.cur.word) ∧
     (s.me.hnd = true → s.me.trapcause.getLsbD 16 = false →
       ∃ t, exec (.eret o) s = .next t ∧ t.me.pc = s.me.trappc ∧ (∀ i, 1 ≤ i → i ≤ 7 → t.me.p.getLsbD i = s.me.trapcause.getLsbD (23 + i)) ∧
         t.me.uih = s.me.trapcause.getLsbD 18 ∧ t.me.hnd = false ∧ t.me.g = s.me.g ∧ t.me.h = s.me.h ∧ t.me.excmode = s.me.excmode ∧
         SameButThread s.cur.th s t) ∧
     (∀ id q, s.me.hnd = true → s.me.trapcause.getLsbD 16 = true → s.me.taken = [id] → s.req? id = some q → q.stage = .parked →
       (s.resubmitHolds q = true → exec (.eret o) s = .next s.hold) ∧
       (q.op.ofUnit = false → q.op.scoped = false →
         ∃ t, exec (.eret o) s = .next t ∧ t.me.pc = s.me.trappc ∧
           (∀ i, 1 ≤ i → i ≤ 7 → t.me.p.getLsbD i = s.me.trapcause.getLsbD (23 + i)) ∧
           t.me.uih = s.me.trapcause.getLsbD 18 ∧ t.me.hnd = false ∧ t.me.taken = [] ∧ t.me.g = s.me.g ∧ t.me.h = s.me.h ∧
           t.req? id = some { q with stage := if q.slot then (if q.pool then .region else .walk) else .held, again := true } ∧
           (∀ x, x ≠ id → t.req? x = s.req? x) ∧ t.mem = s.mem ∧ ∀ th, th ≠ s.cur.th → t.thread th = s.thread th)))

/-- The interrupts of R119 rows 1 to 3: a deferred fault enters its trap with TRAPPC the next bundle, a pre-emption enters one with
CODE PREEMPT, a user interrupt saves PC, predicates and PEND in h0 and h1 (R132, R282, R441). -/
def Obligations.InterruptEntries : Prop :=
  ∀ s : State,
    (∀ f rest, s.me.deferred = f :: rest →
      let s1 : State := { s with reqs := s.reqs.map fun r => if f.req = some r.id then { r with since := s.me.order } else r }
      exec .deferredTrapEntry s = .next ((s1.modMe fun t => { t with deferred := rest, taken := f.req.toList }).takeTrap s.cur.th
        f.code true false s.me.pc f.va)) ∧
    (s.me.preempt = true → s.me.hnd = false →
      exec .preemptInterruptTake s = .next ((s.modMe fun t => { t with preempt := false }).takeTrap s.cur.th 0x00B2 false false s.me.pc 0)) ∧
    (s.me.uivec.getLsbD 0 = true → s.me.uistat.extractLsb' 4 4 ≠ 0 → s.me.hnd = false → s.me.uih = false →
      ∃ t, exec .userInterruptTake s = .next t ∧ mapGet 0 t.me.h 0 = s.me.pc ∧
        (mapGet 0 t.me.h 1).extractLsb' 4 7 = s.me.p.extractLsb' 1 7 ∧ (mapGet 0 t.me.h 1).extractLsb' 0 4 = s.me.uistat.extractLsb' 4 4 ∧
        t.me.uistat = s.me.uistat &&& 0xF ∧ t.me.uih = true ∧ t.me.pc = s.me.uivec &&& ~~~(7 : Word) ∧ t.me.g = s.me.g ∧
        SameButThread s.cur.th s t)

/-! ## Node firings of classes 1, 4 and 5 -/

namespace Sys2Proof.Claims

/-- A firing that is neither an E nor on a null operand. -/
def Plain (f : Firing) : Prop := f.eos = false ∧ f.nul = false

/-- The firing's node emits these results, in order, to its destinations, after its sample and its FIRE record. -/
def Emits (i : Instr) (s : State) (rs : List (Word × List TWord)) : Prop :=
  exec i s = .next (rs.foldl (fun t r => t.emit s.cur.fir r.1 r.2)
    (s.beginFire.traceFire s.cur.fir ((rs.head?.map (·.1)).getD s.cur.fir.tag) ((rs.head?.map (·.2)).getD [])))

/-- An operand word at n bits: a 32-bit word is sign-extended, a 64-bit one cut (R137). -/
def operand (n : Nat) (x : TWord) : BitVec n := if x.wide then x.w.setWidth n else (x.w.setWidth 32).signExtend n

/-- Word i of a class-1 result: its width is that of L's word. -/
def intWord (op : (n : Nat) → BitVec n → BitVec n → BitVec n → BitVec n) (f : Firing) (i : Nat) : TWord :=
  let x := f.l.getD i default
  let y := f.r.getD i default
  let c := f.c.getD i default
  { w := if x.wide then op 64 (operand 64 x) (operand 64 y) (operand 64 c) else (op 32 (operand 32 x) (operand 32 y) (operand 32 c)).setWidth 64,
    p := f.laneP i, n := false, wide := x.wide }

/-- Results of packed elements as words with the P of their lanes (R111, R113). -/
def packed (f : Firing) (ws : List ERes) : List TWord := (ws.zip (List.range ws.length)).map fun x => narrow x.1.1 (f.laneP x.2)

/-- No word's classes are in POISON or TRAP mode. -/
def Clean (s : State) (k : Nat) (ws : List ERes) : Prop := ∀ w ∈ ws, judge (s.taskModes k) w.2 = .clean

end Sys2Proof.Claims

/-- Class-1 nodes that raise nothing compute word by word at the width of L's words (R137); DIV and REM as nodes (R136). -/
def Obligations.IntegerNodeResults : Prop :=
  (∀ s : State, let f := s.cur.fir
     let lit (n : Nat) : BitVec n := f.node.r.lit32.signExtend n
     let flag (n : Nat) (c : Bool) : BitVec n := if c then 1 else 0
     let rnd := f.node.r.rnd
     let pos (n : Nat) (y : BitVec n) : Nat := y.toNat % 64 % n
     let len (n : Nat) (y : BitVec n) : Nat := min (y.toNat / 256 % 64 + 1) (n - pos n y)
     Plain f →
     (∀ i op, (i, op) ∈ ([(.addNode, fun _ x y _ => x + y), (.subNode, fun _ x y _ => x - y), (.addiNode, fun n x _ _ => x + lit n),
       (.moviNode, fun n _ _ _ => lit n), (.andNode, fun _ x y _ => x &&& y), (.orNode, fun _ x y _ => x ||| y),
       (.xorNode, fun _ x y _ => x ^^^ y), (.andnNode, fun _ x y _ => x &&& ~~~y), (.shlNode, fun n x y _ => x <<< (y.toNat % n)),
       (.rotlNode, fun n x y _ => x.rotateLeft (y.toNat % n)), (.clzNode, fun _ x _ _ => x.clz),
       (.popcNode, fun n x _ _ => BitVec.ofNat n ((List.range n).filter x.getLsbD).length),
       (.leaNode, fun n x y _ => x + (y <<< rnd.toNat) + lit n),
       (.bfiNode, fun n x y c => let m : BitVec n := (BitVec.allOnes n >>> (n - len n y)) <<< pos n y
         (c &&& ~~~m) ||| ((x <<< pos n y) &&& m))] : List (Instr × ((n : Nat) → BitVec n → BitVec n → BitVec n → BitVec n))) →
       Emits i s [(f.tag, (List.range f.len).map (intWord op f))]) ∧
     (∀ i op, (i, op) ∈ ([(.shrNode, fun n x y _ => if rnd = 0 then x >>> (y.toNat % n) else x.sshiftRight (y.toNat % n)),
       (.minNode, fun _ x y _ => if (if rnd = 0 then x.slt y else x.ult y) then x else y),
       (.maxNode, fun _ x y _ => if (if rnd = 0 then x.slt y else x.ult y) then y else x),
       (.setNode, fun n x y _ => flag n (if rnd = 0 then x == y else if rnd = 1 then x != y else if rnd = 2 then x.slt y
         else if rnd = 3 then x.ult y else if rnd = 4 then x.sle y else x.ule y)),
       (.mulNode, fun n x y _ => if rnd = 0 then x * y else if rnd = 1 then (x.signExtend (2 * n) * y.signExtend (2 * n)).extractLsb' n n
         else (x.setWidth (2 * n) * y.setWidth (2 * n)).extractLsb' n n),
       (.bfxNode, fun n x y _ => if rnd = 0 then (x.extractLsb' (pos n y) (len n y)).setWidth n
         else (x.extractLsb' (pos n y) (len n y)).signExtend n)] : List (Instr × ((n : Nat) → BitVec n → BitVec n → BitVec n → BitVec n))) →
       Emits i s [(f.tag, (List.range f.len).map (intWord op f))]) ∧
     Emits .selNode s [(f.tag, (List.range f.len).map fun k =>
       intWord (fun _ x y _ => if (f.c.getD k default).w = 0 then y else x) f k)]) ∧
  (∀ s : State, let f := s.cur.fir
     let mode := s.beginFire.taskModes f.task / 4 ^ 5 % 4
     let zero (k : Nat) : Bool :=
       if (f.l.getD k default).wide then operand 64 (f.r.getD k default) == 0 else operand 32 (f.r.getD k default) == 0
     let word (op : (n : Nat) → BitVec n → BitVec n → BitVec n → BitVec n) (k : Nat) : TWord :=
       let w := intWord op f k
       { w with p := w.p || (zero k && mode == 1) }
     Plain f → mode ≠ 2 →
     ∀ i op, (i, op) ∈ ([(.divNode, fun n x y _ => if y = 0 then BitVec.allOnes n else if f.node.r.rnd = 0 then x.sdiv y else x / y),
       (.remNode, fun _ x y _ => if y = 0 then x else if f.node.r.rnd = 0 then x.srem y else x % y)] :
         List (Instr × ((n : Nat) → BitVec n → BitVec n → BitVec n → BitVec n))) →
       Emits i s [(f.tag, (List.range f.len).map (word op))])

/-- A computing node passes an E with its count and, on a null operand, nulls of the run (R113, R214, R215). That a null's word is 0 is
the model's choice, log 33 (R39 and R214 give a null no payload). -/
def Obligations.ComputingNodesPassEndAndNull : Prop :=
  ∀ (s : State) (i : Instr), let f := s.cur.fir
    i ∈ [.addNode, .subNode, .addiNode, .mulNode, .divNode, .remNode, .andNode, .orNode, .xorNode, .andnNode, .shlNode, .shrNode, .rotlNode,
      .clzNode, .popcNode, .minNode, .maxNode, .setNode, .selNode, .moviNode, .bfxNode, .bfiNode, .leaNode, .vaddNode, .vsubNode, .vmulNode,
      .vfmaNode, .vminNode, .vmaxNode, .vabsNode, .vnegNode, .vcmpNode, .vselNode, .vandNode, .vorNode, .vxorNode, .vshlNode, .vshrNode,
      .vcvtNode, .vqntNode, .vpackNode, .vunpackNode, .vclampNode, .vmovNode, .viotaNode, .vshufNode, .vredsumNode, .vredmaxNode,
      .vredminNode, .vscanNode, .vdotNode, .vexpNode, .vlog2Node, .vrcpNode, .vrsqrtNode, .vsqrtNode, .vsigNode, .vtanhNode, .vsinNode,
      .vcosNode] →
    (f.eos = true → exec i s = .next ((s.beginFire.traceFire f f.tag f.l).emitE f f.tag ((firstWord (f.l ++ f.r ++ f.c)).toNat % 2 ^ 32) f.anyP)) ∧
    (f.eos = false → f.nul = true → Emits i s [(f.tag, (List.range f.len).map fun k => { w := 0, p := f.laneP k, n := true, wide := false })])

/-- Class-4 and class-5 nodes that raise nothing: the computing nodes (R171-R174, R177), the conversions (R164) and those that rearrange or
reduce words (R168, R175, R176). Results of the special functions that no enclosure decides are free, log 7; a scan's flags are those of
every partial sum, log 22 (the model's choices). -/
def Obligations.VectorNodeResults : Prop :=
  (∀ s : State, let f := s.cur.fir
     let n := f.node.r
     let t := n.etype
     let r := nodeRnd n.rnd
     let z := s.beginFire.taskFtz f.task
     let xs := unpackWords t (words32 f.l)
     let ys := unpackWords t (words32 f.r)
     let zs := unpackWords t (words32 f.c)
     Plain f →
     ∀ i e, (i, e) ∈ ([(.vaddNode, eAdd t r z), (.vsubNode, eSub t r z), (.vmulNode, eMul t r z), (.vfmaNode, eFma t r z),
       (.vminNode, eMin t r z), (.vmaxNode, eMax t r z), (.vabsNode, eAbs t r z), (.vnegNode, eNeg t r z), (.vcmpNode, eCmp n.rnd.toNat t r z),
       (.vselNode, eSel t r z), (.vandNode, eAnd t r z), (.vorNode, eOr t r z), (.vxorNode, eXor t r z), (.vshlNode, eShl t r z),
       (.vshrNode, eShr (n.rnd == 1) t r z), (.vclampNode, fun x y w => eClamp t z x y w), (.vmovNode, fun x _ _ => (x % 2 ^ t.width, 0)),
       (.vexpNode, fun x _ _ => eSfu .exp t t r z x), (.vlog2Node, fun x _ _ => eSfu .log2 t t r z x),
       (.vrcpNode, fun x _ _ => eSfu .rcp t t r z x), (.vrsqrtNode, fun x _ _ => eSfu .rsqrt t t r z x),
       (.vsqrtNode, fun x _ _ => eSfu .sqrt t t r z x), (.vsigNode, fun x _ _ => eSfu .sig t t r z x),
       (.vtanhNode, fun x _ _ => eSfu .tanh t t r z x), (.vsinNode, fun x _ _ => eSfu .sin t t r z x),
       (.vcosNode, fun x _ _ => eSfu .cos t t r z x)] : List (Instr × (Nat → Nat → Nat → ERes))) →
       let ws := packElems t (mapElemsN e xs ys zs)
       Clean s.beginFire f.task ws → Emits i s [(f.tag, packed f ws)]) ∧
  (∀ s : State, let f := s.cur.fir
     let s0 := s.beginFire
     let n := f.node.r
     let t := n.etype
     let r := nodeRnd n.rnd
     let z := s0.taskFtz f.task
     let xs := unpackWords t (words32 f.l)
     let ys := unpackWords t (words32 f.r)
     Plain f →
     (∀ i v, (i, v) ∈ [(Instr.vredsumNode, eRedSum t r z xs), (.vredmaxNode, eRedSel false t z xs), (.vredminNode, eRedSel true t z xs),
       (.vdotNode, eDot t r z xs ys)] → Clean s0 f.task [v] → Emits i s [(f.tag, [narrow v.1 f.anyP])]) ∧
     (let ws := packElems t (eScan t r z xs)
      Clean s0 f.task ws → Emits .vscanNode s [(f.tag, (ws.zip (List.range ws.length)).map fun x => narrow x.1.1 ((f.l.take (x.2 + 1)).any (·.p)))]) ∧
     (let ws := (List.range f.len).map fun i => eQnt .fp32 t r z (bits32 (f.l.getD i default)) (bits32 (f.r.getD i default))
      Clean s0 f.task ws → Emits .vqntNode s [(f.tag, packed f ws)]) ∧
     (let ws := (List.range f.len).map fun i =>
        let es := (List.range t.epw).map fun q => eIota t r z ((s0.f0 f.task f.tag + i) * t.epw + q)
        (packWord t (es.map (·.1)), es.foldl (fun a e => a ||| e.2) 0)
      Clean s0 f.task ws → Emits .viotaNode s [(f.tag, packed f ws)]) ∧
     (∀ i rs, (i, rs) ∈ [(Instr.vunpackNode, spreadNode t clean s0 f),
         (.vcvtNode, let src := (ElemType.ofCode (n.lit32.extractLsb' 0 4)).getD .i32
           spreadNode src (eCvt src t r z) s0 f)] →
       (∀ x ∈ rs, ∀ w ∈ x.2, judge (s0.taskModes f.task) w.2 = .clean) → Emits i s (rs.map fun x => (x.1, x.2.map (·.1)))) ∧
     (let b := s0.f0 f.task f.tag
      let g0 := b / t.epw
      let src (e : Nat) : Option TWord := if e < b then none else f.l[e - b]?
      Emits .vpackNode s [(s0.withF0 f.task f.tag g0, (List.range ((b + f.len - 1) / t.epw - g0 + 1)).map fun g =>
        let es := (List.range t.epw).map fun q => src ((g0 + g) * t.epw + q)
        narrow (packWord t (es.map fun x => bits32 (x.getD default) % 2 ^ t.width)) (es.any fun x => (x.getD default).p))]) ∧
     (Emits .vshufNode s [(f.tag, (List.range f.len).map fun i =>
       let y := f.r.getD i default
       let ks := (unpackWord t (bits32 y)).map fun (k : Nat) => shufIndex (n.rnd == 1) xs.length (k : Int)
       narrow (packWord t (ks.map fun k => (k.map fun j => xs.getD j 0).getD 0))
         (y.p || ks.any fun k => (k.map fun j => (f.l.getD (j / t.epw) default).p).getD false))]))

/-! ## Commands of the vector and matrix engines -/

namespace Sys2Proof.Claims

/-- The issuing thread's queue of engine e gains one command with the next number; nothing else of the part changes, and the thread
goes on where slot A issued it. -/
def Queues (i : Instr) (s : State) (e : Nat) (op : Instr) (d a b shape : Word) (slotA : Bool) : Prop :=
  ∃ t c, exec i s = .next t ∧ t.me.queue e = s.me.queue e ++ [c] ∧ c.th = some s.cur.th ∧ c.op = op ∧ c.d = d ∧ c.a = a ∧ c.b = b ∧
    c.shape = shape ∧ c.exc = s.me.excmode ∧ c.num = (s.me.issued e + 1).toNat ∧ t.me.issued e = s.me.issued e + 1 ∧
    t.me.counter e = s.me.counter e ∧ t.me.g = s.me.g ∧ t.me.pc = (if slotA then s.cur.pc + 8 else s.me.pc) ∧
    (∀ x, t.readByte x = s.readByte x) ∧ t.tiles = s.tiles ∧ t.pes = s.pes ∧ (∀ x, x ≠ s.cur.th → t.thread x = s.thread x)

/-- The slot-B instructions. -/
def sweeps (o : BO) : List Instr :=
  [.vadd o, .vsub o, .vmul o, .vfma o, .vmin o, .vmax o, .vabs o, .vneg o, .vcmp o, .vsel o, .vand o, .vor o, .vxor o, .vshl o, .vshr o,
    .vcvt o, .vqnt o, .vpack o, .vunpack o, .vclamp o, .vmov o, .viota o, .vshuf o, .vredsum o, .vredmax o, .vredmin o, .vscan o, .vdot o,
    .vexp o, .vlog2 o, .vrcp o, .vrsqrt o, .vsqrt o, .vsig o, .vtanh o, .vsin o, .vcos o, .topk o]

end Sys2Proof.Claims

/-- A sweep enters the vector engine's queue with its descriptors as they stood before the bundle; a bad descriptor traps; a memory tile
has no sweeps; a full queue holds it (R22, R49, R57-R61, R70). -/
def Obligations.SweepIssue : Prop :=
  ∀ (o : BO) s i, i ∈ sweeps o →
    let ds := s.cur.desc.getD (s.greg o.d, s.greg o.a, s.greg o.b)
    (isMemTile s.myTile = true → Traps i s 0x0001 s.cur.word) ∧
    (∀ w, isMemTile s.myTile = false → descError i ds.1 ds.2.1 ds.2.2 = some w → Traps i s 0x0003 w) ∧
    (isMemTile s.myTile = false → descError i ds.1 ds.2.1 ds.2.2 = none → (s.me.queue 1).length < 2 → Queues i s 1 i ds.1 ds.2.1 ds.2.2 0 false) ∧
    (isMemTile s.myTile = false → descError i ds.1 ds.2.1 ds.2.2 = none → 2 ≤ (s.me.queue 1).length → exec i s = .next s.hold)

/-- The vector engine, idle, takes the head of the next queue in turn and runs it; while VERR.VALID is 1 the command has no access; its
completion advances the thread's counter (R156-R158, R276). Which queue is first after reset is the model's choice, log 5, and so is that
the whole sweep runs in the step that takes it, log 26. -/
def Obligations.VectorEngine : Prop :=
  ∀ (s : State) (tile th : Nat) (c : EngCmd) (rest : List EngCmd),
    (s.stopped tile = false → (s.tile tile).vecRun = none → nextServed s tile (s.tile tile).vecLast 1 = some th →
      (s.thread th).queue 1 = c :: rest →
      ∃ t, exec (.vectorEngineTake tile) s = .next t ∧ (t.tile tile).vecRun = some c ∧ (t.tile tile).vecLast = th % 8 ∧
        t = (runVector c tile (s.modThread th fun x => x.setQueue 1 rest)).modTile tile (fun x => { x with vecRun := some c, vecLast := th % 8 }) ∧
        (((s.modThread th fun x => x.setQueue 1 rest).thread (c.th.getD 0)).errValid 1 = true → ∀ a, t.readByte a = s.readByte a)) ∧
    (s.stopped tile = false → (s.tile tile).vecRun = some c → c.th = some th → (s.thread th).tlOut = [] →
      BitVec.ofNat 64 c.num = (s.thread th).counter 1 + 1 →
      ∃ t, exec (.vectorCommandComplete tile) s = .next t ∧ (t.tile tile).vecRun = none ∧ (t.thread th).counter 1 = (s.thread th).counter 1 + 1)

/-- A pool write changes the bytes it names alone, wherever repair serves them, and they read back, as the bits of a cell allow (R502,
R505; that a cell can be stuck is the model's event, log 115); memory stays canonical (R237, R435). -/
def Obligations.PoolWriteFrame : Prop :=
  ∀ (s : State) (t a : Nat) (bs : List Byte), s.Inv →
    (s.poolWrite t a bs).Inv ∧
    (∀ x, (∀ i, i < bs.length → x ≠ poolKey s t (a + i)) → (s.poolWrite t a bs).readByte x = s.readByte x) ∧
    (∀ i, i < bs.length → (∀ j, i < j → j < bs.length → poolKey s t (a + j) ≠ poolKey s t (a + i)) →
      (s.poolWrite t a bs).poolByte t (a + i) = s.stuckByte (poolKey s t (a + i)) (bs.getD i 0)) ∧
    (s.stuck = [] → ∀ k b, s.stuckByte k b = b)

/-- A matrix command enters its thread's queue with the shape word of its issue; MSHAPE sets its entry (R183, R185, R189-R195). -/
def Obligations.MatrixIssue : Prop :=
  ∀ (o : AR) s,
    let sh := s.shape (s.myTask.getD 0) s.myTile (o.f.extractLsb' 0 3).toNat
    let d := s.greg o.d; let a := s.greg o.a; let b := s.greg o.b
    (∀ i, i ∈ [Instr.mma o, .mmaz o, .mmas o, .mmax o, .mzero o, .mout o, .mtrn o, .mfetch o] →
      (isMemTile s.myTile = true → Traps i s 0x0001 s.cur.word) ∧
      (∀ w, isMemTile s.myTile = false → mtxError i sh d a b = some w → Traps i s 0x0003 w) ∧
      (isMemTile s.myTile = false → mtxError i sh d a b = none → (s.me.queue 2).length < 2 → Queues i s 2 i d a b sh true) ∧
      (isMemTile s.myTile = false → mtxError i sh d a b = none → 2 ≤ (s.me.queue 2).length → exec i s = .next s.hold)) ∧
    (isMemTile s.myTile = true → Traps (.mshape o) s 0x0001 s.cur.word) ∧
    (isMemTile s.myTile = false → shapeValid a = false → Traps (.mshape o) s 0x0003 a) ∧
    (∀ k, isMemTile s.myTile = false → shapeValid a = true → s.myTask = some k → (s.run? k).isSome = true →
      ∃ t, exec (.mshape o) s = .next t ∧ t.shape k s.myTile (o.f.extractLsb' 0 3).toNat = a ||| 0x8000000000000000 ∧
        t.me.pc = s.cur.pc + 8 ∧ t.me.g = s.me.g ∧ ∀ x, t.readByte x = s.readByte x)

/-- Class-6 nodes: an E passes; a firing of the cycle in which a higher PE has fired, or one that finds the queue of two full, keeps its
place and waits; else null and poisoned operands pass without an operation, an operand word too long or a payload that the checks refuse
is recorded and passes with P, and any other puts its command into the node-source queue. A scalar MSHAPE sets a shape, and where its word
is no shape a record tells of it, the entry is invalid, and the scalar passes with P (R179, R188, R196;
what the record's last word holds where no address offends is the model's choice, log 111). -/
def Obligations.MatrixNodeFires : Prop :=
  (∀ (s : State) i j, let f := s.cur.fir
     let tile := tileOfPe f.pe
     let p := s.places tile 2
     (i, j) ∈ [(Instr.mmaNode, Instr.mma (nodeAR f)), (.mmazNode, .mmaz (nodeAR f)), (.mmasNode, .mmas (nodeAR f)), (.mmaxNode, .mmax (nodeAR f)),
       (.mzeroNode, .mzero (nodeAR f)), (.moutNode, .mout (nodeAR f)), (.mtrnNode, .mtrn (nodeAR f)), (.mfetchNode, .mfetch (nodeAR f))] →
     (f.eos = true → exec i s = .next ((s.beginFire.traceFire f f.tag f.l).passE f)) ∧
     (f.eos = false → p.cycle = s.cycleOf tile → f.pe < p.pe → exec i s = .next s.hold) ∧
     (f.eos = false → ¬ (p.cycle = s.cycleOf tile ∧ f.pe < p.pe) → s.placed tile 2 = [] →
       (2 ≤ (s.tile tile).mtxNode.length → exec i s = .next (s.setPlaces tile 2 ⟨[(f, false)], s.cycleOf tile, f.pe⟩).hold) ∧
       (∀ g, (s.tile tile).mtxNode.length < 2 → s.scalars f = [g] →
         let x := mtxNodeOps j g
         let s0 := s.beginFire.traceFire f f.tag f.l
         let sh := s0.shape g.task tile (g.node.r.lit32.extractLsb' 0 3).toNat
         let payload := match j with
           | .mout _ => (x.d.extractLsb' 0 24).toNat
           | _ => x.d.toNat
         let after (u : State) : State := u.setPlaces tile 2 ⟨[], u.cycleOf tile, f.pe⟩
         (g.nul = true → exec i s = .next (after (s0.emit g g.tag g.nulls))) ∧
         (g.nul = false → g.anyP = true → exec i s = .next (after (s0.emit g g.tag [narrow payload true]))) ∧
         (g.nul = false → g.anyP = false →
           (∀ w, x.excess = some w → exec i s = .next (after ((s0.fireRecord g 0x0021 w).emit g g.tag [narrow payload true]))) ∧
           (∀ w, x.excess = none → mtxError j sh x.d x.a x.b = some w →
             exec i s = .next (after ((s0.fireRecord g 0x0003 w).emit g g.tag [narrow payload true]))) ∧
           (x.excess = none → mtxError j sh x.d x.a x.b = none →
             ∃ t c, exec i s = .next t ∧ (t.tile tile).mtxNode = (s0.tile tile).mtxNode ++ [c] ∧ c.op = j ∧ c.d = x.d ∧
               c.a = x.a ∧ c.b = x.b ∧ c.shape = sh ∧ c.th = none ∧ c.fir = g ∧ (∀ a, t.readByte a = s0.readByte a)))))) ∧
  (∀ (s : State) g, let f := s.cur.fir
     let s0 := s.beginFire.traceFire f f.tag f.l
     let n := (g.node.r.lit32.extractLsb' 0 3).toNat
     (f.eos = false → s.scalars f = [g] → g.nul = false → g.anyP = false → shapeValid (nodeShape g) = false →
       exec .mshapeNode s = .next (((s0.setShape g.task (tileOfPe g.pe) n
         (s0.shape g.task (tileOfPe g.pe) n &&& 0x7FFFFFFFFFFFFFFF)).fireRecord g 0x0003 (nodeShape g)).emit g g.tag [narrow n true])) ∧
     (f.eos = false → s.scalars f = [g] → g.nul = false → g.anyP = false → shapeValid (nodeShape g) = true →
     exec .mshapeNode s = .next ((s0.setShape g.task (tileOfPe g.pe) n (nodeShape g ||| 0x8000000000000000)).emit g g.tag [narrow n false]) ∧
       ((s0.run? g.task).isSome = true → (s0.setShape g.task (tileOfPe g.pe) n (nodeShape g ||| 0x8000000000000000)).shape g.task
         (tileOfPe g.pe) n = nodeShape g ||| 0x8000000000000000)))

/-- The matrix engine. Taking: the sequencer-source queue is refilled; the source whose turn it is gives its head where its unit accepts it
(the array one operation, the fetch unit four), else the other source does, and the turn alternates; the command is in progress with
memory as it leaves it; a thread's command has no access while MERR.VALID is 1, and one that stops sets MERR and leaves memory as it was.
Completing: it is in progress no more; a thread's raises its classes and counts; a node's emits its payload, and its trap is taken. MZERO
clears its accumulators alone (R178, R179, R181, R186, R188, R192). Which queue is first after reset is the model's choice, log 5, and so
is that the whole operation runs in the step that takes it, log 26. -/
def Obligations.MatrixEngine : Prop :=
  (∀ (s : State) (tile : Nat) (c : EngCmd) (rest : List EngCmd) (seq : Bool),
     let s1 := mtxFeed tile 2 s
     let x := s1.tile tile
     let src (q : Bool) : List EngCmd := if q then x.mtxSeq else x.mtxNode
     let accepts (c : EngCmd) : Prop :=
       if isFetch c then (x.mtxRun.filter isFetch).length < 4 ∧ s1.fetchWaits tile c = false else ∀ y ∈ x.mtxRun, isFetch y = true
     s.stopped tile = false → isMemTile tile = false → src seq = c :: rest → accepts c →
     (x.mtxSeqNext = seq ∨ ∀ y ys, src (!seq) = y :: ys → ¬ accepts y) →
     let s2 := s1.setTile tile (if seq then { x with mtxSeq := rest, mtxSeqNext := false } else { x with mtxNode := rest, mtxSeqNext := true })
     ∃ t c', exec (.matrixEngineTake tile) s = .next t ∧ (t.tile tile).mtxRun = x.mtxRun ++ [c'] ∧
       c' = { c with aux := c'.aux } ∧ (t.tile tile).mtxSeqNext = !seq ∧
       ((∃ th, c.th = some th ∧ (s2.thread th).errValid 2 = true) → t.mem = s.mem) ∧
       ((∀ th, c.th = some th → (s2.thread th).errValid 2 = false) →
         (∀ s' r, mtxPerform c tile s2 = .ok (s', r) → t.mem = s'.mem) ∧
         (∀ code a, mtxPerform c tile s2 = .error (code, a) → t.mem = s.mem ∧
           ∀ th, c.th = some th → (t.thread th).errValid 2 = true))) ∧
  (∀ (s : State) (tile k th : Nat) (c : EngCmd), s.stopped tile = false → (s.tile tile).mtxRun[k]? = some c → c.th = some th →
     let s1 := s.modTile tile fun x => { x with mtxRun := x.mtxRun.eraseIdx k }
     let flags : Raised := BitVec.ofNat 6 (c.aux.headD 0).toNat
     exec (.matrixOperationComplete tile k) s = .next (s1.modThread th fun t => (t.raise flags).complete 2 (BitVec.ofNat 64 c.num)) ∧
       (s1.tile tile).mtxRun = (s.tile tile).mtxRun.eraseIdx k ∧
       ((s.thread th).tlOut = [] → BitVec.ofNat 64 c.num = (s.thread th).counter 2 + 1 →
         ((s1.modThread th fun t => (t.raise flags).complete 2 (BitVec.ofNat 64 c.num)).thread th).counter 2 = (s.thread th).counter 2 + 1)) ∧
  (∀ (s : State) (tile k : Nat) (c : EngCmd), s.stopped tile = false → (s.tile tile).mtxRun[k]? = some c → c.th = none →
     let code := (c.aux.getD 2 0).toNat
     let payload := match c.op with
       | .mout _ => (c.d.extractLsb' 0 24).toNat
       | _ => c.d.toNat
     let t := (s.modTile tile fun x => { x with mtxRun := x.mtxRun.eraseIdx k }).emit c.fir c.fir.tag [narrow payload (c.aux.getD 1 0 != 0)]
     exec (.matrixOperationComplete tile k) s = .next (if code = 0 then t else t.nodeTrap c.fir code)) ∧
  (∀ (c : EngCmd) (t : Nat) (s : State) (o : AR) (s' : State) (r : Raised), s.Inv → c.op = .mzero o → mtxPerform c t s = .ok (s', r) →
     r = 0 ∧ (∀ i, i < 4 * shapeM c.shape * shapeN c.shape → s'.readByte (poolKey s t (c.d.toNat + i)) = 0) ∧
       (∀ x, (∀ i, i < 4 * shapeM c.shape * shapeN c.shape → x ≠ poolKey s t (c.d.toNat + i)) → s'.readByte x = s.readByte x) ∧
       s' = { s with mem := s'.mem, ecc := s'.ecc })

/-! ## Memory -/

namespace Sys2Proof.Claims

/-- No armed comparator of a tile matches an access of an address space (R464). -/
def NoWatch (s : State) (tile asid : Nat) : Prop := ∀ kind pool va n, s.watchMatch tile asid kind pool va n = none

/-- A slot of the tile is free and the bank of the address is below its quota (R246, R247). -/
def Room (s : State) (va : Word) (write : Bool) : Prop :=
  s.slotFree s.myTile = true ∧ s.bankFree s.myTile (s.peekPa s.myDie s.myAsid va write) = true

/-- The instruction puts one request in and goes on: the named register is pending and a load is counted, no byte of memory and
no other thread or unit changes (R121, R246). -/
def Sends (i : Instr) (s : State) (op : ReqOp) (va : Word) (dest : Option RegNo) (more : Req → Prop) : Prop :=
  ∃ t r, exec i s = .next t ∧ t.reqs = s.reqs ++ [r] ∧ r.op = op ∧ r.va = va ∧ r.tile = s.myTile ∧ r.asid = s.myAsid ∧
    r.stage = .walk ∧ r.slot = true ∧ more r ∧
    (∀ d, dest = some d → r.who = .thread s.cur.th (s.me.preg d) true ∧ t.me.ldout = s.me.ldout + 1 ∧
      (d ≠ 0 → t.me.pending (s.me.preg d) = true)) ∧
    (dest = none → r.who = .thread s.cur.th .none false ∧ t.me.ldout = s.me.ldout ∧ t.me.pend = s.me.pend) ∧
    t.me.pc = s.cur.pc + 8 ∧ t.me.g = s.me.g ∧ t.me.h = s.me.h ∧ t.me.p = s.me.p ∧ t.me.excmode = s.me.excmode ∧
    (∀ x, t.readByte x = s.readByte x) ∧ t.tiles = s.tiles ∧ t.pes = s.pes ∧ t.dies = s.dies ∧
    ∀ x, x ≠ s.cur.th → t.thread x = s.thread x

/-- A loaded value in a register (R260, R262). -/
def loaded (n : Nat) (sext : Bool) (v : Nat) : Word :=
  if sext then (BitVec.ofNat (8 * n) v).signExtend 64 else BitVec.ofNat 64 v

/-- No bank of the issuing tile's neighbourhood holds a line. -/
def LineGone (s t : State) (line : Nat) : Prop := ∀ u ∈ cacheTiles s s.myTile, ∀ y ∈ (t.tile u).cache, y.1 ≠ line

end Sys2Proof.Claims

/-- Global accesses of class 8: a misaligned or non-canonical address traps, a read whose word is poisoned traps, a fifth load is held,
else one request leaves (R121, R258, R260, R262, R264, R429). -/
def Obligations.GlobalAccessIssue : Prop :=
  ∀ (s : State),
    (∀ o : AI, let va := s.greg o.a + (o.imm.sshiftRight 3).signExtend 64
      let c := (o.imm.extractLsb' 0 3).toNat
      let n := 2 ^ (c % 4)
      ((va.toNat % n ≠ 0 ∨ va.extractLsb' 56 8 ≠ 0) → Traps (.ld o) s 0x0021 va ∧ Traps (.st o) s 0x0021 va) ∧
      (va.toNat % n = 0 → va.extractLsb' 56 8 = 0 →
        (s.me.flush = [] → s.poisonAhead va n false = true → Traps (.ld o) s 0x00C0 va) ∧
        (s.me.flush = [] → s.poisonAhead va n false = false → NoWatch s s.myTile s.myAsid → 4 ≤ s.me.ldout →
          exec (.ld o) s = .next s.hold) ∧
        (NoWatch s s.myTile s.myAsid →
          (s.me.flush = [] → s.poisonAhead va n false = false → s.me.ldout < 4 → Room s va false → Sends (.ld o) s (.load n (4 ≤ c)) va (some o.d) fun _ => True) ∧
          (Room s va true → Sends (.st o) s (.store n (s.greg o.d)) va none fun _ => True)))) ∧
    (∀ o : AR, let va := s.greg o.a
      let n := s.greg o.b
      ((va.toNat % 8 ≠ 0 ∨ va.extractLsb' 56 8 ≠ 0) →
        Traps (.isread o) s 0x0021 va ∧ Traps (.iswrite o) s 0x0021 va ∧ Traps (.isclr o) s 0x0021 va) ∧
      (va.toNat % 8 = 0 → va.extractLsb' 56 8 = 0 →
        ((n = 0 ∨ 4096 < n.toNat) → Traps (.isclr o) s 0x0021 n) ∧
        (s.poisonAhead va 8 true = true → Traps (.isread o) s 0x00C0 va) ∧
        (NoWatch s s.myTile s.myAsid →
          (s.poisonAhead va 8 true = false → s.me.ldout < 4 → Room s va false → Sends (.isread o) s .isread va (some o.d) fun _ => True) ∧
          (Room s va true → Sends (.iswrite o) s (.iswrite (s.greg o.b)) va none fun _ => True) ∧
          (n ≠ 0 → n.toNat ≤ 4096 → Room s va true → Sends (.isclr o) s (.isclr n.toNat n.toNat) va none fun _ => True))))

/-- Pool accesses of class 8, and PREF, CFLUSH and CINV (R240, R260, R262, R263): LDP's value, the bytes STP changes and no others, neither
while the tile's role swap fills it; PREF's request, or nothing where it finds no room; the line is gone from the thread's cache banks. -/
def Obligations.PoolAccessAndCacheResults : Prop :=
  ∀ (o : AI) (s : State), s.Inv →
    let va := s.greg o.a + (o.imm.sshiftRight 3).signExtend 64
    let c := (o.imm.extractLsb' 0 3).toNat
    let n := 2 ^ (c % 4)
    let key (k : Nat) := poolKey s s.myTile (va.toNat + k)
    ((va.toNat % n ≠ 0 ∨ poolOk s s.myTask s.myTile va.toNat n false = false) →
      Traps (.ldp o) s 0x0021 va ∧ Traps (.stp o) s 0x0021 va) ∧
    (va.toNat % n = 0 → poolOk s s.myTask s.myTile va.toNat n false = true → s.filling s.myTile = true →
      exec (.ldp o) s = .next s.hold ∧ exec (.stp o) s = .next s.hold) ∧
    (va.toNat % n = 0 → poolOk s s.myTask s.myTile va.toNat n false = true → s.filling s.myTile = false → NoWatch s s.myTile s.myAsid →
      (s.poolPoisoned s.myTile va.toNat n = true → Traps (.ldp o) s 0x00C0 va) ∧
      (s.poolPoisoned s.myTile va.toNat n = false →
        Writes (.ldp o) s o.d (loaded n (4 ≤ c) (bytesToNat ((List.range n).map fun k => s.plainByte (key k))))) ∧
      (s.writable (key 0) n = true →
        ∃ t : State, exec (.stp o) s = .next t ∧ (∀ x, (∀ k, k < n → x ≠ key k) → t.readByte x = s.readByte x) ∧
          (∀ k, k < n → t.readByte (key k) = BitVec.ofNat 8 ((s.greg o.d).toNat / 256 ^ k)) ∧
          t.threads = s.advance.threads ∧ t.tiles = s.tiles ∧ t.pes = s.pes ∧ t.dies = s.dies ∧ t.reqs = s.reqs)) ∧
    (va.extractLsb' 56 8 = 0 → Room s va false →
      ∃ t r, exec (.pref o) s = .next t ∧ t.reqs = s.reqs ++ [r] ∧ r.op = .pref ∧ r.va = va ∧ t.threads = s.advance.threads ∧
        (∀ x, t.readByte x = s.readByte x)) ∧
    ((va.extractLsb' 56 8 ≠ 0 ∨ s.slotFree s.myTile = false) → exec (.pref o) s = .next s.advance) ∧
    (∀ pa, va.extractLsb' 56 8 = 0 → s.peekPa s.myDie s.myAsid va false = some pa →
      ((∀ r ∈ s.reqs, r.thread? ≠ some s.cur.th) →
        ∃ t : State, exec (.cflush o) s = .next t ∧ LineGone s t (pa / 128) ∧ t.me.pc = s.cur.pc + 8 ∧ t.me.g = s.me.g ∧ t.mem = s.mem) ∧
      (∃ t : State, exec (.cinv o) s = .next t ∧ LineGone s t (pa / 128) ∧ t.me.pc = s.cur.pc + 8 ∧ t.me.g = s.me.g ∧ t.mem = s.mem))

namespace Sys2Proof.Claims

/-- A firing of a node with one scalar makes one request, after its sample and its FIRE record (R247, R267, R341). -/
def Requests (i : Instr) (s : State) (op : ReqOp) (va : Word) (wave : Bool) : Prop :=
  let f := s.cur.fir
  let s0 := (s.clearPass f).beginFire.traceFire f f.tag f.l
  ∃ t r g, exec i s = .next t ∧ t.reqs = s0.reqs ++ [r] ∧ r.op = op ∧ r.va = va ∧ r.tile = tileOfPe f.pe ∧ s.scalars f = [g] ∧
    r.who = .node g wave ∧ ((r.slot = true ∧ r.stage ≠ .held) ∨ (r.slot = false ∧ r.stage = .held)) ∧
    (∀ x, t.readByte x = s0.readByte x) ∧ t.threads = s0.threads

/-- A 64- or 32-bit operand word as an address or datum. -/
def wordOf (ws : List TWord) : Word :=
  match ws with
  | x :: _ => if x.wide then x.w else (x.w.setWidth 32).setWidth 64
  | [] => 0

end Sys2Proof.Claims

/-- Class-8 nodes: an E passes; a release or acquire of the context, or a full admission queue, holds the firing; else each scalar of the
run goes in ascending F0. A null passes; a poisoned operand gives zero with P, a store with its record; a bad address gives zero with P
and its record; LDX, STX, ISREAD, ISWRITE and ISCLR request their access. A wave operation without a predecessor in a tile that tracks no
wave requests its access; one with a predecessor waits in its wave, which is admitted (R114, R247, R252-R254, R259, R265, R267, R324).
That the first wave of a tile is admitted with fewer than 16 slots free is the model's choice, log 31. -/
def Obligations.MemoryNodeFires : Prop :=
  ∀ (s : State), let f := s.cur.fir
    let tile := tileOfPe f.pe
    let n := 2 ^ (f.node.r.rnd.extractLsb' 0 2).toNat
    let pool := f.node.r.rnd.getLsbD 2
    let s0 := (s.clearPass f).beginFire.traceFire f f.tag f.l
    let plain := [(Instr.ldx, nodeLoad), (.stx, nodeStore), (.isreadNode, nodeIsread), (.iswriteNode, nodeIswrite), (.isclrNode, nodeIsclr)]
    let waves := [Instr.ldw, .stw]
    (∀ i ∈ plain.map (·.1) ++ waves,
      (f.eos = true → exec i s = .next ((s.beginFire.traceFire f f.tag f.l).passE f)) ∧
      (f.eos = false → s.contextHolds f = true → exec i s = .next s.hold)) ∧
    (f.eos = false → s.contextHolds f = false → NoWatch s tile (s.taskAsid f.task) →
      (∀ x ∈ plain,
        (s0.queueLen tile + f.len ≤ 64 → exec x.1 s = .next ((s.scalars f).foldl (plainAccess x.2) s0)) ∧
        (64 < ((s.scalars f).foldl (plainAccess x.2) s0).queueLen tile → exec x.1 s = .next s.hold)) ∧
      (∀ i ∈ waves,
        (((s.scalars f).foldl waveArrive s0).queueLen tile ≤ 64 → exec i s = .next ((s.scalars f).foldl waveArrive s0)) ∧
        (64 < ((s.scalars f).foldl waveArrive s0).queueLen tile → exec i s = .next s.hold)) ∧
      (∀ g, s0.queueLen tile < 64 → s.scalars f = [g] →
        let va := wordOf g.l
        let v := wordOf g.r
        (∀ i ∈ waves, exec i s = .next (waveArrive s0 g)) ∧
        (g.nul = true → ∀ i ∈ plain.map (·.1), exec i s = .next (s0.emitNull g)) ∧
        (g.nul = false →
          (g.l.any (·.p) = true → ∀ i ∈ [Instr.ldx, .isreadNode], exec i s = .next (s0.nodeResult g 0 true false)) ∧
          ((g.l ++ g.r).any (·.p) = true → ∀ i ∈ [Instr.stx, .iswriteNode, .isclrNode],
            exec i s = .next ((s0.fireRecord g 0x0018 va).nodeResult g 0 true false)) ∧
          ((g.l ++ g.r).any (·.p) = false →
            ((va.toNat % n ≠ 0 ∨ (pool = true ∧ poolOk s0 (some g.task) tile va.toNat n false = false)) → ∀ i ∈ [Instr.ldx, .stx],
              exec i s = .next ((s0.fireRecord g 0x0021 va).nodeResult g 0 true false)) ∧
            (va.toNat % 8 ≠ 0 → ∀ i ∈ [Instr.isreadNode, .iswriteNode, .isclrNode],
              exec i s = .next ((s0.fireRecord g 0x0021 va).nodeResult g 0 true false)) ∧
            ((v = 0 ∨ 4096 < v.toNat) → exec .isclrNode s = .next ((s0.fireRecord g 0x0021 va).nodeResult g 0 true false)) ∧
            (va.toNat % n = 0 → (pool = true → poolOk s0 (some g.task) tile va.toNat n false = true) →
              Requests .ldx s (.load n false) va false ∧ Requests .stx s (.store n v) va false ∧
              ((s0.tile tile).waves = [] → g.node.r.litWpred = 0 →
                (f.node.op = .ldw → Requests .ldw s (.load n false) va true) ∧ (f.node.op = .stw → Requests .stw s (.store n v) va true))) ∧
            (va.toNat % 8 = 0 →
              Requests .isreadNode s .isread va false ∧ Requests .iswriteNode s (.iswrite v) va false ∧
              (v ≠ 0 → v.toNat ≤ 4096 → Requests .isclrNode s (.isclr v.toNat v.toNat) va false))) ∧
          ((s0.tile tile).waves = [] → g.node.r.litWpred ≠ 0 → g.node.r.litWown ≠ 0 → ∀ i ∈ waves, ∃ t w, exec i s = .next t ∧ (t.tile tile).waves = [w] ∧
            w.waiting = [g] ∧ w.tag = g.tag ∧ w.task = g.task ∧ w.admitted = true ∧ w.done = [] ∧ t.reqs = s0.reqs))))

/-- What happens to a request on its way (R243-R249, R257): admission, translation and its faults, loads and stores at their region or
cache bank, structure operations by the word's state, the reply, the retry. -/
def Obligations.RequestProgress : Prop :=
  ∀ (s : State) (r : Nat) (q : Req), s.Inv → s.req? r = some q →
    let die := dieOfTile q.tile
    let key := if q.pool then poolKey s q.tile q.va.toNat else q.pa
    (q.stage = .held → s.slotFree q.tile = true → s.stopped q.tile = false →
      ((s.reqs.find? fun x => x.tile == q.tile && x.stage == .held && s.bankFree x.tile (s.reqPa x)).map (·.id)) = some r →
      ∃ t : State, exec (.requestAdmit r) s = .next t ∧
        t.req? r = some { q with stage := if q.pool then .region else .walk, slot := true, slotNo := s.freeSlot q.tile, cycle := s.cycleOf q.tile } ∧
        t.threads = s.threads ∧ t.tiles = s.tiles ∧ t.mem = s.mem) ∧
    (q.stage = .walk → s.releaseWaits q = false → s.walkerServes q = true → s.stopped q.tile = false →
      (∀ c, lookupTile s q.tile q.asid q.va (Config.freeNat s.tick 1) (Config.freeNat s.tick 2) = .fault c →
        exec (.translationWalkComplete r) s = .next ((s.requestFault q c).waveSweepTile q.tile)) ∧
      (∀ e pa n v, lookupTile s q.tile q.asid q.va (Config.freeNat s.tick 1) (Config.freeNat s.tick 2) = .page e →
        checkPage (s.holdTile q.tile e) die e q.va.toNat true = .ok pa → q.op = .store n v →
        (s.holdTile q.tile e).isPeer die pa = false → (s.holdTile q.tile e).guardHit pa q.op.span = none →
        ∃ (t : State) (p : Packet), exec (.translationWalkComplete r) s = .next (t.waveRouted q) ∧
          t.req? r = some { q with pa := pa, stage := .transit } ∧ t.net = s.net ++ [p] ∧ p.cls = clsReq ∧ p.src = die ∧ p.at_ = die ∧
          p.dst = pa / 2 ^ 40 ∧ p.len = 1 ∧ p.body = .req r ∧ t.mem = s.mem)) ∧
    (s.accepts q = true → q.bank = none →
      (∀ n x, q.op = .load n x → s.poisoned key n = false →
        exec (.regionAccessApply r) s = .next ((s.answer q
          (loaded n x (bytesToNat ((List.range n).map fun k => s.plainByte (key + k)))) false).afterApply q)) ∧
      (∀ n v, q.op = .store n v → n ≤ 8 → s.writable key n = true →
        ∃ t : State, exec (.regionAccessApply r) s = .next ((t.answer q 0 false).afterApply q) ∧
          (∀ a, (∀ k, k < n → a ≠ key + k) → t.readByte a = s.readByte a) ∧
          (∀ k, k < n → t.readByte (key + k) = BitVec.ofNat 8 (v.toNat / 256 ^ k)) ∧ t.threads = s.threads ∧ t.tiles = s.tiles ∧
          t.reqs = s.reqs)) ∧
    (s.accepts q = true →
      (q.op = .isread → s.wordState q.pa = 1 → s.poisoned q.pa 8 = false →
        exec (.structureOperationApply r) s = .next ((s.answer q (s.readWord q.pa) false).afterApply q)) ∧
      (q.op = .isread → s.wordState q.pa = 0 → (∃ k, freePlace 4096 (s.readerRecords (regionOf false q.tile q.pa).2) = some k) →
        ∃ t : State, exec (.structureOperationApply r) s = .next (t.afterApply q) ∧ t.wordState q.pa = 2 ∧
          (∃ q', t.req? r = some q' ∧ q'.stage = .queued) ∧ t.threads = s.threads) ∧
      (∀ v, q.op = .iswrite v → s.wordState q.pa = 0 →
        ∃ t : State, exec (.structureOperationApply r) s = .next ((t.answer q 0 false).afterApply q) ∧ t.wordState q.pa = 1 ∧
          (∀ k, k < 8 → t.readByte (q.pa + k) = BitVec.ofNat 8 (v.toNat / 256 ^ k)) ∧
          (∀ a, (∀ k, k < 8 → a ≠ q.pa + k) → t.readByte a = s.readByte a)) ∧
      (∀ v, q.op = .iswrite v → s.wordState q.pa = 1 →
        ∃ t : State, exec (.structureOperationApply r) s = .next ((t.answer q 0 q.refusedP).afterApply q) ∧ t.wordState q.pa = 1 ∧
          (∀ a, t.readByte a = s.readByte a) ∧
          t.net = (s.send clsFlt (q.pa / 2 ^ 40) (q.pa / 2 ^ 40) (.fault (s.issuerRecord q 0x0070 (s.readWord q.pa) v 0))).net) ∧
      (q.op = .isclr 1 1 → (s.wordState q.pa = 1 ∨ s.wordState q.pa = 3) →
        ∃ t : State, exec (.structureOperationApply r) s = .next ((t.answer q 0 false).afterApply q) ∧ t.wordState q.pa = 0 ∧
          (∀ k, k < 8 → t.readByte (q.pa + k) = 0) ∧ (∀ a, (∀ k, k < 8 → a ≠ q.pa + k) → t.readByte a = s.readByte a))) ∧
    (∀ u n x, q.op = .load n x → q.bank = some u → q.stage = .region → s.cacheLine? u (q.pa / 128) = none → s.stopped u = false →
      s.regionOpen u (regionOf false u q.pa) = true → s.poisoned q.pa n = false → s.poisoned (q.pa / 128 * 128) 128 = false →
      exec (.cacheBankFill r) s = .next (((s.cachePut u (q.pa / 128) ((List.range 128).map fun k =>
        s.homeByte (dieOfTile u) (q.pa / 128 * 128 + k))).applyCached q u n x).afterApply q)) ∧
    (∀ v p th d c n x, q.stage = .reply v p → s.stopped q.tile = false → s.readerAhead q = false → s.replyOut r = false → q.who = .thread th d c →
      q.op = .load n x →
      ∃ t : State, exec (.memoryReplyArrival r) s = .next (t.waveSweepTile q.tile) ∧ t.thread th = (s.thread th).takeReply d c v ∧
        (∀ y, y ≠ th → t.thread y = s.thread y) ∧ t.reqs = s.reqs.filter (fun y => y.id != r) ∧ t.mem = s.mem) ∧
    (∀ c, q.stage = .refused c → c ≤ s.cycleOf q.tile → s.stopped q.tile = false →
      ∃ t : State, exec (.requestRetry r) s = .next t ∧ t.req? r = some { q with stage := .region } ∧ t.threads = s.threads ∧ t.mem = s.mem)

/-! ## Copy and gather engines, timelines, channels -/

/-- COPY, COPY2D, MCAST, GATHER and SCATTER enter their engine's queue; a bad register traps; their nodes enter the node-source queue, or
hold a place before it while it is full; an engine goes on with what it has and takes its next command, one that REPLAY resumes first; a
thread's command that its error register suppresses does nothing. A command moves its bytes in the chunks that R299 and R300 give: a chunk
between pools is written where it goes and nowhere else; one with a global end of at most a line reads or writes it by one request, whose
bytes land in the chunk and then in its pool, or in memory. Completion advances the counter or emits the node's scalar (R269-R276,
R299-R301). The model's choices: which queue is first after reset (log 5); a chunk's pool bytes moved in the engine's turn (log 26); for a
node, P on any operand ends the command with P and the descriptor checks follow P (log 101). -/
def Obligations.CopyGatherEngines : Prop :=
  (∀ (o : AR) (s : State) i e, (i, e) ∈ [(Instr.copy o, 0), (.copy2d o, 0), (.mcast o, 0), (.gather o, 3), (.scatter o, 3)] →
    let d := s.greg o.d; let a := s.greg o.a; let b := s.greg o.b
    (isMemTile s.myTile = true → Traps i s 0x0001 s.cur.word) ∧
    (isMemTile s.myTile = false →
      (∀ w, engError i d a b = some w → Traps i s 0x0003 w) ∧
      (∀ w, engError i d a b = none → engFar i d a = some w → Traps i s 0x0021 w) ∧
      (engError i d a b = none → engFar i d a = none →
        ((s.me.queue e).length < 2 → Queues i s e i d a b 0 true) ∧ (2 ≤ (s.me.queue e).length → exec i s = .next s.hold)))) ∧
  (∀ (s : State) i op e, (i, op, e) ∈ [(Instr.copyNode, (fun o => Instr.copy o), 0), (.gatherNode, (fun o => .gather o), 3),
      (.scatterNode, (fun o => .scatter o), 3)] →
    let f := s.cur.fir
    let tile := tileOfPe f.pe
    let p := s.places tile e
    let s0 := s.beginFire.traceFire f f.tag f.l
    let after (u : State) : State := u.setPlaces tile e ⟨[], u.cycleOf tile, f.pe⟩
    (f.eos = true → exec i s = .next (s0.passE f)) ∧
    (f.eos = false → p.cycle = s.cycleOf tile → f.pe < p.pe → exec i s = .next s.hold) ∧
    (f.eos = false → ¬ (p.cycle = s.cycleOf tile ∧ f.pe < p.pe) → s.placed tile e = [] →
      (2 ≤ ((s.tile tile).engNode e).length → exec i s = .next (s.setPlaces tile e ⟨[(f, false)], s.cycleOf tile, f.pe⟩).hold) ∧
      (∀ g, ((s.tile tile).engNode e).length < 2 → s.scalars f = [g] →
        let x := engNodeOps op g
        let payload := match x.op with
          | .gather _ => x.d.toNat
          | _ => 0
        (g.nul = true → exec i s = .next (after (s0.emit g g.tag g.nulls))) ∧
        (g.nul = false → g.anyP = true → exec i s = .next (after (s0.emit g g.tag [narrow payload true]))) ∧
        (g.nul = false → g.anyP = false →
          (∀ w, engError x.op x.d x.a x.b = some w →
            exec i s = .next (after ((s0.fireRecord g 0x0003 w).emit g g.tag [narrow payload true]))) ∧
          (∀ w, engError x.op x.d x.a x.b = none → x.excess = some w →
            exec i s = .next (after ((s0.fireRecord g 0x0003 w).emit g g.tag [narrow payload true]))) ∧
          (∀ w, engError x.op x.d x.a x.b = none → x.excess = none → engFar x.op x.d x.a = some w →
            exec i s = .next (after ((s0.fireRecord g 0x0021 w).emit g g.tag [narrow payload true]))) ∧
          (engError x.op x.d x.a x.b = none → x.excess = none → engFar x.op x.d x.a = none →
            ∃ t c, exec i s = .next t ∧ (t.tile tile).engNode e = (s0.tile tile).engNode e ++ [c] ∧ c.op = x.op ∧ c.d = x.d ∧ c.a = x.a ∧
              c.b = x.b ∧ c.th = none ∧ c.fir = g ∧ (∀ k, t.readByte k = s0.readByte k)))))) ∧
  (∀ (s : State) tile i e n, (i, e, n) ∈ [(Instr.copyEngineTake tile, 0, 8), (.gatherEngineTake tile, 3, 4)] →
    s.stopped tile = false → isMemTile tile = false →
    let s1 := s.engineGo tile e
    let again (c : EngCmd) : Bool := c.aux.getD 2 0 == 1 && engineOf c.op == e
    let seq := if e = 0 then (s1.tile tile).copySeqNext else (s1.tile tile).gathSeqNext
    let last := if e = 0 then (s1.tile tile).copyLast else (s1.tile tile).gathLast
    (n ≤ engBusy s1 tile e → exec i s = .next s1) ∧
    (engBusy s1 tile e < n →
      (∀ c, (s1.tile tile).engParked.find? again = some c →
        exec i s = .next (runEngine { c with aux := [0, c.aux.getD 1 0] } tile
          (s1.modTile tile fun x => { x with engParked := x.engParked.filter fun y => y.id != c.id }))) ∧
      ((s1.tile tile).engParked.find? again = none →
        (∀ th c rest, seq = true → nextServed s1 tile last e = some th → (s1.thread th).queue e = c :: rest → engReady s1 tile c = true →
          exec i s = .next (runEngine c tile ((s1.modThread th fun x => x.setQueue e rest).modTile tile fun x =>
            if e = 0 then { x with copyLast := numOfThread th, copySeqNext := false }
            else { x with gathLast := numOfThread th, gathSeqNext := false }))) ∧
        (∀ c rest, seq = false → (s1.tile tile).engNode e = c :: rest →
          exec i s = .next (runEngine c tile (s1.modTile tile fun x =>
            if e = 0 then { x with copyNode := rest, copySeqNext := true } else { x with gathNode := rest, gathSeqNext := true })))))) ∧
  (∀ (s : State) tile th c, c.th = some th → (s.thread th).errValid (engineOf c.op) = true →
    ∃ t : State, runEngine c tile s = t ∧ (∀ x, t.readByte x = s.readByte x) ∧ t.threads = s.threads ∧ t.reqs = s.reqs ∧
      ∃ j ∈ (t.tile tile).engRun, j.cmd = c ∧ j.over_ = true) ∧
  (∀ (s : State) tile th c o, s.Inv → c.op = .copy o → o.f = 3 → c.th = some th → (s.thread th).errValid 0 = false →
    (∀ j ∈ (s.tile tile).engRun, j.cmd.id ≠ c.id) → s.engOut tile c.id = false →
    let n := c.b.toNat
    let src (k : Nat) := poolKey s tile (c.a.toNat + k)
    let dst (k : Nat) := poolKey s tile (c.d.toNat + k)
    0 < n → n ≤ 4096 → (c.a.toNat + n ≤ c.d.toNat ∨ c.d.toNat + n ≤ c.a.toNat) →
    locBad s c.task n [⟨true, tile, c.d.toNat⟩, ⟨true, tile, c.a.toNat⟩] = none → s.poolPoisoned tile c.a.toNat n = false →
    (∀ k, k < n → s.wordState (dst k) = 3 ∧ ∀ j, j < n → dst j = dst k → j = k) →
    ∃ t : State, runEngine c tile s = t ∧ (∀ k, k < n → t.readByte (dst k) = s.plainByte (src k)) ∧
      (∀ x, (∀ k, k < n → x ≠ dst k) → t.readByte x = s.readByte x) ∧ t.threads = s.threads ∧
      ∃ j, (t.tile tile).engRun = (s.tile tile).engRun ++ [j] ∧ j.cmd = c ∧ j.over_ = true ∧ j.stop = none) ∧
  (∀ (s : State) tile c, let b := c.b.toNat
    (∀ o, c.op = .copy o → let src : Loc := ⟨o.f.getLsbD 0, tile, c.a.toNat⟩; let dst : Loc := ⟨o.f.getLsbD 1, tile, c.d.toNat⟩
      (b = 0 → cmdChunks c tile s = .ok []) ∧
      (0 < b → locBad s c.task b [dst, src] = none →
        (locMeet src dst b = true → cmdChunks c tile s = .error (0x0021, c.d.toNat)) ∧
        (locMeet src dst b = false → cmdChunks c tile s = .ok ((List.range ((b + 4095) / 4096)).map fun i =>
          ⟨{ src with a := src.a + 4096 * i }, [{ dst with a := dst.a + 4096 * i }], min 4096 (b - 4096 * i), none⟩)))) ∧
    (∀ o strides, c.op = .copy2d o → c.aux = [strides] →
      let n := (c.b.extractLsb' 0 24).toNat
      let row (pool : Bool) (w : Word) (k r : Nat) : Loc := ⟨pool, tile, (BitVec.ofInt 64 (w.toNat + (strides.extractLsb' k 32).toInt * r)).toNat⟩
      let xs := (List.range (c.b.extractLsb' 24 16).toNat).map fun r => (row (o.f.getLsbD 0) c.a 0 r, row (o.f.getLsbD 1) c.d 32 r)
      locBad s c.task n (xs.flatMap fun x => [x.2, x.1]) = none → (∀ x ∈ xs, ∀ y ∈ xs, locMeet x.1 y.2 n = false) →
      cmdChunks c tile s = .ok (xs.map fun x => ⟨x.1, [x.2], n, none⟩)) ∧
    (∀ o, c.op = .mcast o → 0 < b →
      let tiles := mcastTiles tile c.d
      let src : Loc := ⟨o.f.getLsbD 0, tile, c.a.toNat⟩
      let dsts := (tiles.filter fun u => !isMemTile u).map fun u => (⟨true, u, (c.d.extractLsb' 0 24).toNat⟩ : Loc)
      (∀ u, u ∈ tiles ↔ ∃ x y, (c.d.extractLsb' 24 4).toNat ≤ x ∧ x ≤ (c.d.extractLsb' 32 4).toNat ∧ (c.d.extractLsb' 28 4).toNat ≤ y ∧
        y ≤ (c.d.extractLsb' 36 4).toNat ∧ u = dieOfTile tile * 256 + y * 16 + x) ∧
      ((∃ u ∈ tiles, u ∉ s.region c.task) → cmdChunks c tile s = .error (0x0021, (c.d.extractLsb' 0 24).toNat)) ∧
      ((∀ u ∈ tiles, u ∈ s.region c.task) → locBad s c.task b (dsts ++ [src]) = none → (∀ l ∈ dsts, locMeet src l b = false) →
        cmdChunks c tile s = .ok ((List.range ((b + 4095) / 4096)).map fun i =>
          ⟨{ src with a := src.a + 4096 * i }, dsts.map fun l => { l with a := l.a + 4096 * i }, min 4096 (b - 4096 * i), none⟩))) ∧
    (∀ o, c.op = .gather o ∨ c.op = .scatter o →
      let arr := (c.b.extractLsb' 0 24).toNat
      let n := (c.b.extractLsb' 24 16).toNat
      let size : Nat := 2 ^ (c.b.extractLsb' 40 3).toNat
      let w : Nat := if o.f.getLsbD 0 then 8 else 4
      let va (i : Nat) : Nat := (BitVec.ofInt 64 (c.a.toNat + (if o.f.getLsbD 0 then (BitVec.ofNat 64 (s.poolLoad tile (arr + w * i) w)).toInt
        else (BitVec.ofNat 32 (s.poolLoad tile (arr + w * i) w)).toInt) * size)).toNat
      let elem (i : Nat) : Loc := ⟨true, tile, c.d.toNat + i * size⟩
      let bad (i : Nat) : Option Nat := if va i % min size 8 = 0 then none else some (va i)
      (n = 0 → cmdChunks c tile s = .ok []) ∧
      (0 < n → firstBad s c.task tile c.d.toNat (n * size) false = none → firstBad s c.task tile arr (w * n) false = none →
        s.poolPoisoned tile arr (w * n) = false →
        (c.op = .gather o → cmdChunks c tile s = .ok ((List.range n).map fun i => ⟨⟨false, tile, va i⟩, [elem i], size, bad i⟩)) ∧
        (c.op = .scatter o → cmdChunks c tile s = .ok ((List.range n).map fun i => ⟨elem i, [⟨false, tile, va i⟩], size, bad i⟩))))) ∧
  (∀ (s : State) tile c th xs, c.th = some th → (s.thread th).errValid (engineOf c.op) = false → cmdChunks c tile s = .ok xs →
    let j : EngJob := ⟨c, xs, 0, [], none, false, false, []⟩
    runEngine c tile s = (s.modTile tile fun x => { x with engRun := x.engRun ++ [j] }).jobTurn tile j) ∧
  (∀ (s : State) tile j, (s.tile tile).engRun = [j] → s.engineGo tile (engineOf j.cmd.op) = s.jobTurn tile j) ∧
  (∀ (s : State) tile j x xs, s.Inv → (s.tile tile).engRun.filter (fun y => y.cmd.id = j.cmd.id) = [j] → j.stop = none → j.over_ = false →
    j.moves = [] → j.tails = [] → j.xs = x :: xs → x.bad = none → 0 < x.n →
    let asid := s.taskAsid j.cmd.task
    let key (l : Loc) (i : Nat) := poolKey s l.tile (l.a + i)
    let room (pa va : Nat) := s.engRoom tile ⟨false, 0, pa, va, x.n, 0⟩ = true
    let line (va pa : Nat) : Prop := va / 128 = (va + x.n - 1) / 128 ∧ pa / 128 = (pa + x.n - 1) / 128 ∧ va + x.n ≤ 2 ^ 56 ∧
      (s.isPeer (dieOfTile tile) pa = true ∨ s.guardHit pa x.n = none)
    (x.src.pool = true → x.dsts ≠ [] → (∀ l ∈ x.dsts, l.pool = true) → s.poolPoisoned x.src.tile x.src.a x.n = false →
      ((∀ l ∈ x.dsts, (l.a + x.n) % 8 = 0) ∨ xs = []) →
      (∀ l ∈ x.dsts, ∀ i, i < x.n → s.wordState (key l i) = 3) →
      (x.dsts.flatMap fun l => (List.range x.n).map (key l)).Nodup →
      ∃ t : State, s.jobTurn tile j = t ∧ (∀ l ∈ x.dsts, ∀ i, i < x.n → t.readByte (key l i) = s.plainByte (key x.src i)) ∧
        (∀ y, (∀ l ∈ x.dsts, ∀ i, i < x.n → y ≠ key l i) → t.readByte y = s.readByte y) ∧ t.threads = s.threads ∧
        ∃ j' ∈ (t.tile tile).engRun, j'.cmd = j.cmd ∧ j'.xs = xs ∧ j'.next = j.next + 1 ∧ j'.stop = none) ∧
    (∀ l pa, x.src.pool = false → x.dsts = [l] → l.pool = true → line x.src.a pa →
      translateAt s tile asid (BitVec.ofNat 64 x.src.a) false = .ok pa → room pa x.src.a →
      ∃ t q, s.jobTurn tile j = t ∧ t.reqs = s.reqs ++ [q] ∧ q.op = .eread j.next 0 x.n ∧ q.who = .engine tile j.cmd.id ∧ q.pa = pa ∧
        t.mem = s.mem ∧ ∃ j' ∈ (t.tile tile).engRun, j'.cmd = j.cmd ∧ j'.xs = xs ∧
          j'.moves = [⟨j.next, [], [⟨true, l.tile, l.a, l.a, x.n, 0⟩], List.replicate x.n 0, none⟩]) ∧
    (∀ l pa, x.src.pool = true → x.dsts = [l] → l.pool = false → line l.a pa → s.poolPoisoned x.src.tile x.src.a x.n = false →
      translateAt s tile asid (BitVec.ofNat 64 l.a) true = .ok pa → room pa l.a →
      ((pa + x.n) % 8 = 0 ∨ (xs = [] ∧ (pa + x.n) / 8 * 8 ≤ pa)) →
      ∃ t q, s.jobTurn tile j = t ∧ t.reqs = s.reqs ++ [q] ∧ q.op = .ewrite j.next ((List.range x.n).map fun i => s.plainByte (key x.src i)) ∧
        q.who = .engine tile j.cmd.id ∧ q.pa = pa ∧ t.mem = s.mem)) ∧
  (∀ (s : State) (q : Req) tile id num off n, q.who = .engine tile id → s.poisoned q.pa n = false →
    let u := s.applyEread q num off n
    ((s.req? q.id = some q ∧ s.accepts q = true ∧ q.op = .eread num off n) → exec (.regionAccessApply q.id) s = .next (u.afterApply q)) ∧
    u.mem = s.mem ∧
    (let bs := (List.range n).map fun i => s.homeByte (dieOfTile q.tile) (q.pa + i)
     let landed (m : EngMove) : EngMove := if m.num = num then { m with data := m.data.take off ++ bs ++ m.data.drop (off + n) } else m
     (u.tile tile).engRun = (s.tile tile).engRun.map fun j => if j.cmd.id = id then { j with moves := j.moves.map landed } else j)) ∧
  (∀ (s : State) (q : Req) num bs, s.Inv → s.isPeer (dieOfTile q.tile) q.pa = false →
    let u := s.applyEwrite q bs
    ((s.req? q.id = some q ∧ s.accepts q = true ∧ q.op = .ewrite num bs) → exec (.regionAccessApply q.id) s = .next (u.afterApply q)) ∧
    (∀ i b, bs[i]? = some b → s.wordState (q.pa + i) = 3 → u.readByte (q.pa + i) = b) ∧
    (∀ y, (y < q.pa ∨ q.pa + bs.length ≤ y ∨ s.wordState y ≠ 3) → u.readByte y = s.readByte y)) ∧
  (∀ (s : State) tile j m l a n, s.Inv → (s.tile tile).engRun.filter (fun y => y.cmd.id = j.cmd.id) = [j] → j.stop = none → j.over_ = false →
    j.xs = [] → j.tails = [] → j.moves = [m] → m.reads = [] → s.readsOut tile j.cmd.id m.num = false → m.bad = none →
    m.writes = [⟨true, l, a, a, n, 0⟩] → m.data.length = n → 0 < n →
    let key (i : Nat) := poolKey s l (a + i)
    (∀ i, i < n → s.wordState (key i) = 3) → ((List.range n).map key).Nodup →
    ∃ t : State, s.jobTurn tile j = t ∧ (∀ i b, m.data[i]? = some b → t.readByte (key i) = b) ∧
      (∀ y, (∀ i, i < n → y ≠ key i) → t.readByte y = s.readByte y) ∧ t.threads = s.threads) ∧
  (∀ (s : State) tile k j, let c := j.cmd
    s.stopped tile = false → (s.tile tile).engRun[k]? = some j →
    let s1 := s.modTile tile fun x => { x with engRun := x.engRun.eraseIdx k }
    (j.over_ = false → exec (.engineCommandComplete tile k) s = .next s) ∧
    (∀ th, j.over_ = true → c.th = some th →
      exec (.engineCommandComplete tile k) s = .next (s1.modThread th (·.complete (engineOf c.op) (BitVec.ofNat 64 c.num))) ∧
      ((s.thread th).tlOut = [] → BitVec.ofNat 64 c.num = (s.thread th).counter (engineOf c.op) + 1 →
        ((s1.modThread th (·.complete (engineOf c.op) (BitVec.ofNat 64 c.num))).thread th).counter (engineOf c.op) =
          (s.thread th).counter (engineOf c.op) + 1)) ∧
    (j.over_ = true → c.th = none →
      exec (.engineCommandComplete tile k) s = .next ((s1.emit c.fir c.fir.tag [narrow (engPayload c) (c.aux.headD 0 == 1)]).settleNodes tile) ∧
      ((∀ o, c.op ≠ .gather o) → engPayload c = 0) ∧ (∀ o, c.op = .gather o → engPayload c = c.d.toNat)))

/-- Timelines, user interrupts and channels on carrier A (R280, R283-R287, R292, R302-R304, R240). -/
def Obligations.TimelineAndChannelResults : Prop :=
  ∀ (o : AR) (s : State),
    let e := (o.f.extractLsb' 0 2).toNat
    let a := s.greg o.a
    let b := s.greg o.b
    let counter := mapGet 0 s.me.tlDone e
    let issued := mapGet 0 s.me.tlIssued e
    (isMemTile s.myTile = true → ∀ i ∈ [Instr.tlread o, .tlwait o, .uiarm o, .uiret o], Traps i s 0x0001 s.cur.word) ∧
    (isMemTile s.myTile = false →
      Writes (.tlread o) s o.d (if o.f.getLsbD 2 then issued else counter) ∧
      ((a ≤ counter ∨ issued < a) → Writes (.tlwait o) s o.d counter) ∧
      (counter < a → a ≤ issued → exec (.tlwait o) s = .next s.hold) ∧
      (a = 0 → ∃ t : State, exec (.uiarm o) s = .next t ∧ t.me = { s.me with uistat := t.me.uistat, pc := s.cur.pc + 8 } ∧
        ∀ k, t.me.uistat.getLsbD k = (s.me.uistat.getLsbD k && k != e && k != 4 + e)) ∧
      (a ≠ 0 → ∃ t : State, exec (.uiarm o) s = .next t ∧ mapGet 0 t.me.uitgt e = a ∧ t.me.g = s.me.g ∧ t.me.pc = s.cur.pc + 8 ∧
        t.me.uistat.getLsbD e = (counter < a) ∧ t.me.uistat.getLsbD (4 + e) = ((a ≤ counter) || s.me.uistat.getLsbD (4 + e))) ∧
      (s.me.uih = false → Traps (.uiret o) s 0x0001 s.cur.word) ∧
      (s.me.uih = true → (mapGet 0 s.me.h 0).extractLsb' 0 3 = 0 →
        ∃ t : State, exec (.uiret o) s = .next t ∧ t.me.pc = mapGet 0 s.me.h 0 ∧ t.me.uih = false ∧ t.me.g = s.me.g ∧ t.me.h = s.me.h ∧
          (∀ k, 1 ≤ k → k ≤ 7 → t.me.p.getLsbD k = (mapGet 0 s.me.h 1).getLsbD (3 + k)) ∧ SameButThread s.cur.th s t)) ∧
    (a.extractLsb' 5 59 ≠ 0 → Traps (.chopen o) s 0x0003 a ∧ Traps (.chclose o) s 0x0003 a) ∧
    (a.extractLsb' 5 59 = 0 → ringWordOk b = true →
      (s.openPort? a = none → Traps (.chopen o) s 0x0021 a ∧ Traps (.chclose o) s 0x0021 a) ∧
      (∀ p, s.openPort? a = some p → poolOk s s.myTask s.myTile (b.extractLsb' 0 24).toNat (16 + 16 * 2 ^ (b.extractLsb' 24 4).toNat) false = true →
        (p.ring.isSome = true → Writes (.chopen o) s o.d 0) ∧
        (p.ring = none → ∃ t q, exec (.chopen o) s = .next t ∧ t.port? s.myTile (a.extractLsb' 0 5).toNat = some q ∧
          q.ring = some (s.cur.th, b, 0) ∧ t.me = (s.result o.d 1).me ∧ ∀ x, t.readByte x = s.readByte x))) ∧
    (∀ p, a.extractLsb' 5 59 = 0 → s.openPort? a = some p →
      (p.ring = none → Writes (.chclose o) s o.d 0) ∧
      (∀ w n, p.ring = some (s.cur.th, w, n) → a.getLsbD 4 = false →
        ∃ t q, exec (.chclose o) s = .next t ∧ t.port? s.myTile (a.extractLsb' 0 5).toNat = some q ∧ q.ring = none ∧
          t.me = (s.result o.d (BitVec.ofNat 64 n)).me))

/-- Streams: a beat arrives at its port, a credit lets the next beat out, a FIFO tile passes whole tokens on, a bound port moves one
record, a circuit takes its new route once its wire is empty, a tile is zero after its role swap (R240, R285, R286, R292, R302). The model's
choices: a FIFO forwards whole tokens (log 51); how beats travel between modules (logs 51, 113). -/
def Obligations.StreamEvents : Prop :=
  (∀ (s : State) c x b rest p, s.circuit? c = some x → x.wire = b :: rest → s.port? x.dst.1 x.dst.2 = some p → s.stopped x.dst.1 = false →
    (p.circuit ≠ some c → exec (.streamBeatArrival c) s = .next ((s.modCircuit c fun x => { x with wire := rest }).sendCredits c x 1)) ∧
    (p.circuit = some c → p.beats.length < 64 → exec (.streamBeatArrival c) s = .next (((s.modCircuit c fun x => { x with wire := rest }).setPort x.dst.1 x.dst.2
      { p with beats := p.beats ++ [b] }).deliver x.dst.1 x.dst.2)) ∧
    (p.circuit = some c → 64 ≤ p.beats.length → exec (.streamBeatArrival c) s = .next (s.deliver x.dst.1 x.dst.2))) ∧
  (∀ (s : State) c x p b, s.circuit? c = some x → 0 < x.creds → s.stopped x.src.1 = false → s.port? x.src.1 x.src.2 = some p →
    p.circuit = some c → p.credits = 0 → p.beats = [b] → x.broken = false → x.moving = false →
    ∃ t y q, exec (.streamCreditReturn c) s = .next t ∧ t.circuit? c = some y ∧ y.creds = x.creds - 1 ∧
      t.port? x.src.1 x.src.2 = some q ∧ q.beats = [] ∧ q.credits = 0 ∧
      (tileModule x.src.1 = tileModule x.dst.1 → y.wire = x.wire ++ [b]) ∧
      (tileModule x.src.1 ≠ tileModule x.dst.1 → y.wire = x.wire ∧
        t.net = (s.send clsStrm (ioLoc (2 * tileModule x.src.1 + tileModule x.dst.1 % 2)) (x.dst.1 / 256) (.beats c [b])).net)) ∧
  (∀ (s : State) tile port p q h b, port < 16 → s.stopped tile = false → isMemTile tile = true → (s.tile tile).mrole = 1 →
    s.port? tile port = some p → s.port? tile (16 + port) = some q → q.beats = [] → q.circuit = none → p.beats = [] → p.circuit = none →
    p.stop = false → p.fifo = [h, b] → beatData h = 1 →
    ∃ t p' q', exec (.fifoForward tile port) s = .next t ∧ t.port? tile port = some p' ∧ p'.fifo = [] ∧
      t.port? tile (16 + port) = some q' ∧ q'.beats.length = 2) ∧
  (∀ (s : State) tile port p th w n tok rest, port < 16 → s.stopped tile = false → s.port? tile port = some p → p.stop = false →
    p.ring = some (th, w, n) → firstToken p.beats = some (tok, rest) →
    (s.ringTail tile w + 2 ^ 32 - s.ringHead tile w) % 2 ^ 32 < ringSlots w → tok.words.length ≤ p.part + 1 →
    ∃ t : State, exec (.channelRingScan tile port false) s = .next (t.returnCredits p (p.beats.length - rest.length)) ∧
      (∃ q, t.port? tile port = some q ∧ q.beats = rest ∧ q.part = 0 ∧ q.ring = some (th, w, (n + 1) % 2 ^ 64)) ∧
      t.mem = (s.ringWrite tile p.task w tok p.part).mem) ∧
  (∀ (s : State) c x, s.circuit? c = some x → x.moving = true → s.beatsOut c x = false →
    ∃ t : State, exec (.streamCircuitReroute c) s = .next (t.portSend x.src.1 x.src.2) ∧
      ∃ y, t.circuit? c = some y ∧ y.moving = false ∧ ∀ l ∈ y.route, l ∉ s.withdrawn) ∧
  (∀ (s : State) tile c, (s.tile tile).fill = some c → c ≤ s.cycleOf tile → s.stopped tile = false →
    ∃ t : State, exec (.roleSwapFillComplete tile) s = .next t ∧ (t.tile tile).fill = none ∧
      (∀ k, k < 0x400000 → t.readByte (sramKey tile k) = 0 ∧ t.wordState (sramKey tile k) = 3) ∧
      (∀ x, (∀ k, k < 0x400000 → x ≠ sramKey tile k) → t.readByte x = s.readByte x) ∧ t.threads = s.threads)

/-! ## Scopes and atomics -/

/-- Class 10, BAR and BARWAIT on carrier A: a bad address or count traps, a dead scope entry traps, a marked one holds, else one request
leaves with its scope snapshot and ORDER; FENCE and WIDEN wait for what the thread issued before; SCOPEW and SCOPEKILL begin an update
whose marks go to every tile of the region; SCOPER's summary word (R310, R311, R313, R328-R331, R338-R340, R342). -/
def Obligations.ScopedInstructionIssue : Prop :=
  ∀ (o : AX) (s : State),
    let va := s.greg o.a
    let b := s.greg o.b
    let wide := o.f.getLsbD 0
    let n := if wide then 8 else 4
    let k := s.myTask.getD 0
    let idx := o.scope.toNat
    let returning : List (Instr × AOp × Bool) := [(.aadd o, .add, false), (.afadd o, .fadd, false), (.amin o, .min, o.f.getLsbD 1),
      (.amax o, .max, o.f.getLsbD 1), (.aand o, .and, false), (.aor o, .or, false), (.axor o, .xor, false), (.aswap o, .swap, false),
      (.acas o, .cas, false)]
    let atomics : List Instr := returning.map (·.1) ++ [.aredn o]
    let asked (op : AOp) (sg ret : Bool) (x : AtomArgs) : Prop :=
      x.op = op ∧ x.sg = sg ∧ x.wide = wide ∧ x.v = b ∧ x.e = s.greg o.d ∧ x.ret = ret ∧ x.repro = false
    let inScope (x : ScopeSnap) (r : Req) : Prop := r.snap = x ∧ r.order = o.order.toNat
    ((va.toNat % n ≠ 0 ∨ va.extractLsb' 56 8 ≠ 0) → ∀ i ∈ atomics, Traps i s 0x0021 va) ∧
    (va.toNat % n = 0 → va.extractLsb' 56 8 = 0 → o.repro = false →
      (s.scopeHolds k s.myTile idx = true → ∀ i ∈ atomics, exec i s = .next s.hold) ∧
      (s.scopeHolds k s.myTile idx = false → s.snapScope k s.myTile idx = none → ∀ i ∈ atomics, Traps i s 0x0030 (BitVec.ofNat 64 idx)) ∧
      (∀ x, s.scopeHolds k s.myTile idx = false → s.snapScope k s.myTile idx = some x → Room s va true → NoWatch s s.myTile s.myAsid →
        (s.me.ldout < 4 → ∀ i op sg, (i, op, sg) ∈ returning →
          ∃ args, asked op sg true args ∧ Sends i s (.atomic args) va (some o.d) (inScope x)) ∧
        (∀ c op, (c, op) ∈ [(0, AOp.add), (1, .fadd), (2, .min), (3, .max), (4, .and), (5, .or), (6, .xor)] →
          (o.f.extractLsb' 2 3).toNat = c →
          ∃ args, asked op (o.f.getLsbD 1) false args ∧ Sends (.aredn o) s (.atomic args) va none (inScope x)))) ∧
    (o.repro = true → va.toNat % n = 0 → va.extractLsb' 56 8 = 0 → (s.greg (o.b + 1) = 0 ∨ 4096 < (s.greg (o.b + 1)).toNat) →
      Traps (.afadd o) s 0x0003 (s.greg (o.b + 1))) ∧
    ((b = 0 ∨ 2 ^ 32 ≤ b.toNat) → Traps (.bar o) s 0x0003 b) ∧
    (2 ^ 32 ≤ b.toNat → Traps (.barwait o) s 0x0003 b) ∧
    (∀ x, va.toNat % 8 = 0 → va.extractLsb' 56 8 = 0 → b.toNat < 2 ^ 32 → s.scopeHolds k s.myTile idx = false →
      s.snapScope k s.myTile idx = some x → Room s va true → s.me.ldout < 4 →
      (b ≠ 0 → Sends (.bar o) s (.bar b.toNat none) va (some o.d) (inScope x)) ∧
      Sends (.barwait o) s (.barwait b) va (some o.d) (inScope x)) ∧
    (∀ i ∈ [Instr.fence o, .widen o],
      (s.scopeHolds k s.myTile idx = true → exec i s = .next s.hold) ∧
      (s.scopeHolds k s.myTile idx = false → s.snapScope k s.myTile idx = none → Traps i s 0x0030 (BitVec.ofNat 64 idx)) ∧
      (∀ x, s.scopeHolds k s.myTile idx = false → s.snapScope k s.myTile idx = some x →
        (s.threadBefore s.cur.th o.order.toNat x = [] →
          ∃ t : State, exec i s = .next t ∧ t.me.fence = [] ∧ t.me.acquire = none ∧ t.me.pc = s.cur.pc + 8 ∧ t.me.g = s.me.g ∧
            (o.order.toNat % 2 = 1 → ∀ u, x.hasBank s.myTile u = true → (t.tile u).cache = []) ∧ t.mem = s.mem ∧ t.reqs = s.reqs) ∧
        (∀ id r, id ∈ s.threadBefore s.cur.th o.order.toNat x → s.req? id = some r → r.unperformed = true →
          ∃ t : State, exec i s = .next t ∧ t.me.fence = (s.threadBefore s.cur.th o.order.toNat x).map (fun j => (j, false)) ∧
            t.fenceHolds s.cur.th = true ∧ t.me.pc = s.cur.pc + 8 ∧ t.mem = s.mem))) ∧
    (let started (i : Instr) (set : Option (List Byte × List Nat)) : Prop :=
       ∃ t : State, exec i s = .next t ∧ t.me.ldout = s.me.ldout + 1 ∧ t.me.pc = s.cur.pc + 8 ∧ t.me.g = s.me.g ∧
         (t.die (dieOfTask k)).updates = [⟨k, idx, s.cur.th, s.me.preg o.d, set, true, false, s.region k, 0⟩] ∧
         t.net.length = s.net.length + (s.region k).length ∧ t.mem = s.mem
     (4 ≤ s.me.ldout → exec (.scopekill o) s = .next s.hold) ∧
     (s.me.ldout < 4 → (s.die (dieOfTask k)).updates = [] → s.region k ≠ [] →
       started (.scopekill o) none ∧
       (∀ m : Nat, s.imageAt va 0 = true → s.poolLoad s.myTile va.toNat 2 = m → s.imageAt va m = true →
         s.poolPoisoned s.myTile va.toNat (imageLen m) = false →
         let img := natToBytes (imageLen m) (s.poolLoad s.myTile va.toNat (imageLen m))
         (imageValid img = false → Traps (.scopew o) s 0x0003 va) ∧
         (imageValid img = true → imagePlist img = 0 → started (.scopew o) (some (img, [])))))) ∧
    (s.imageAt va 0 = false → Traps (.scopew o) s 0x0021 va) ∧
    (o.f.getLsbD 0 = false →
      (idx < 11 → Writes (.scoper o) s o.d (BitVec.ofNat 64 (2 ^ 48 + 2 ^ 50))) ∧
      (11 ≤ idx → let e := s.scopeEntry k s.myTile idx
        Writes (.scoper o) s o.d (BitVec.ofNat 64 (imageDies e.image + imageDram e.image * 2 ^ 16 + imagePlist e.image * 2 ^ 32 +
          e.gen % 256 * 2 ^ 40 + (if e.live then 2 ^ 48 else 0) + if e.updating then 2 ^ 49 else 0))))

/-- Nodes of classes 10 and 11 on one scalar: the request that each makes, FENCE and WIDEN with nothing to wait for, ACOMB's count of 1;
a BAR with PH = 1 asks for the phase that field F(PK) of its tag holds, in that field's width (R322, R332, R341, R354-R356). That a single
contribution passes its bits unchanged is the model's choice (log 112; DESIGN CHOICE). -/
def Obligations.ScopedNodeFires : Prop :=
  ∀ (s : State), let f := s.cur.fir
    let tile := tileOfPe f.pe
    let idx := f.node.r.litScope.toNat
    let s0 := s.beginFire.traceFire f f.tag f.l
    let ops : List (Instr × AOp × Bool) := [(.aaddNode, .add, true), (.afaddNode, .fadd, true), (.aminNode, .min, true), (.amaxNode, .max, true),
      (.aandNode, .and, true), (.aorNode, .or, true), (.axorNode, .xor, true), (.aswapNode, .swap, true), (.acasNode, .cas, true)] ++
      (([(0, .add), (1, .fadd), (2, .min), (3, .max), (4, .and), (5, .or), (6, .xor)] : List (Nat × AOp)).filter
        (fun x => x.1 == f.node.r.rnd.toNat)).map fun x => (.arednNode, x.2, false)
    (f.eos = true → ∀ i ∈ [Instr.fenceNode, .widenNode, .barNode, .acomb], exec i s = .next (s0.passE f)) ∧
    (f.eos = false → s.scopeHolds f.task tile idx = true → ∀ i ∈ [Instr.fenceNode, .widenNode, .barNode], exec i s = .next s.hold) ∧
    (f.eos = false → s.contextHolds f = true → exec .barNode s = .next s.hold) ∧
    (∀ g x, f.eos = false → s.scopeHolds f.task tile idx = false → s.contextHolds f = false → s.queueLen tile < 64 → s.scalars f = [g] →
      g.nul = false →
      (g.l ++ g.r ++ g.c).any (·.p) = false → s0.snapScope g.task tile idx = some x →
      let va := wordOf g.l
      let v := wordOf g.r
      let wide := g.r.any (·.wide)
      (NoWatch s tile (s.taskAsid f.task) → g.node.r.repro = false → va.toNat % (if wide then 8 else 4) = 0 → va.extractLsb' 56 8 = 0 →
        ∀ i op ret, (i, op, ret) ∈ ops → ∃ args : AtomArgs, args.op = op ∧ args.ret = ret ∧ args.wide = wide ∧ args.v = v ∧
          args.e = wordOf g.c ∧ args.sg = (g.node.r.etype == .i32) ∧ Requests i s (.atomic args) va false) ∧
      (va.toNat % 8 = 0 → va.extractLsb' 56 8 = 0 → v ≠ 0 → v.toNat < 2 ^ 32 →
        ∃ ph, Requests .barNode s (.bar v.toNat ph) va false ∧ (f.node.r.lit32.getLsbD 27 = false → ph = none) ∧
          (f.node.r.lit32.getLsbD 27 = true → let fk := s0.fieldAt g.task (f.node.r.lit32.extractLsb' 24 3).toNat
            ph = some (getTag fk g.tag, fk.1))) ∧
      ((s0.tile tile).fences = [] → s0.nodesBefore g g.node.r.litOrder.toNat x = [] → s0.wavesBefore g g.node.r.litOrder.toNat x = [] →
        s0.cmdsBefore g x = [] →
        ∀ i ∈ [Instr.fenceNode, .widenNode], ∃ u : State,
          exec i s = .next ((if g.node.r.litOrder.toNat % 2 = 1 then u.dropBanks x tile else u).emit g g.tag g.l) ∧
          (u.tile tile).fences = [] ∧ u.mem = s0.mem ∧ u.pes = s0.pes ∧ u.reqs = s0.reqs ∧ u.threads = s0.threads)) ∧
    (∀ g w c, f.eos = false → s.scalars f = [g] → g.l = [w] → g.r = [c] → w.n = false → c.n = false →
      s0.acombEntry g.pe g.slot (s0.keyOf g.task g.tag) = none → c.w &&& 0xFFFFFFFF = 1 →
      exec .acomb s = .next (s0.emit g (s0.keyOf g.task g.tag) [narrow (w.w.toNat % 2 ^ 32) (w.p || c.p)]))

/-- Atomics and barriers at their region (R321, R336, R338): the old value goes back, the new one stands, no other byte changes. -/
def Obligations.AtomicsAtRegion : Prop :=
  ∀ (s : State) (r : Nat) (q : Req), s.Inv → s.req? r = some q → s.turnAt q = true →
    (∀ x : AtomArgs, q.op = .atomic x → x.repro = false →
      let n := if x.wide then 8 else 4
      let w := 8 * n
      let old : BitVec w := BitVec.ofNat w (s.readNat q.pa n)
      let v : BitVec w := x.v.setWidth w
      let e : BitVec w := x.e.setWidth w
      s.writable q.pa n = true → s.poisoned q.pa n = false →
      ∀ op (new : BitVec w), (op, new) ∈ ([(.add, old + v), (.and, old &&& v), (.or, old ||| v), (.xor, old ^^^ v), (.swap, v),
          (.cas, if old = e then v else old),
          (.min, if (if x.sg then v.slt old else v.ult old) then v else old),
          (.max, if (if x.sg then v.slt old else v.ult old) then old else v)] : List (AOp × BitVec w)) →
        x.op = op →
        ∃ t : State, exec (.atomicApply r) s = .next ((t.answer q (if x.ret then old.setWidth 64 else 0) false).afterApply q) ∧
          t.readNat q.pa n = new.toNat ∧ (∀ a, (∀ k, k < n → a ≠ q.pa + k) → t.readByte a = s.readByte a) ∧
          t.threads = s.threads ∧ t.reqs = s.reqs) ∧
    (∀ n : Nat, q.op = .bar n none → n < 2 ^ 32 → s.writable q.pa 8 = true → s.poisoned q.pa 8 = false →
      let count := s.readNat q.pa 4
      let phase := s.readNat (q.pa + 4) 4
      ∃ t : State, exec (.barrierArrivalApply r) s = .next (((t.answer q (BitVec.ofNat 64 phase) false).settleBars).afterApply q) ∧
        (count + 1 < n → t.readNat q.pa 4 = count + 1 ∧ t.readNat (q.pa + 4) 4 = phase) ∧
        (n ≤ count + 1 → t.readNat q.pa 4 = 0 ∧ t.readNat (q.pa + 4) 4 = (phase + 1) % 2 ^ 32) ∧
        (∀ a, (∀ k, k < 8 → a ≠ q.pa + k) → t.readByte a = s.readByte a) ∧ t.threads = s.threads) ∧
    (∀ x : AtomArgs, q.op = .atomic x → x.repro = true → s.writable q.pa x.size = true →
      (s.contribs.filter fun c => heldStore c.pa == heldStore q.pa).length < 4096 →
      (s.contribs.filter fun d => d.pa == q.pa && d.n == x.count).length + 1 < x.count →
      ∃ (t : State) (c : Contrib), exec (.reproContributionArrival r) s = .next (t.afterApply q) ∧ t.contribs = s.contribs ++ [c] ∧
        c.pa = q.pa ∧ c.n = x.count ∧ c.key = x.key ∧ c.v = x.v ∧ t.mem = s.mem)

/-- Combining switches, abandoned groups and the updates of scope entries (R311, R312, R314, R317, R345-R349, R352). -/
def Obligations.CombiningAndScopeEvents : Prop :=
  (∀ (s : State) r q a b p pq, s.req? r = some a → s.req? q = some b → s.packetOf r = some p → s.packetOf q = some pq →
    let here := (s.queueOf p a).getD default
    let ids (x : List Identity) : List Identity := x ++ [p.identity a]
    (s.canJoin p pq a b = false → exec (.combiningJoin r q) s = .next s) ∧
    (s.canJoin p pq a b = true →
      (∃ x y, a.op = .atomic x ∧ b.op = .atomic y ∧ x.op = y.op ∧ x.wide = y.wide ∧ a.pa = b.pa ∧ a.snap.idx = b.snap.idx ∧
        a.order = b.order ∧ s.queueOf p a = s.queueOf pq b) ∧
      (∀ k x, s.bobbinHere here b = some x → b.who = .bobbin k → (∀ y ∈ x.reqs, y.id ≠ a.id) →
        let me := p.identity a
        let before (u v : Identity) : Prop := u.came < v.came ∨ (u.came = v.came ∧ u.port < v.port)
        ∃ (t : State) (pre post : List Identity), exec (.combiningJoin r q) s = .next t ∧ x.reqs = pre ++ post ∧ (∀ y ∈ pre, ¬ before me y) ∧
          (∀ y, post.head? = some y → before me y) ∧
          mapFind? t.bobbins k = some { x with reqs := pre ++ me :: post, lostIds := x.lostIds.map fun n => if pre.length ≤ n then n + 1 else n } ∧
          t.req? r = some { a with stage := .joined } ∧ t.req? q = some { b with op := b.op.withTotal (pre ++ me :: post) } ∧
          (∀ z ∈ t.net, z.id ≠ p.id) ∧ (∀ z ∈ s.net, z.id ≠ p.id → z.id ≠ pq.id → z ∈ t.net) ∧ t.mem = s.mem) ∧
      (s.bobbinHere here b = none → s.tableRoom here = true → (∀ z ∈ s.reqs, z.id < s.nextId) →
        ∃ (t : State) (x : Bobbin) (comb : Req), exec (.combiningJoin r q) s = .next t ∧ mapFind? t.bobbins s.nextId = some x ∧
          x.reqs = ids [pq.identity b] ∧ x.creq = s.nextId + 1 ∧ (x.level, x.loc, x.port) = here ∧
          t.req? r = some { a with stage := .joined } ∧ t.req? q = some { b with stage := .joined } ∧
          t.req? (s.nextId + 1) = some comb ∧ comb.who = .bobbin s.nextId ∧ comb.pa = b.pa ∧ comb.op = b.op.withTotal x.reqs ∧
          { pq with body := .req (s.nextId + 1) } ∈ t.net ∧ t.mem = s.mem) ∧
      (s.bobbinHere here b = none → s.tableRoom here = false →
        ∃ t : State, exec (.combiningJoin r q) s = .next t ∧ t.bobbins = s.bobbins ∧ t.reqs = s.reqs ∧ t.mem = s.mem ∧
          ∀ z ∈ t.net, z.id = p.id ∨ z.id = pq.id → z.alone = true))) ∧
  (∀ (x : AtomArgs) (u w : Word), x.op = .add → x.wide = true → atomTotal x [u, w] = u + w) ∧
  (∀ (s : State) b (i j : Identity) v p (y : AtomArgs) (ri rj c : Req) (x : Bobbin), mapFind? s.bobbins b = some x → x.reqs = [i, j] →
    s.req? x.creq = some c → c.op = .atomic y → s.replyOut c.id = false → s.req? i.id = some ri → s.req? j.id = some rj → i.id ≠ j.id →
    x.creq ≠ i.id → x.creq ≠ j.id →
    (c.stage = .reply v p → x.lost = false → x.lostIds = [] → y.op = .add → y.wide = true →
      ∃ t : State, exec (.combinedReplySplit b) s = .next t ∧
        t = (((s.answerFrom x.place ri v p).answerFrom x.place rj (v + i.v) p).dropBobbin b x) ∧ mapFind? t.bobbins b = none ∧
        t.req? x.creq = none ∧ t.mem = s.mem ∧
        (∀ th d, ri.who = .thread th d true → ri.op.posts = false → t.req? i.id = some { ri with stage := .reply v p }) ∧
        (∀ th d, rj.who = .thread th d true → rj.op.posts = false → t.req? j.id = some { rj with stage := .reply (v + i.v) p })) ∧
    (c.stage = .reply v p → x.lost = true → x.lostIds = [] →
      ∃ t : State, exec (.combinedReplySplit b) s = .next t ∧ mapFind? t.bobbins b = none ∧ t.req? i.id = some { ri with stage := .flt 0x0050 } ∧
        t.req? j.id = some { rj with stage := .flt 0x0050 } ∧ t.mem = s.mem) ∧
    (∀ code, c.stage = .flt code → x.lost = false → x.lostIds = [] →
      ∃ t : State, exec (.combinedFaultCopy b) s = .next t ∧ mapFind? t.bobbins b = none ∧ t.req? i.id = some { ri with stage := .flt code } ∧
        t.req? j.id = some { rj with stage := .flt code } ∧ t.mem = s.mem)) ∧
  (∀ (s : State) k c, s.contribs[k]? = some c →
    let gs := s.contribs.filter fun d => d.pa == c.pa && d.n == c.n
    (((gs.head?.map (·.cycle)).getD 0) + 2 ^ 23 ≤ (s.die (dieOfRegion c.region)).cycle →
      ∃ t : State, exec (.reproGroupAbandon k) s = .next t ∧ t.contribs = s.contribs.filter (fun d => !gs.contains d) ∧ t.mem = s.mem ∧
        ∃ p r, p ∈ t.net ∧ p.body = .fault r ∧ r.code = 0x0050 ∧ r.addr = BitVec.ofNat 64 c.pa)) ∧
  (∀ (s : State) k j t kt e, s.packet? k = some e →
    (e.body = .data 1 [kt, j, t] → s.stopped t = false → (s.run? kt).isSome = true →
      ∃ u : State, exec (.scopeMarkArrival k) s = .next u ∧ (u.scopeEntry kt t j).updating = true ∧
        (u.tile t).marks = (s.tile t).marks ++ [(kt, j)] ∧ u.mem = s.mem) ∧
    (∀ gen live n rest, e.body = .data 3 (kt :: j :: t :: gen :: live :: n :: rest) → s.stopped t = false → (s.run? kt).isSome = true →
      ∃ u : State, exec (.scopeInstallArrival k) s = .next u ∧ u.scopeEntry kt t j = ⟨live == 1, gen, false, (rest.drop n).map (BitVec.ofNat 8), rest.take n⟩ ∧ u.mem = s.mem) ∧
    (∀ v, e.body = .data 2 [kt, j, t] → (s.die (dieOfTask kt)).updates = [v] → v.task = kt → v.entry = j → v.begun = true →
      v.waits = [t] → v.installing = true →
      ∃ u : State, exec (.scopeUpdateAckArrival k) s = .next u ∧ (u.die (dieOfTask kt)).updates = [] ∧
        u.thread v.th = (s.thread v.th).takeReply v.dest true (BitVec.ofNat 64 v.gen) ∧ u.mem = s.mem)) ∧
  (∀ (s : State) tile k kt j, (s.tile tile).marks[k]? = some (kt, j) → s.stopped tile = false → (s.tile tile).fences = [] →
    (∀ i, i < 8 → (s.thread (8 * tile + i)).fence = [] ∧ (s.thread (8 * tile + i)).acquire = none) → (∀ r ∈ s.reqs, r.tile ≠ tile) →
    ∃ t : State, exec (.scopeMarkAcknowledge tile k) s = .next t ∧ (t.tile tile).marks = (s.tile tile).marks.eraseIdx k ∧
      t.net = (s.ctl (dieOfTask kt) 2 [kt, j, tile]).net ∧ t.mem = s.mem) ∧
  (∀ (s : State) r q th d c, s.req? r = some q → q.stage = .miss → q.who = .thread th d c → s.stopped q.tile = false → s.replyOut r = false →
    (s.taskTile q.task q.tile).missring.getLsbD 28 = false →
    ∃ t : State, exec (.scopeMissReply r) s = .next t ∧ t.req? r = some { q with stage := .parked, since := 0 } ∧
      (t.thread th).deferred = (s.thread th).deferred ++ [{ code := 0x0031, va := q.va, req := some r }] ∧ t.mem = s.mem) ∧
  (∀ (s : State) tile k m q x, let y := s.taskTile k tile
    s.stopped tile = false → (s.run? k).isSome = true → y.missring.getLsbD 28 = true → y.misses = [m] → m.rcd = some y.missHead →
    s.missHeadWord k tile = (y.missHead + 1) % 2 ^ 32 → s.missTail k tile ≠ y.missHead →
    s.poolLoad tile (missRingAddr y.missring + 16 + 32 * (y.missHead % missRingSize y.missring) + 23) 1 = 0 → s.req? m.req = some q →
    q.slot = true → s.snapScope q.task q.tile 0 = some x →
    ∃ t : State, exec (.missRingReissue tile k) s = .next t ∧
      t.req? m.req = some { q with snap := x, stage := .walk, cycle := s.cycleOf q.tile } ∧
      (t.taskTile k tile).misses = [] ∧ (t.taskTile k tile).missHead = (y.missHead + 1) % 2 ^ 32 ∧ t.mem = s.mem)

/-! ## The dataflow fabric -/

/-- Class-7 nodes: an E passes, nulls pass where they must, and on one word each node's own effect (R214, R215, R222-R233). The model's
choices: a merged word has P of any operand word (log 34); the link token of CALLT has a clear P (log 112). -/
def Obligations.TokenNodeResults : Prop :=
  ∀ (s : State), let f := s.cur.fir
    let s0 := s.beginToken
    let n := f.node.r
    let lit := n.lit32
    let lo16 := lit.extractLsb' 0 16
    let hi16 := lit.extractLsb' 16 16
    let tile := tileOfPe f.pe
    let p := f.laneP 0
    (f.eos = true → ∀ i ∈ [Instr.steer, .gate, .merge, .wave, .loopexit, .repeatTok, .constTok, .joinTok, .tagget, .tagset, .recv, .eos,
      .runsplit], exec i s = .next (s0.passE f)) ∧
    (f.eos = false → f.nul = true → ∀ i ∈ [Instr.repeatTok, .constTok, .tagget, .tagset, .recv, .eos], exec i s = .next (s0.emit f f.tag f.nulls)) ∧
    (exec .dup s = .next (s0.emitAt f f.eos f.tag f.l [n.dsta, n.dstb, lo16, hi16])) ∧
    (∀ g x, f.eos = false → s.scalars f = [g] → f.l = [x] → x.n = false →
      (∀ c, f.r = [c] → c.n = false →
        (c.w ≠ 0 →
          exec .steer s = .next ((s0.emitAt f false g.tag [{ x with p := p }] [n.dsta]).emitAt f false g.tag [nullWord p] [n.dstb]) ∧
          exec .gate s = .next (s0.emitAt f false g.tag [{ x with p := p }] [n.dsta, n.dstb])) ∧
        (c.w = 0 →
          exec .steer s = .next ((s0.emitAt f false g.tag [nullWord p] [n.dsta]).emitAt f false g.tag [{ x with p := p }] [n.dstb]) ∧
          exec .gate s = .next s0) ∧
        (f.c = [] → exec .merge s = .next (s0.emitAt f false g.tag [{ x with p := p }] [n.dsta, n.dstb])) ∧
        (f.nul = false → let j := (lit.extractLsb' 0 3).toNat
          exec .tagset s = .next (s0.emit g (if j = 6 then setField g.tag 48 16 c.w.toNat else putTag (s0.fieldAt f.task j) g.tag c.w.toNat)
            [{ x with p := p }]))) ∧
      (f.nul = false →
        exec .constTok s = .next (s0.emit f f.tag [narrow lit.toNat x.p]) ∧
        exec .recv s = .next (s0.emit f f.tag [x]) ∧
        exec .eos s = .next (s0.emitE g g.tag (x.w.toNat % 2 ^ 32) x.p) ∧
        (let j := (lit.extractLsb' 0 3).toNat
         exec .tagget s = .next (s0.emit f f.tag [narrow (if j = 6 then ctxOf f.tag else getTag (s0.fieldAt f.task j) f.tag) x.p])) ∧
        (n.arity ≠ .one → exec .joinTok s = .next (s0.emit f f.tag [{ x with p := p }])) ∧
        (∀ cnt, (n.lit = true → cnt = lit.toNat) → (n.lit = false → ∃ c, f.r = [c] ∧ cnt = c.w.toNat % 2 ^ 32) →
          let m := 2 ^ (s0.fieldAt f.task 0).1
          let k := min cnt m
          let u := (List.range ((k + 31) / 32)).foldl (fun t i =>
            t.emit g (t.withF0 f.task g.tag (32 * i)) (List.replicate (min 32 (k - 32 * i)) { x with p := p })) s0
          (cnt ≤ m → exec .repeatTok s = .next (u.emitE g g.tag cnt p)) ∧
          (m < cnt → exec .repeatTok s = .next ((u.peRecord g.pe g.task (u.relNode g.task g.slot) 0x0042 g.tag
            (BitVec.ofNat 64 (m + cnt % 2 ^ 32 * 2 ^ 32)) 0 0 0).emitE g g.tag m true))) ∧
        exec .runsplit s = .next (s0.emit f g.tag [x])) ∧
      (f.r = [] → f.c = [] →
        (n.arity = .one → lo16 = 1 → (∀ e ∈ (s0.pe g.pe).entries, e.slot ≠ g.slot) →
          exec .joinTok s = .next (s0.emit g g.tag [narrow 1 x.p])) ∧
        (n.arity = .one → (∀ e ∈ (s0.pe g.pe).entries, e.slot ≠ g.slot) → 2 ≤ lo16.toNat → ∀ u,
          s0.placeOf g.pe (s0.newEntry g.pe g.task g.slot 0 g.seq g.tag (.count 1 1 0 x.p) []) g.tag [x] = (true, u) →
          exec .joinTok s = .next u) ∧
        (∀ e a b q, n.arity = .one → (s0.pe g.pe).entries.filter (fun y => y.slot == g.slot) = [e] → e.tag = g.tag → e.kind = .count a b 0 q →
          s0.entryBad g.pe e = false →
          (a + 1 < lo16.toNat → exec .joinTok s = .next (s0.swapEntry g.pe e { e with kind := .count (a + 1) (b + 1) 0 (q || x.p) })) ∧
          (lo16.toNat ≤ a + 1 → exec .joinTok s = .next ((s0.dropEntry g.pe e).emit g g.tag [narrow (b + 1) (q || x.p)]))) ∧
        (∀ u, let k := (lit.extractLsb' 0 6).toNat
          let b := s0.f0 f.task g.tag
          2 ≤ k → (∀ e ∈ (s0.pe g.pe).entries, e.slot ≠ g.slot) →
          s0.placeOf g.pe (s0.newEntry g.pe g.task g.slot 0 g.seq (s0.withF0 f.task g.tag (b / k)) (.gathered [(b, x)] none) []) g.tag [x] = (true, u) →
          exec .runpack s = .next u) ∧
        (s0.loopEntry g.pe g.slot (s0.loopKey g) = none →
          (f.port = 1 → exec .loopent s = .next (s0.flowRecord g 3 0)) ∧
          (∀ u, f.port = 0 → s0.placeOf g.pe (s0.newEntry g.pe g.task g.slot 0 g.seq (s0.loopKey g) (.loop 0 [] none) []) g.tag g.l = (true, u) →
            exec .loopent s = .next (u.emit g g.tag g.l))) ∧
        (s0.loopEntry g.pe (s0.loopSlot g) (s0.loopKey g) = none → f.nul = false →
          exec .wave s = .next (s0.flowRecord g 3 0) ∧ exec .loopexit s = .next (s0.flowRecord g 3 0)) ∧
        (∀ e b r, s0.loopEntry g.pe (s0.loopSlot g) (s0.loopKey g) = some e → e.kind = .loop b r none → f.nul = false →
          ((s0.loopIter g + 1 + s0.loopMod g - b) % s0.loopMod g < s0.loopBound (s0.loopSlot g) →
            exec .wave s = .next (s0.emit g g.tag g.l)) ∧
          (b ≠ (s0.loopIter g + 1) % s0.loopMod g →
            exec .loopexit s = .next ((s0.swapEntry g.pe e { e with kind := .loop b r (some (s0.loopIter g)) }).emit g g.tag g.l))))) ∧
    (∀ g x y z, f.eos = false → s.scalars f = [g] → f.l = [x] → f.r = [y] → f.c = [z] → z.n = false →
      exec .merge s = .next (s0.emitAt f false g.tag [{ (if z.w = 0 then y else x) with p := p }] [n.dsta, n.dstb])) ∧
    (∀ ctx u, f.eos = false → n.arity = .two → s0.freeCtx? f.task tile = some ctx →
      s0.placeOf f.pe (s0.newEntry f.pe f.task f.slot 0 f.seq (BitVec.ofNat 64 (ctx * 2 ^ 48)) (.linkage f.tag lo16) []) f.tag (f.l ++ f.r) = (true, u) →
      exec .callt s = .next (((u.drawCtx f.task tile ctx).emitAt f false (BitVec.ofNat 64 (ctx * 2 ^ 48)) f.l [n.dsta]).emitAt f false
        (BitVec.ofNat 64 (ctx * 2 ^ 48)) f.r [n.dstb])) ∧
    (∀ ctx u, f.eos = false → n.arity ≠ .two → s0.freeCtx? f.task tile = some ctx →
      s0.placeOf f.pe (s0.newEntry f.pe f.task f.slot 0 f.seq (BitVec.ofNat 64 (ctx * 2 ^ 48)) (.linkage f.tag lo16) []) f.tag (f.l ++ f.r) = (true, u) →
      exec .callt s = .next (((u.drawCtx f.task tile ctx).emitAt f false (BitVec.ofNat 64 (ctx * 2 ^ 48)) f.l [n.dsta]).emitAt f false f.tag
        [narrow ctx false] [n.dstb])) ∧
    (s0.linkOf tile (ctxOf f.tag) = none →
      exec .rett s = .next (s0.flowRecord f 2 0) ∧ (f.eos = false → exec .freectx s = .next (s0.flowRecord f 2 0))) ∧
    (∀ q e tag dest, f.eos = false → s0.linkOf tile (ctxOf f.tag) = some (q, e) → e.kind = .linkage tag dest → s0.entryBad q e = false →
      exec .rett s = .next ((s0.emitAt f false tag f.l [dest]).freeCtxOf f) ∧ exec .freectx s = .next (s0.freeCtxOf f)) ∧
    (let u := dieOfTile tile * 256 + (lit.extractLsb' 0 8).toNat
     f.eos = false → n.arity ≠ .two →
      (isMemTile u = false → (s0.region f.task).contains u = true →
        exec .sendTok s = .next (s0.emitTo f n.run false (s0.actTag f.task n false f.tag f.l).1 (s0.actTag f.task n false f.tag f.l).2 hi16 (some u))) ∧
      ((isMemTile u = true ∨ (s0.region f.task).contains u = false) →
        exec .sendTok s = .next (s0.fireRecord f 0x0021 (BitVec.ofNat 64 (lit.extractLsb' 0 8).toNat))))

/-- A PE takes tokens: a dead context discards them, a node that awaits L alone is ready at once; deep lookups, way refills, firing
weights, the packer's timeout, a mailbox's next record (R198-R200, R207, R208, R212, R213, R217, R218, R232). -/
def Obligations.FabricEvents : Prop :=
  (∀ (s : State) pe i, let tile := tileOfPe pe
    let u := s.modPe pe fun p => { p with input := p.input.eraseIdx 0 }
    (s.pe pe).input[0]? = some i → s.stopped tile = false →
    (s.ctxTask tile (ctxOf i.tok.tag) = none →
      ((s.tile tile).ctxRec.contains (ctxOf i.tok.tag) = true → exec (.tokenArrival pe 0) s = .next u) ∧
      ((s.tile tile).ctxRec.contains (ctxOf i.tok.tag) = false →
        ∃ t : State, exec (.tokenArrival pe 0) s = .next t ∧ t.net.length = s.net.length + 1 ∧
          (t.tile tile).ctxRec = (s.tile tile).ctxRec ++ [ctxOf i.tok.tag] ∧ t.pes = u.pes ∧ t.mem = s.mem)) ∧
    (∀ k e x w, s.ctxTask tile (ctxOf i.tok.tag) = some k → s.inputHeld tile k = false → s.closed k = false →
      (s.run? k).any (·.replaying) = false → i.tok.words = [w] → i.tok.eos = false →
      u.element? (u.nodeKey k pe (i.tok.dest.extractLsb' 2 10).toNat) = some e → e.task = k → e.trapped = false → e.rcd = some x →
      direct x = true → (∀ y, u.tokenMatch tile k y = none) → i.tok.dest.extractLsb' 0 2 = 0 →
      ∃ (t : State) (f : Firing), exec (.tokenArrival pe 0) s = .next t ∧ (t.pe pe).ready = insertReady f (s.pe pe).ready ∧
        (t.pe pe).input = (s.pe pe).input.eraseIdx 0 ∧ f.l = [w] ∧ f.node = x ∧ f.task = k ∧
        f.tag = s.withF0 k i.tok.tag (s.f0 k i.tok.tag) ∧ t.mem = s.mem)) ∧
  (∀ (s : State) pe set d e x, s.stopped (tileOfPe pe) = false → ((s.pe pe).deep.filter fun d => d.set == set) = [d] →
    s.element? d.slot = some e → e.rcd = some x → e.task = d.task → d.record = none →
    exec (.deepLookupComplete pe set) s = .next ((s.modPe pe fun p => { p with deep := p.deep.filter fun d => d.set != set }).lookup
      pe d.task d.slot d.seq d.cycle x d.tok)) ∧
  (∀ (s : State) pe set i e, let p := s.pe pe
    s.stopped (tileOfPe pe) = false →
    freePlace 8 ((p.entries.filter fun e => e.set == set && e.level == .matching).map (·.pos)) = some i →
    p.entries = [e] → e.set = set → e.level ≠ .matching → s.entryBad pe e = false →
    ∃ t : State, exec (.matchingWayRefill pe set) s = .next t ∧ (t.pe pe).entries = [{ e with level := .matching, pos := i }] ∧
      t.threads = s.threads) ∧
  (∀ (s : State) pe, s.stopped (tileOfPe pe) = false → 256 ≤ (s.pe pe).fires →
    let o := (List.range 4).map (s.occupancy pe)
    0 < o.sum →
    ∃ t : State, exec (.firingWeightUpdate pe) s = .next t ∧ (t.pe pe).weights = o.map (fun x => 15 * x / o.sum) ∧
      (t.pe pe).fires = (s.pe pe).fires - 256 ∧ (t.pe pe).ready = (s.pe pe).ready ∧ t.mem = s.mem) ∧
  (∀ (s : State) pe k q, (s.pe pe).packers[k]? = some q → s.stopped (tileOfPe pe) = false → q.cycle + 8 ≤ s.cycleOf (tileOfPe pe) →
    s.packerAt pe q.tok.dest q.remote = some q →
    exec (.packerFlush pe k) s = .next ((s.modPe pe fun p => { p with packers := p.packers.erase q }).tokenOut pe q.remote q.tok)) ∧
  (∀ (s : State) pe node e x, let tile := tileOfPe pe
    s.element? (pe * 1024 + node) = some e → e.rcd = some x → x.op = .recv → s.stopped tile = false → s.inputHeld tile e.task = false →
    let a := (x.r.lit32.extractLsb' 0 24).toNat
    let n := 2 ^ (x.r.lit32.extractLsb' 24 4).toNat
    let head := s.poolLoad tile (a + 4) 4
    let q := a + 16 + 16 * (head % n)
    s.poolLoad tile a 4 ≠ head → poolOk s (some e.task) tile a (16 + 16 * n) false = true →
    ∃ (t : State) (tok : Token), exec (.mailboxScan pe node) s = .next t ∧ (t.pe pe).input.map (·.tok) = (s.pe pe).input.map (·.tok) ++ [tok] ∧
      tok.tag = BitVec.ofNat 64 (s.poolLoad tile q 8) ∧ tok.words.map (·.w) = [BitVec.ofNat 64 (s.poolLoad tile (q + 8) 4)] ∧
      t.mem = (s.poolWriteNat tile (a + 4) 4 ((head + 1) % 2 ^ 32)).mem)

/-! ## Tasks -/

namespace Sys2Proof.Claims

/-- A pending result of a unit may issue: fewer than four are outstanding and a slot is free (R121, R387). -/
def Ready (s : State) : Prop := s.me.ldout < 4 ∧ s.slotFree s.myTile = true

/-- The unit has acted, giving u, and its answer v for g[d] is on its way (R121, R387, R399). -/
def Answers (i : Instr) (s : State) (d : RegNo) (v : Word) (u : State) : Prop :=
  ∃ t r, exec i s = .next t ∧ t.reqs = u.reqs ++ [r] ∧ r.stage = .reply v false ∧ r.who = .thread s.cur.th (s.me.preg d) true ∧
    t.me.ldout = u.me.ldout + 1 ∧ (d ≠ 0 → t.me.pending (s.me.preg d) = true) ∧ t.me.pc = s.cur.pc + 8 ∧ t.me.g = u.me.g ∧
    t.mem = u.mem ∧ t.tiles = u.tiles ∧ t.dies = u.dies ∧ t.net = u.net

end Sys2Proof.Claims

/-- Class 12 on carrier A (R384-R397): a memory tile takes TQUERY, TDONE and TARG alone, a bad operand traps, a result without room is
held, else the dispatcher acts and answers. That the unit acts in the step that issues, its answer following, is the model's choice (log 72;
DESIGN CHOICE). -/
def Obligations.TaskInstructionResults : Prop :=
  ∀ (o : AR) (s : State),
    let a := s.greg o.a
    let b := s.greg o.b
    let die := s.myDie
    let k := s.myTask.getD 0
    let ones : Word := BitVec.allOnes 64
    (isMemTile s.myTile = true → ∀ i ∈ [Instr.tspawn o, .tdec o, .tsucc o, .ginst o, .gfree o, .ttwrite o], Traps i s 0x0001 s.cur.word) ∧
    (isMemTile s.myTile = false →
      (s.poolArg a 64 64 = false → Traps (.tspawn o) s 0x0021 a ∧ Traps (.ttwrite o) s 0x0021 a) ∧
      (s.poolArg a 64 64 = true → s.poolPoisoned s.myTile a.toNat 64 = false →
        let bs := natToBytes 64 (s.poolLoad s.myTile a.toNat 64)
        let r := recOfBytes bs
        let inst := (s.myRecord.map TaskRec.inst).getD 0
        (4 ≤ s.me.ldout → exec (.tspawn o) s = .next s.hold) ∧
        (Ready s →
          (s.freeSlots die (r.ncont + 1) = none → Answers (.tspawn o) s o.d ones s) ∧
          (∀ i, i < 262144 → s.freeSlots die (r.ncont + 1) = some i →
            (s.spawnOk r = false → Answers (.tspawn o) s o.d (ones - 1) s) ∧
            (s.spawnOk r = true → ∃ u : State, Answers (.tspawn o) s o.d (BitVec.ofNat 64 i) u ∧
              (r.ncont = 0 → r.count ≠ 0 → u.record? (taskKey die i) = some { r with hdr := setField r.hdr 54 10 inst })))) ∧
        (let e := wordsOfBytes bs 8
         (4096 ≤ b.toNat → Traps (.ttwrite o) s 0x0003 b) ∧
         (b.toNat < 4096 → typeImageOk e = false → Traps (.ttwrite o) s 0x0003 a) ∧
         (b.toNat < 4096 → typeImageOk e = true → s.privileged s.cur.th = false → Traps (.ttwrite o) s 0x0021 b) ∧
         (b.toNat < 4096 → typeImageOk e = true → s.privileged s.cur.th = true → Ready s →
           (s.typeBusy die b.toNat = true → Answers (.ttwrite o) s o.d 0 s) ∧
           (s.typeBusy die b.toNat = false → ∃ u : State, Answers (.ttwrite o) s o.d 1 u ∧ mapGet [] (u.die die).types b.toNat = e)))) ∧
      (a.extractLsb' 34 30 ≠ 0 → Traps (.tdec o) s 0x0003 a) ∧
      (a.extractLsb' 34 30 = 0 → (b = 0 ∨ 16384 < b.toNat) → Traps (.tdec o) s 0x0003 b) ∧
      (let x := succOfWord a
       a.extractLsb' 34 30 = 0 → b ≠ 0 → b.toNat ≤ 16384 → s.admits (moduleOfTile s.myTile) x.module = true →
        (s.tile s.myTile).fences = [] → (∀ r ∈ s.reqs, r.thread? ≠ some s.cur.th) →
        ∃ t : State, exec (.tdec o) s = .next t ∧ t.net = (s.sendDecrement die (x.module * 16 + x.die) x.idx b.toNat).net ∧
          t.me.pc = s.cur.pc + 8 ∧ t.me.g = s.me.g ∧ t.mem = s.mem) ∧
      (a.extractLsb' 34 30 = 0 → b ≠ 0 → b.toNat ≤ 16384 → s.admits (moduleOfTile s.myTile) (succOfWord a).module = false →
        ∃ t : State, exec (.tdec o) s = .next t ∧ t.net = s.net ∧ t.me.pc = s.cur.pc + 8 ∧ t.me.g = s.me.g ∧ t.mem = s.mem ∧
          (∀ r ∈ s.reqs, r.thread? = some s.cur.th → r.unperformed = true → (r.id, false) ∈ t.me.fence)) ∧
      (a.extractLsb' 18 46 ≠ 0 → Traps (.tsucc o) s 0x0003 a) ∧
      (a.extractLsb' 18 46 = 0 → b.extractLsb' 34 30 = 0 → Ready s →
        let p := taskKey die a.toNat
        (s.record? p = none → Answers (.tsucc o) s o.d ones s) ∧
        (∀ r, s.record? p = some r →
          (r.state = 7 → Answers (.tsucc o) s o.d 3 s) ∧
          (1 ≤ r.state → r.state ≤ 5 → r.nsucc < 8 → (succOfWord b).module = moduleOfDie die →
            ∃ u : State, Answers (.tsucc o) s o.d 1 u ∧ (u.record? p).map TaskRec.nsucc = some (r.nsucc + 1)) ∧
          (1 ≤ r.state → r.state ≤ 5 → (8 ≤ r.nsucc ∨ (succOfWord b).module ≠ moduleOfDie die) →
            (∀ w ∈ s.contWords p r, w.getLsbD 23 = true) → Answers (.tsucc o) s o.d 0 s) ∧
          (r.state = 6 → ((succOfWord b).stream = true → Answers (.tsucc o) s o.d 2 s) ∧
            ((succOfWord b).stream = false →
              Answers (.tsucc o) s o.d 2 (s.sendDecrement die ((succOfWord b).module * 16 + (succOfWord b).die) (succOfWord b).idx 1))))) ∧
      (a.extractLsb' 18 46 = 0 → b.extractLsb' 34 30 ≠ 0 → Traps (.tsucc o) s 0x0003 b) ∧
      ((a.toNat % 64 ≠ 0 ∨ a.extractLsb' 56 8 ≠ 0) → Traps (.ginst o) s 0x0021 a) ∧
      (a.toNat % 64 = 0 → a.extractLsb' 56 8 = 0 → s.poolArg b 8 128 = true → s.poolPoisoned s.myTile b.toNat 128 = false → Ready s →
        ∀ r u, s.instantiate die (s.taskAsid k) (((s.run? k).map TaskRun.plist).getD 0) a.toNat
            (wordsOfBytes (natToBytes 128 (s.poolLoad s.myTile b.toNat 128)) 16) none = (r, u) →
          (r = .full → Answers (.ginst o) s o.d ones u) ∧
          (∀ h, r = .made h → Answers (.ginst o) s o.d (BitVec.ofNat 64 h) u) ∧
          (∀ c va, r = .bad c va → Answers (.ginst o) s o.d (ones - 1) (u.dispRecord k c 0 (BitVec.ofNat 64 va) 0))) ∧
      (a.extractLsb' 10 54 ≠ 0 → Traps (.gfree o) s 0x0003 a) ∧
      (a.extractLsb' 10 54 = 0 → Ready s →
        Answers (.gfree o) s o.d (BitVec.ofNat 64 (s.endInst die a.toNat).1) (s.endInst die a.toNat).2)) ∧
    (let u := s.advance.modMe Thread.stop
     (a = 0 → exec (.tdone o) s = .next (u.signalDone k s.myTile)) ∧ (a ≠ 0 → exec (.tdone o) s = .next (u.failTask k a))) ∧
    (o.f.getLsbD 0 = false → a.extractLsb' 18 46 ≠ 0 → Traps (.tquery o) s 0x0003 a) ∧
    (o.f.getLsbD 0 = false → a.extractLsb' 18 46 = 0 → Ready s →
      (s.slot? die a.toNat = none → Answers (.tquery o) s o.d 0 s) ∧
      (∀ r, s.slot? die a.toNat = some (.record r) → Answers (.tquery o) s o.d (if r.state = 0 then 0 else r.hdr) s) ∧
      (∀ ws, s.slot? die a.toNat = some (.cont ws) → Answers (.tquery o) s o.d ones s)) ∧
    (o.f.getLsbD 0 = true → a.extractLsb' 10 54 ≠ 0 → Traps (.tquery o) s 0x0003 a) ∧
    (o.f.getLsbD 0 = true → a.extractLsb' 10 54 = 0 → Ready s →
      (s.inst? die a.toNat = none → Answers (.tquery o) s o.d 0 s) ∧
      (∀ i, s.inst? die a.toNat = some i → ∃ v : Word, Answers (.tquery o) s o.d v s ∧
        v.extractLsb' 0 2 = (if i.ending then 2 else 1) ∧ v.extractLsb' 2 18 = BitVec.ofNat 18 i.live ∧ v.getLsbD 20 = i.failed ∧
        v.extractLsb' 21 11 = 0 ∧ v.extractLsb' 32 32 = i.status.setWidth 32)) ∧
    (∀ r, s.record? k = some r →
      (o.f = 0 → Writes (.targ o) s o.d r.arg0) ∧ (o.f = 1 → Writes (.targ o) s o.d r.arg1) ∧
      (o.f = 2 → Writes (.targ o) s o.d (s.instanceId k)) ∧ (o.f = 3 → Writes (.targ o) s o.d (BitVec.ofNat 64 r.inst)) ∧
      (o.f = 4 → r.ax ≤ tileX s.myTile → r.ay ≤ tileY s.myTile → r.ax < 16 → r.ay < 16 → r.rw < 16 → r.rh < 16 → tileX s.myTile < 16 →
        tileY s.myTile < 16 → ∃ v : Word, Writes (.targ o) s o.d v ∧ (v.extractLsb' 0 4).toNat = tileX s.myTile - r.ax ∧
          (v.extractLsb' 4 4).toNat = tileY s.myTile - r.ay ∧ (v.extractLsb' 8 4).toNat = r.rw ∧ (v.extractLsb' 12 4).toNat = r.rh ∧
          (v.extractLsb' 16 4).toNat = r.ax ∧ (v.extractLsb' 20 4).toNat = r.ay ∧ v.extractLsb' 24 40 = 0))

/-- The dispatcher's own steps, and decrements from nodes (R363, R364, R369-R375, R379-R382, R390). -/
def Obligations.DispatcherSteps : Prop :=
  (∀ (s : State), let f := s.cur.fir
    let tile := tileOfPe f.pe
    let s0 := s.beginFire.traceFire f f.tag f.l
    let zero : List TWord := [⟨0, false, false, false⟩]
    (f.eos = true → ∀ i ∈ [Instr.tdecNode, .tdecSelfNode], exec i s = .next (s0.passE f)) ∧
    (∀ g, f.eos = false → s.scalars f = [g] → g.nul = false → g.anyP = false → (s0.tile tile).fences = [] →
      s0.nodesBefore g 2 systemSnap = [] → s0.wavesBefore g 2 systemSnap = [] → s0.cmdsBefore g systemSnap = [] →
      (∀ x, let n := (wordOf g.r).toNat
        nodeSucc g = some x → 1 ≤ n → n ≤ 16384 → s0.admits (moduleOfTile tile) x.module = true →
        ∃ u : State, exec .tdecNode s = .next (u.emit g g.tag zero) ∧
          u.net = (s0.sendDecrement (dieOfTile tile) (x.module * 16 + x.die) x.idx n).net ∧
          u.pes = s0.pes ∧ u.mem = s0.mem) ∧
      (∃ u : State, exec .tdecSelfNode s = .next ((u.signalDone g.task tile).emit g g.tag zero) ∧ u.pes = s0.pes ∧ u.mem = s0.mem ∧
        u.dies = s0.dies ∧ (u.tile tile).fences = []))) ∧
  (∀ (s : State) j p idx a, s.packet? j = some p → p.body = .decrement idx a → p.at_ = p.dst → s.placeStopped p.at_ = false → idx < 262144 →
    let k := taskKey p.dst idx
    (s.slot? p.dst idx = none → exec (.decrementArrival j) s = .next ((s.dropPacket j).dispRecord k 0x0091 (BitVec.ofNat 64 a) 0 0)) ∧
    (∀ r, s.slot? p.dst idx = some (.record r) → r.state = 0 → ((s.inst? p.dst r.inst).map (·.ending)).getD false = true →
      exec (.decrementArrival j) s = .next (s.dropPacket j)) ∧
    (∀ r, s.record? k = some r →
      (r.state = 1 → a < r.count → ∃ u : State, exec (.decrementArrival j) s = .next u ∧ (u.record? k).map TaskRec.count = some (r.count - a) ∧
        u.mem = s.mem ∧ u.threads = s.threads) ∧
      (r.state = 1 → a = r.count → exec (.decrementArrival j) s = .next (((s.dropPacket j).setTaskCount k 0).makePending k)) ∧
      ((r.state ≠ 1 ∨ r.count < a) → ((s.inst? p.dst r.inst).map (·.ending)).getD false = false →
        exec (.decrementArrival j) s =
          .next ((s.dropPacket j).dispRecord k 0x0091 (BitVec.ofNat 64 (a + r.count * 2 ^ 32)) 0 0)))) ∧
  (∀ (s : State) die idx rest r, (s.die die).tripped = false → mapGet [] (s.die die).pending 7 = idx :: rest →
    let k := taskKey die idx
    s.record? k = some r → s.neverFits k (s.taskType k) = false → s.poolFits k (s.taskType k) = true →
    exec (.pendingPass die) s = .next (s.reserve k r (s.taskType k))) ∧
  (∀ (s : State) die idx j run r o, let k := taskKey die idx
    s.run? k = some run → s.opdReading k j = some (r, o) →
    ((s.die die).tripped = false → exec (.prefetchOperandLand die idx j) s = .next ((s.joinedReads k r o).foldl State.landOne s)) ∧
    (∀ u, s.landOpd k r o = .ok u →
      let v := u.modRun k fun x => { x with prefetch := x.prefetch.erase j }
      (run.prefetch.erase j ≠ [] → s.landOne (k, j) = v) ∧ (run.prefetch.erase j = [] → s.landOne (k, j) = v.prefetchOver k r)) ∧
    (∀ c va, s.landOpd k r o = .error (c, va) → c ≠ 0x0020 →
      s.landOne (k, j) = (s.dispRecord k c 0 (BitVec.ofNat 64 va) 0).failTask k (BitVec.ofNat 64 c))) ∧
  (∀ (s : State) die q idx fit, (s.die die).tripped = false → s.windowDue die = false → (s.die die).exq = none →
    (s.die die).readyHeads = [(q, idx)] → s.fits (taskKey die idx) = some fit → typeEnergy (s.taskType (taskKey die idx)) ≤ s.remain die →
    exec (.selectionPass die) s = .next (s.startHead die idx fit)) ∧
  (∀ (s : State) die, (s.die die).tripped = false → s.windowDue die = true →
    ∃ t : State, exec (.energyWindowStart die) s = .next t ∧ (t.die die).remain = some (s.budget die) ∧
      (t.die die).window = (s.die die).cycle / 65536 ∧ (t.die die).heldNow = [] ∧ t.mem = s.mem ∧ t.threads = s.threads) ∧
  (∀ (s : State) die idx run r, let k := taskKey die idx
    s.run? k = some run → s.record? k = some r → run.stopping = true → s.taskDrained k = true → s.savePhase k = 0 →
    (s.die die).tripped = false → exec (.taskCompletion die idx) s = .next (s.endTask k run r))

/-! ## Generation -/

/-- Class 13 on carrier A (R399-R409, R413, R414, R417-R420). The model's choices: a slot operand with [63:12] not zero gives ILLEGAL_DESC
(log 76); the unit acts in the step that issues, its answer following (log 72). -/
def Obligations.GenerationInstructionResults : Prop :=
  ∀ (o : AR) (s : State),
    let a := s.greg o.a
    let b := s.greg o.b
    let die := s.myDie
    let n := a.toNat
    let ones : Word := BitVec.allOnes 64
    let slot := s.openSlot? die n s.myAsid
    (a.extractLsb' 12 52 ≠ 0 → ∀ i ∈ [Instr.sxsel o, .sxapp o, .sxprop o, .sxlen o, .sxsave o, .sxload o, .sxwin o, .sxclr o], Traps i s 0x0003 a) ∧
    (a.extractLsb' 12 52 = 0 → s.slotHolds die n = false →
      (Ready s →
        (b.toNat % 1024 = 0 → 1024 ≤ b.toNat → b.toNat ≤ 2 ^ 20 →
          ((s.pslot? die n).isSome = true → Answers (.sxsel o) s o.d ones s) ∧
          (s.pslot? die n = none → s.arenaFor die b.toNat = none → Answers (.sxsel o) s o.d 0 s) ∧
          (∀ z, s.pslot? die n = none → s.arenaFor die b.toNat = some z → ∃ (u : State) (x : PSlot), Answers (.sxsel o) s o.d 1 u ∧
            u.openSlot? die n s.myAsid = some x ∧ x.arena = z ∧ x.cap = b.toNat ∧ x.w = b.toNat ∧ x.count = 0 ∧ x.base = 0)) ∧
        (slot = none → b ≠ 0 → b.toNat ≤ 2 ^ 20 → o.d ≠ 0 →
          Answers (.sxapp o) s o.d ones s ∧ Answers (.sxlen o) s o.d ones s ∧ Answers (.sxwin o) s o.d ones s) ∧
        (∀ x, slot = some x → o.d ≠ 0 →
          let q := (b.extractLsb' 32 32).toNat
          let v : HWord := b.extractLsb' 0 32
          (q = x.count → q ≠ 0xFFFFFFFF → x.held = [] → 1 ≤ x.w → x.base + x.hist.length = x.count →
            ∃ (u : State) (y : PSlot), Answers (.sxapp o) s o.d 0 u ∧ u.pslot? die n = some y ∧ y.count = x.count + 1 ∧ y.hist.getLast? = some v) ∧
          (x.count + 17 ≤ q → ∃ u : State, Answers (.sxapp o) s o.d 5 u ∧ u.pslot? die n = some x ∧ u.net.length = s.net.length + 1) ∧
          (q < x.base → q ≠ 0xFFFFFFFF → q < x.count + 17 → ∃ u : State, Answers (.sxapp o) s o.d 3 u ∧ u.pslot? die n = some x ∧ u.net = s.net)) ∧
        (∀ x, slot = some x →
          (o.f = 0 → Answers (.sxlen o) s o.d (BitVec.ofNat 64 x.count) s) ∧ (o.f = 1 → Answers (.sxlen o) s o.d (BitVec.ofNat 64 x.base) s) ∧
          (o.f = 2 → Answers (.sxlen o) s o.d x.summary s) ∧ (o.f = 3 → Answers (.sxlen o) s o.d (BitVec.ofNat 64 (x.w + x.cap * 2 ^ 32)) s) ∧
          (b ≠ 0 → b.toNat ≤ 2 ^ 20 →
            (x.cap < b.toNat → Answers (.sxwin o) s o.d 0 s) ∧
            (b.toNat ≤ x.cap → ∃ (u : State) (y : PSlot), Answers (.sxwin o) s o.d 1 u ∧ u.pslot? die n = some y ∧ y.w = b.toNat ∧
              y.base = max x.base (x.count - b.toNat)))) ∧
        (vaArgOk b = true →
          (slot = none → Answers (.sxsave o) s o.d ones s ∧ Answers (.sxload o) s o.d ones s) ∧
          (∀ x u, slot = some x → s.writeVirt die s.myAsid b.toNat x.image = .ok u →
            Answers (.sxsave o) s o.d (BitVec.ofNat 64 x.image.length) u) ∧
          (∀ x bs, slot = some x → s.readImage b.toNat = .ok bs →
            (imageOk bs = false → Answers (.sxload o) s o.d 0 s) ∧
            (imageOk bs = true → x.cap < imageField bs 12 4 → Answers (.sxload o) s o.d 2 s) ∧
            (imageOk bs = true → imageField bs 12 4 ≤ x.cap → ∃ (t : State) (r : Req), exec (.sxload o) s = .next t ∧ t.reqs = s.reqs ++ [r] ∧
              r.stage = .queued ∧ t.pslot? die n = some { x with rebuild := some (r.id, bs) } ∧ t.me.pc = s.cur.pc + 8))) ∧
        (let addr : Word := BitVec.ofNat 64 (b.extractLsb' 40 24).toNat
         ((16 < (b.extractLsb' 32 5).toNat ∨ b.extractLsb' 37 3 ≠ 0) → Traps (.sxprop o) s 0x0003 b) ∧
         ((b.extractLsb' 32 5).toNat ≤ 16 → b.extractLsb' 37 3 = 0 →
          (s.poolArg addr 64 64 = false → Traps (.sxprop o) s 0x0021 addr) ∧
          (s.poolArg addr 64 64 = true → (s.sxWaiting die).length < 64 → (∀ r ∈ s.reqs, r.id < s.nextId) → slot.isSome = true →
            ∃ (t : State) (r : Req), exec (.sxprop o) s = .next t ∧ t.req? s.nextId = some r ∧ r.stage = .queued ∧
              r.op = .sxprop n b s.me.sxRegs ∧ t.me.ldout = s.me.ldout + 1 ∧ t.me.pc = s.cur.pc + 8 ∧ t.mem = s.mem)))) ∧
      (slot = none → exec (.sxclr o) s = .next s.advance) ∧
      (∀ x, slot = some x →
        (o.f.getLsbD 0 = true → exec (.sxclr o) s = .next (s.closeSlot die n).advance) ∧
        (o.f.getLsbD 0 = false → ∃ (t : State) (y : PSlot), exec (.sxclr o) s = .next t ∧ t.pslot? die n = some y ∧ y.count = 0 ∧ y.hist = [] ∧
          y.held = [] ∧ y.w = x.w ∧ y.cap = x.cap ∧ t.me.pc = s.cur.pc + 8)) ∧
      (o.d = 0 → slot = none → exec (.sxapp o) s = .next s.advance)) ∧
    (s.slotHolds die n = true → a.extractLsb' 12 52 = 0 → exec (.sxclr o) s = .next s.hold ∧ exec (.sxapp o) s = .next s.hold) ∧
    (Writes (.vocchk o) s o.d (if a.toNat < 2 ^ 32 ∧ n < s.me.vocab.toNat ∧ ¬ (s.me.padlo.toNat ≤ n ∧ n < s.me.padhi.toNat) then 1 else 0)) ∧
    (let w := a
     let d := s.greg o.d
     let k := (w.extractLsb' 24 7).toNat
     let m := (w.extractLsb' 32 4).toNat + 1
     let kout := (d.extractLsb' 24 7).toNat
     let range (a : Word) (n : Nat) : Bool := poolOk s s.myTask s.myTile (a.extractLsb' 0 24).toNat n false
     let first (a : Word) (n : Nat) : Word := BitVec.ofNat 64 (poolFirstBad s s.myTask s.myTile (a.extractLsb' 0 24).toNat n)
     let dOk : Bool := d.extractLsb' 0 3 == 0 && decide (1 ≤ kout ∧ kout ≤ 64) && d.extractLsb' 31 33 == 0
     let wOk : Bool := w.extractLsb' 0 3 == 0 && decide (1 ≤ k ∧ k ≤ 64) && !w.getLsbD 31 && w.extractLsb' 36 28 == 0
     (isMemTile s.myTile = true → Traps (.tkmerge o) s 0x0001 s.cur.word) ∧
     (isMemTile s.myTile = false →
       (dOk = false → Traps (.tkmerge o) s 0x0003 d) ∧ (dOk = true → wOk = false → Traps (.tkmerge o) s 0x0003 w) ∧
       (dOk = true → wOk = true →
         (range d (8 * kout) = false → Traps (.tkmerge o) s 0x0021 (first d (8 * kout))) ∧
         (range d (8 * kout) = true → range w (8 * k * m) = false → Traps (.tkmerge o) s 0x0021 (first w (8 * k * m))) ∧
         (range d (8 * kout) = true → range w (8 * k * m) = true →
           ((s.me.queue 1).length < 2 → Queues (.tkmerge o) s 1 (.tkmerge o) d w 0 0 true) ∧
           (2 ≤ (s.me.queue 1).length → exec (.tkmerge o) s = .next s.hold))))) ∧
    (b.extractLsb' 40 24 ≠ 0 → Traps (.rngdraw o) s 0x0003 b) ∧
    (b.extractLsb' 40 24 = 0 → Ready s → (s.draws die).length < 256 → (∀ r ∈ s.reqs, r.id < s.nextId) →
      ∃ (t : State) (r : Req), exec (.rngdraw o) s = .next t ∧ t.req? s.nextId = some r ∧ r.stage = .queued ∧ r.op = .draw a b ∧
        r.who = .threadPair s.cur.th (s.me.preg o.d) (s.me.preg (o.d + 1)) ∧ t.me.pc = s.cur.pc + 8 ∧ t.me.ldout = s.me.ldout + 1 ∧
        t.mem = s.mem) ∧
    (64 < b.toNat → Traps (.btprop o) s 0x0003 b) ∧
    (b ≠ 0 → b.toNat ≤ 64 → s.poolArg a 64 (64 * b.toNat) = true → s.poolPoisoned s.myTile a.toNat (64 * b.toNat) = false → Ready s →
      let g := (s.die die).btgrp
      ((g.testBit 13 && g.testBit 12) = false → ∃ it, Answers (.btprop o) s o.d (btStatus 2 0 0 it) s) ∧
      (g.testBit 13 = true → g.testBit 12 = true → (s.die die).btTxn.isSome = true → ∃ it, Answers (.btprop o) s o.d (btStatus 3 0 0 it) s) ∧
      (g.testBit 13 = true → g.testBit 12 = true → (s.die die).btTxn = none → (s.tile s.myTile).fences = [] →
        (∀ r ∈ s.reqs, r.thread? ≠ some s.cur.th) →
        ∃ (t : State) (r : Req) (x : BtTxn), exec (.btprop o) s = .next t ∧ t.reqs = s.reqs ++ [r] ∧ r.stage = .queued ∧
          (t.die die).btTxn = some x ∧ x.phase = 1 ∧ x.req = r.id ∧ x.iter = ((s.die die).iter + 1) % 2 ^ 32 ∧
          t.net.length = s.net.length + (s.die die).btset.length ∧ t.me.pc = s.cur.pc + 8)) ∧
    (Ready s →
      ((s.die die).btTxn = none → ∃ it, Answers (.btcommit o) s o.d (btStatus 1 0 0 it) s) ∧
      (∀ x, (s.die die).btTxn = some x → x.phase = 2 →
        (o.f.getLsbD 0 = true → ∃ u : State, Answers (.btcommit o) s o.d (btStatus 0 0 0 x.iter) u ∧ (u.die die).btTxn = none ∧
          u.net.length = s.net.length + (s.die die).btset.length) ∧
        (o.f.getLsbD 0 = false → ∃ (t : State) (r : Req) (y : BtTxn), exec (.btcommit o) s = .next t ∧ t.reqs = s.reqs ++ [r] ∧
          r.stage = .queued ∧ (t.die die).btTxn = some y ∧ y.phase = 3 ∧ y.req = r.id ∧ t.me.pc = s.cur.pc + 8)) ∧
      (o.f = 4 → Answers (.btread o) s o.d (BitVec.ofNat 64 ((s.die die).iter + if (s.die die).btPrepared.isSome then 2 ^ 32 else 0)) s) ∧
      (o.f.toNat < 4 → a.extractLsb' 12 52 = 0 →
        Answers (.btread o) s o.d (BitVec.ofNat 64 (bytesToNat (((s.btEntry die n).drop (8 * o.f.toNat)).take 8))) s)) ∧
    (o.f.toNat < 4 → a.extractLsb' 12 52 ≠ 0 → Traps (.btread o) s 0x0003 a)

/-- The die's generation units act (R404-R406, R409-R415, R418, R419). The model's choices: a COMMIT waits while any slot of its die is held
(log 78); what an abort leaves and when a packet of the protocol is taken (logs 77, 113). -/
def Obligations.GenerationUnitSteps : Prop :=
  (∀ (s : State) (r : Req) v, (r.stage ≠ .parked → s.answerUnit r v = s.answer r v false) ∧
    (r.stage = .parked → s.answerUnit r v = s.modReq r.id fun x => { x with kept := some v })) ∧
  (∀ (s : State) die k r n w regs, s.req? k = some r → r.op = .sxprop n w regs → dieOfTile r.tile = die → (s.die die).tripped = false →
    r.stage = .queued → s.sxWaiting die = [r] → s.openSlot? die n r.asid = none → s.pslot? die n = none →
    exec (.sxpropEvaluate die k) s = .next (s.answer r (BitVec.allOnes 64) false)) ∧
  (∀ (s : State) die k r n w regs x, s.req? k = some r → r.op = .sxprop n w regs → dieOfTile r.tile = die → (s.die die).tripped = false →
    r.stage = .queued → s.sxWaiting die = [r] → s.openSlot? die n r.asid = some x → s.pslot? die n = some x → x.rebuild = none →
    (w.extractLsb' 0 32).toNat ≤ x.count →
    let p := x.propose (w.extractLsb' 0 32).toNat (w.extractLsb' 32 5).toNat regs
    let a := (w.extractLsb' 40 24).toNat
    ∃ t : State, exec (.sxpropEvaluate die k) s = .next (t.answer r p.2.summary false) ∧
      t.pslot? die n = some p.2 ∧ t.mem = s.mem ∧ t.threads = s.threads ∧ t.req? k = some { r with op := .sxwords a (propWords p.1) }) ∧
  (∀ (s : State) k r a bs v th d, s.req? k = some r → r.op = .sxwords a bs → r.stage = .reply v false → r.who = .thread th d true →
    s.stopped r.tile = false → s.replyOut k = false → s.readerAhead r = false →
    ∃ t : State, exec (.memoryReplyArrival k) s = .next (t.waveSweepTile r.tile) ∧ t.thread th = (s.thread th).takeReply d true v ∧
      t.req? k = none ∧ t.mem = (s.landWords r).mem ∧
      ∀ u, s.poolStore r.tile a bs.length (bytesToNat bs) = (true, u) → s.landWords r = u) ∧
  (∀ (s : State) die k x id bs r, s.pslot? die k = some x → x.rebuild = some (id, bs) → (s.die die).tripped = false → s.req? id = some r →
    exec (.sxloadRebuildComplete die k) s = .next ((s.putPslot die k (x.load bs)).answerUnit r 1) ∧
      (x.load bs).count = bytesToNat ((bs.drop 4).take 4) ∧ (x.load bs).rebuild = none) ∧
  (∀ (s : State) k p, s.packet? k = some p → s.arrived p = true →
    (∀ coord idx iter delta, p.body = .data 4 (coord :: idx :: iter :: delta) →
      let bs := delta.map (BitVec.ofNat 8)
      let reason := s.btReason p.dst iter (deltaRecs bs)
      ∃ t : State, exec (.btProposalArrival k) s = .next t ∧
        t.net = ((s.dropPacket k).send clsCtl p.dst coord (.data 5 [idx, reason, iter, 1])).net ∧
        (reason = 0 → (t.die p.dst).btPrepared = some (iter, bs)) ∧ (reason ≠ 0 → t.dies = s.dies) ∧ t.mem = s.mem) ∧
    (∀ c i iter, p.body = .data 6 [c, i, iter] →
      ∃ t : State, exec (.btAbortArrival k) s = .next t ∧ (∀ y, (t.die p.dst).btPrepared = some y → y.1 ≠ iter) ∧
        (t.die p.dst).btab = (s.die p.dst).btab ∧ t.mem = s.mem) ∧
    (∀ coord idx iter bs, p.body = .data 7 [coord, idx, iter] → (s.die p.dst).btPrepared = some (iter, bs) →
      ∃ t : State, exec (.btCommitArrival k) s = .next t ∧ (t.die p.dst).iter = iter ∧ (t.die p.dst).btPrepared = none ∧
        t.net = ((s.dropPacket k).send clsCtl p.dst coord (.data 5 [idx, 0, iter, 3])).net ∧
        (t.die p.dst).btab = (deltaRecs bs).foldl (fun m r => if r.op = 1 then mapDel r.idx m else mapPut r.idx r.image m) (s.die p.dst).btab) ∧
    (∀ idx iter x r, p.body = .data 5 [idx, 0, iter, 1] → (s.die p.dst).btTxn = some x → x.iter = iter → x.phase = 1 → x.waits = [idx] →
      x.reasons = [] → s.req? x.req = some r →
      ∃ (t : State) (y : BtTxn), exec (.batchingAcknowledgement k) s = .next (t.answerUnit r (btStatus 0 0 0 iter)) ∧
        (t.die p.dst).btTxn = some y ∧ y.phase = 2 ∧ t.mem = s.mem)) ∧
  (∀ (s : State) die x i r, (s.die die).btTxn = some x → (s.die die).tripped = false → x.phase = 3 → x.waits = [i] →
    x.start + 2 ^ 24 ≤ (s.die die).cycle → s.req? x.req = some r →
    ∃ t : State, exec (.btReplicaTimeout die) s = .next (t.answerUnit r (btStatus 4 0 i x.iter)) ∧ (t.die die).btTxn = none ∧
      t.net.length = s.net.length + 1) ∧
  (∀ (s : State) g, let f := s.cur.fir
    let s0 := s.beginFire.traceFire f f.tag f.l
    (s.slotsHeld (dieOfTile (tileOfPe f.pe)) = true → exec .commit s = .next s.hold) ∧
    (s.slotsHeld (dieOfTile (tileOfPe f.pe)) = false → f.eos = false → s.scalars f = [g] → exec .commit s = .next (commitScalar s0 g)) ∧
    (∀ a l r, l.n = false → r.n = false → l.p = false → r.p = false → 
      btState (s.btEntry (dieOfTile (tileOfPe f.pe)) (r.w.extractLsb' 0 12).toNat) ≠ 1 →
      s.retire f a l r = (a, (s.fireRecord f 0x00A2 0).emit f f.tag [{ l with p := true }]))) ∧
  (∀ (s : State) die r x y th d1 d2 key, (s.die die).tripped = false → (∀ q ∈ s.reqs, q.stage ≠ .region) → s.draws die = [r] →
    s.req? r.id = some r → r.op = .draw x y → r.who = .threadPair th d1 d2 → dieOfTile r.tile = die →
    mapFind? (s.die die).keys (y.extractLsb' 32 8).toNat = some key →
    let z := aes256 key (drawBlock x y)
    ∃ (t : State) (q : Req), exec (.generatorDrawServe die) s = .next t ∧ t.req? r.id = some q ∧
      q.stage = .reply (BitVec.ofNat 64 (bytesToNat (z.take 8))) false ∧ q.op = .draw x (BitVec.ofNat 64 (bytesToNat (z.drop 8))) ∧ t.mem = s.mem)

/-! ## Class 14 -/

namespace Sys2Proof.Claims

/-- Registers of the map that a thread's own state gives, with their values (R8, R433). -/
def ownRegisters (t : Thread) : List (Nat × Word) :=
  [(0x003, t.round), (0x004, t.excmode), (0x008, t.trapcause), (0x009, t.trappc), (0x00A, t.trapval), (0x00B, t.trapvec),
    (0x00C, t.trapscr), (0x040, t.vocab), (0x041, t.padlo), (0x042, t.padhi), (0x043, t.sxlmin), (0x044, t.sxlmax)]

/-- Registers of the map that memory tiles do not have. -/
def unitRegisters (t : Thread) : List (Nat × Word) :=
  [(0x010, t.uivec), (0x011, t.uistat), (0x018, mapGet 0 t.tlDone 0), (0x019, mapGet 0 t.tlDone 1), (0x01A, mapGet 0 t.tlDone 2),
    (0x01B, mapGet 0 t.tlDone 3), (0x020, mapGet 0 t.err 1), (0x021, mapGet 0 t.err 2), (0x022, mapGet 0 t.err 0), (0x023, mapGet 0 t.err 3)]

/-- The row a write of a register belongs to (R431). -/
def rowOf (n : Nat) (v : Word) : Instr :=
  if n = 0x038 then .missringWrite v
  else if n = 0x039 then .ntrapctlWrite v
  else if 0x100 ≤ n ∧ n ≤ 0x17F then .repairWrite (n - 0x100) v
  else if 0x018 ≤ n ∧ n ≤ 0x01B then .timelineCounterWrite (n - 0x018) v
  else if 0x020 ≤ n ∧ n ≤ 0x023 then .errorRegisterClear n v
  else if n = 0x050 then .ebudgetWrite v
  else .machineRegisterWrite n v

end Sys2Proof.Claims

/-- MRD and MWR (R431): a number outside the map, a missing privilege, a register a memory tile lacks, the test window; a read's
value; a write is its row's, then the next bundle. That privilege is checked before a memory tile's lack of the register is the model's
choice (log 82). -/
def Obligations.MachineRegisterAccess : Prop :=
  ∀ (o : AI) (s : State),
    let n := o.imm.toNat
    let w : Word := BitVec.ofNat 64 n
    let gone := isMemTile s.myTile && computeReg n
    (inMap n = false → Traps (.mrd o) s 0x0001 s.cur.word ∧ Traps (.mwr o) s 0x0001 s.cur.word) ∧
    (inMap n = true →
      (readPriv n = true → s.privileged s.cur.th = false → Traps (.mrd o) s 0x0021 w) ∧
      (writePriv n = true → s.privileged s.cur.th = false → Traps (.mwr o) s 0x0021 w) ∧
      (isWindow n = true → s.privileged s.cur.th = true → s.windowOk n = false → Traps (.mrd o) s 0x0021 w ∧ Traps (.mwr o) s 0x0021 w) ∧
      (isWindow n = true → s.privileged s.cur.th = true → s.windowOk n = true →
        Writes (.mrd o) s o.d ((s.thread (windowThread s.myTile n)).readWindow (windowReg n))) ∧
      ((readPriv n = true → s.privileged s.cur.th = true) → gone = true → Writes (.mrd o) s o.d 0) ∧
      ((readPriv n = true → s.privileged s.cur.th = true) → gone = false → isWindow n = false → Writes (.mrd o) s o.d (s.readReg s.cur.th n)) ∧
      ((writePriv n = true → s.privileged s.cur.th = true) → gone = true → exec (.mwr o) s = .next s.advance) ∧
      ((writePriv n = true → s.privileged s.cur.th = true) → gone = false → (isWindow n = true → s.windowOk n = true) →
        ∃ u : State, exec (rowOf n (s.greg o.a)) s = .next u ∧ exec (.mwr o) s = .next u.advance)) ∧
    (∀ v, (n, v) ∈ ownRegisters s.me → Writes (.mrd o) s o.d v) ∧
    (∀ v, (n, v) ∈ unitRegisters s.me → Writes (.mrd o) s o.d (if isMemTile s.myTile then 0 else v))

/-- What a write of a machine register leaves (R8, R110, R159, R273, R279, R317, R376, R403, R434-R437). The model's choices: a write of
EBUDGET first begins a window that is due and keeps what is left of it (log 84); when MISSRING takes a ring (`ringOk`, log 60). -/
def Obligations.MachineRegisterWrites : Prop :=
  ∀ (v : Word) (s : State),
    let tile := s.myTile
    let k := s.myTask.getD 0
    let y := s.taskTile k tile
    let base := (v.extractLsb' 0 24).toNat
    ((y.missring.getLsbD 28 = true → s.missTail k tile ≠ y.missHead → exec (.missringWrite v) s = .next s) ∧
      (s.ringOk k tile v = false → exec (.missringWrite v) s = .next s) ∧
      ((y.missring.getLsbD 28 = true → s.missTail k tile = y.missHead) → y.misses = [] → s.ringOk k tile v = true → (s.run? k).isSome = true →
        ∃ u : State, exec (.missringWrite v) s = .next u ∧ (u.taskTile k tile).missring = v &&& 0x1FFFFFFF ∧
          (v.getLsbD 28 = true → (u.taskTile k tile).missHead = 0) ∧ (v.getLsbD 28 = false → u.mem = s.mem) ∧ u.threads = s.threads)) ∧
    ((v.getLsbD 24 = true → (base % 64 ≠ 0 ∨ scratchOk s k tile base 260 = false) → exec (.ntrapctlWrite v) s = .next s) ∧
      ((v.getLsbD 24 = true → base % 64 = 0 ∧ scratchOk s k tile base 260 = true) → (s.run? k).isSome = true →
        ∃ u : State, exec (.ntrapctlWrite v) s = .next u ∧ (u.taskTile k tile).ntrapctl = v &&& 0x1FFFFFF ∧ u.mem = s.mem ∧
          u.threads = s.threads)) ∧
    (∀ n, n < 128 → ∃ u : State, exec (.repairWrite n v) s = .next u ∧ mapGet 0 (u.tile tile).repair n = v &&& 0x7FF ∧
      (∀ i, i < 64 → u.readByte (sramKey tile (0x200000 + n * 64) + i) = 0) ∧ u.threads = s.threads) ∧
    (∀ e, e < 4 →
      (s.engineBusy s.cur.th e = true → exec (.timelineCounterWrite e v) s = .next s) ∧
      (s.engineBusy s.cur.th e = false → ∃ u : State, exec (.timelineCounterWrite e v) s = .next u ∧ mapGet 0 u.me.tlDone e = v ∧
        mapGet 0 u.me.tlIssued e = v ∧ u.me.g = s.me.g ∧ SameButThread s.cur.th s u)) ∧
    (∀ n e, (n, e) ∈ [(0x020, 1), (0x021, 2), (0x022, 0), (0x023, 3)] →
      (v.getLsbD 16 = false → exec (.errorRegisterClear n v) s = .next s) ∧
      (v.getLsbD 16 = true → ∃ u : State, exec (.errorRegisterClear n v) s = .next u ∧ mapGet 0 u.me.err e = 0 ∧
        (∀ j, j ≠ e → mapGet 0 u.me.err j = mapGet 0 s.me.err j) ∧ SameButThread s.cur.th s u)) ∧
    (∃ u : State, exec (.ebudgetWrite v) s = .next u ∧
      (u.die s.myDie).budget = some (min (v.extractLsb' 0 32).toNat (Config.fuse s.myDie % 2 ^ 32)) ∧
      u.remain s.myDie = (if s.windowDue s.myDie then s.windowStart s.myDie else s).remain s.myDie ∧ u.windowDue s.myDie = false ∧
      u.mem = s.mem ∧ u.threads = s.threads) ∧
    (∀ n f, (n, f) ∈ ([(0x003, fun t => { t with round := v &&& 7 }), (0x008, fun t => { t with trapcause := v &&& 0x7F07FFFF }),
        (0x009, fun t => { t with trappc := v &&& ~~~(7 : Word) }), (0x00A, fun t => { t with trapval := v }),
        (0x00B, fun t => { t with trapvec := v &&& ~~~(6 : Word) }), (0x00C, fun t => { t with trapscr := v }),
        (0x010, fun t => { t with uivec := v &&& ~~~(6 : Word) }), (0x040, fun t => { t with vocab := v &&& 0xFFFFFFFF }),
        (0x041, fun t => { t with padlo := v &&& 0xFFFFFFFF }), (0x042, fun t => { t with padhi := v &&& 0xFFFFFFFF })] :
          List (Nat × (Thread → Thread))) → exec (.machineRegisterWrite n v) s = .next (s.modMe f)) ∧
    (∀ n, n ∈ [0x043, 0x044] → ((v.extractLsb' 0 7).toNat = 0 ∨ 64 < (v.extractLsb' 0 7).toNat) →
      ∃ u : State, exec (.machineRegisterWrite n v) s = .next u ∧ u.me = s.me ∧ SameButThread s.cur.th s u) ∧
    (1 ≤ (v.extractLsb' 0 7).toNat → (v.extractLsb' 0 7).toNat ≤ 64 →
      exec (.machineRegisterWrite 0x043 v) s = .next (s.modMe fun t => { t with sxlmin := BitVec.ofNat 64 (v.extractLsb' 0 7).toNat }) ∧
      exec (.machineRegisterWrite 0x044 v) s = .next (s.modMe fun t => { t with sxlmax := BitVec.ofNat 64 (v.extractLsb' 0 7).toNat })) ∧
    (∃ u : State, exec (.machineRegisterWrite 0x004 v) s = .next u ∧ SameButThread s.cur.th s u ∧
      (∀ i, i < 6 → (s.me.excmode.getLsbD (16 + i) = true → u.me.excmode.getLsbD (16 + i) = !v.getLsbD (16 + i)) ∧
        (v.extractLsb' (2 * i) 2 ≠ 3 → u.me.excmode.extractLsb' (2 * i) 2 = v.extractLsb' (2 * i) 2) ∧
        (v.extractLsb' (2 * i) 2 = 3 → u.me.excmode.extractLsb' (2 * i) 2 = s.me.excmode.extractLsb' (2 * i) 2))) ∧
    (∃ u : State, exec (.machineRegisterWrite 0x058 v) s = .next u ∧ (u.die s.myDie).fltlost = (v.extractLsb' 0 32).toNat ∧ u.threads = s.threads) ∧
    (∃ u : State, exec (.machineRegisterWrite 0x080 v) s = .next u ∧ (u.tile tile).testctl = v &&& 1 ∧ u.threads = s.threads) ∧
    (∀ n, isWindow n = true → ∃ u : State, exec (.machineRegisterWrite n v) s = .next u ∧ u.mem = s.mem ∧
      (∀ x, x ≠ windowThread tile n → u.thread x = s.thread x) ∧
      (let r := windowReg n
       let x := u.thread (windowThread tile n)
       (r ≠ 0 → r < 40 → x.readWindow r = v) ∧ (r = 40 → x.readWindow 40 = v &&& 0xFE)))

/-- HALT, TLBINV, PWRHINT, SWINT, REPLAY, CTXSAVE and CTXLOAD (R445-R450). The model's choices: the checks of CTXLOAD's area and anchor
word, and its result 0 (log 89); REPLAY looks at g[a][13:0] alone (log 85); doorbells that wait for their release count where SWINT
looks for room (log 88). -/
def Obligations.SystemInstructionResults : Prop :=
  ∀ (o : AR) (x : AI) (s : State),
    let a := s.greg o.a
    let b := s.greg o.b
    let die := s.myDie
    let own := s.myTask.getD 0
    (∃ t : State, exec (.halt o) s = .next t ∧ t.me.running = false ∧ t.me.hnd = false ∧ t.me.uih = false ∧ t.me.pc = s.cur.pc + 8 ∧
      t.me.g = s.me.g ∧ t.me.h = s.me.h ∧ t.me.p = s.me.p ∧ SameButThread s.cur.th s t ∧
      (∀ k, s.myTask = some k → s.savePhase k = 1 → typeClassS (s.taskType k) = true → t.me.acked = true)) ∧
    (s.privileged s.cur.th = false → Traps (.tlbinv o) s 0x0021 b ∧ Traps (.ctxsave o) s 0x0021 a ∧ Traps (.ctxload o) s 0x0021 a) ∧
    (s.privileged s.cur.th = true →
      (let form := o.f.toNat % 4
       (form ≠ 2 → b.extractLsb' 12 52 ≠ 0 → Traps (.tlbinv o) s 0x0003 b) ∧
       ((form = 2 ∨ b.extractLsb' 12 52 = 0) → (4 ≤ s.me.ldout ∨ s.slotFree s.myTile = false) → exec (.tlbinv o) s = .next s.hold) ∧
       ((form = 2 ∨ b.extractLsb' 12 52 = 0) → Ready s → ∃ (t : State) (r : Req), exec (.tlbinv o) s = .next t ∧ t.reqs = s.reqs ++ [r] ∧
          r.stage = .reply 1 false ∧ r.who = .thread s.cur.th (s.me.preg o.d) true ∧ t.me.ldout = s.me.ldout + 1 ∧ t.me.pc = s.cur.pc + 8 ∧
          (t.die die).tlb = (s.die die).tlb.filter (fun e => !e.invalidBy form (b.toNat % 4096) a.toNat) ∧ t.mem = s.mem ∧
          (∀ u, dieOfTile u = die → ∀ e ∈ (t.tile u).tlb, e.invalidBy form (b.toNat % 4096) a.toNat = false))) ∧
      ((b.toNat % 4096 ≠ 0 ∨ b.extractLsb' 56 8 ≠ 0) → Traps (.ctxsave o) s 0x0003 b) ∧
      (b.toNat % 4096 = 0 → b.extractLsb' 56 8 = 0 →
        (s.taskById a = none → Writes (.ctxsave o) s o.d 0) ∧
        (∀ k, s.taskById a = some k → (s.mayPreempt k = false ∨ s.myTask = some k) → Writes (.ctxsave o) s o.d 0) ∧
        (∀ k, s.taskById a = some k → s.mayPreempt k = true → s.myTask ≠ some k → moduleOfDie (dieOfTask k) = moduleOfDie die →
          exec (.ctxsave o) s = .next ((s.acceptSave k die s.myAsid b.toNat none).result o.d 1))) ∧
      ((a.toNat % 4096 ≠ 0 ∨ a.extractLsb' 56 8 ≠ 0) → Traps (.ctxload o) s 0x0003 a) ∧
      (a.toNat % 4096 = 0 → a.extractLsb' 56 8 = 0 →
        (b.extractLsb' 12 52 ≠ 0 → Traps (.ctxload o) s 0x0003 b) ∧
        (b.extractLsb' 12 52 = 0 →
          (s.areaTask die s.myAsid a.toNat = none → Writes (.ctxload o) s o.d 0) ∧
          (∀ k, s.areaTask die s.myAsid a.toNat = some k → s.savedOut k = false → Writes (.ctxload o) s o.d 0) ∧
          (∀ k, s.areaTask die s.myAsid a.toNat = some k → s.savedOut k = true → s.myTask ≠ some k →
            exec (.ctxload o) s = .next ((s.acceptLoad k (moduleOfDie die * 16 + (b.extractLsb' 8 4).toNat) die s.myAsid a.toNat
              (b.extractLsb' 0 4).toNat (b.extractLsb' 4 4).toNat none).result o.d 1))))) ∧
    (x.imm.msb = true → Traps (.pwrhint x) s 0x0001 s.cur.word) ∧
    (∀ run, x.imm.msb = false → s.windowDue die = false → s.run? own = some run →
      let credit := min x.imm.toNat (min (typeEnergy (s.taskType own) - run.returned) (s.budget die - s.remain die))
      ∃ t : State, exec (.pwrhint x) s = .next t ∧ (x.d ≠ 0 → t.greg x.d = BitVec.ofNat 64 credit) ∧ (x.d = 0 → t.me.g = s.me.g) ∧ t.remain die = s.remain die + credit ∧
        (t.run? own).map TaskRun.returned = some (run.returned + credit) ∧ t.me.pc = s.cur.pc + 8 ∧ t.mem = s.mem) ∧
    (a.extractLsb' 8 56 ≠ 0 → Traps (.swint o) s 0x0003 a) ∧
    (a.extractLsb' 8 56 = 0 → (s.die die).doorbell = none → Traps (.swint o) s 0x0021 a) ∧
    (∀ area, a.extractLsb' 8 56 = 0 → (s.die die).doorbell = some area →
      (s.bellsFull die area = true → exec (.swint o) s = .next s.hold) ∧
      (s.bellsFull die area = false → s.Inv → (∀ r ∈ s.reqs, r.thread? ≠ some s.cur.th) → (s.tile s.myTile).fences = [] →
        let base := die * 2 ^ 40 + area.base
        let tail := s.readNat base 8
        base % 4096 = 0 → area.base + 16448 ≤ 2 ^ 40 →
        ∃ t : State, exec (.swint o) s = .next t ∧ t.me.pc = s.cur.pc + 8 ∧ t.readNat base 8 = (tail + 1) % 2 ^ 64 ∧
          t.readNat (base + 64 + 16 * (tail % 1024)) 8 = b.toNat ∧
          t.readNat (base + 64 + 16 * (tail % 1024) + 8) 8 = (s.instanceId own).toNat % 2 ^ 48 + (a.extractLsb' 0 8).toNat * 2 ^ 48 ∧
          t.me.g = s.me.g)) ∧
    (o.f.getLsbD 0 = true →
      (let r := s.replayNode own s.myTile (a.extractLsb' 0 4).toNat (a.extractLsb' 4 10).toNat
       exec (.replay o) s = .next (r.2.result o.d (if r.1 then 1 else 0)) ∧
       (∀ e, s.element? (s.nodeKey own (16 * s.myTile + (a.extractLsb' 0 4).toNat) (a.extractLsb' 4 10).toNat) = some e →
          (e.trapped = false ∨ e.task ≠ own) → r = (false, s)))) ∧
    (o.f.getLsbD 0 = false →
      (a ≠ 0 → a ≠ s.instanceId own → s.privileged s.cur.th = false → Traps (.replay o) s 0x0021 a) ∧
      (a = 0 → (s.parkedOps own).any s.resubmitHolds = true → exec (.replay o) s = .next s.hold) ∧
      (a = 0 → (s.parkedOps own).any s.resubmitHolds = false →
        exec (.replay o) s = .next ((s.replayPark own).2.result o.d (BitVec.ofNat 64 (s.replayPark own).1))) ∧
      (s.privileged s.cur.th = true → a ≠ 0 → a ≠ s.instanceId own → s.taskById a = none → Writes (.replay o) s o.d 0))

/-! ## Pre-emption, the fault log, firmware, resets -/

/-- Class G and class S saves, their timeouts, and the restore (R439-R443): each begins its wait, stands still until what it waits
for is over, then writes the area and gives the task's tiles back. Where the fields of a tile block's opening and of its unlisted sections lie is
the model's choice, log 13; that a region of another kind refuses the restore is the model's reading, log 17. So are the save that is
dropped when its task ends, the task that goes on after SAVESTAT 2 and the threads that restart after 3 (log 89), LOADSTAT 2 for another
die and which elements the blocked count counts (log 90). -/
def Obligations.PreemptionSteps : Prop :=
  (∀ (s : State) die n (classS : Bool) j run r, s.saveJob? die n classS = some (j, run, r) → (s.die die).tripped = false →
    s.regionRuns j.task = true → dieOfTask j.task = die →
    let i : Instr := if classS then .classSSave die n else .classGSave die n
    let s1 := (s.region j.task).foldl (fun s t => s.settleNodes t) s
    let open_ := (s1.regionPes j.task).any fun pe => !(s1.openRuns j.task pe).isEmpty
    (run.stopping = true → exec i s = .next ((if classS then s.resumeAll j.task else s).dropSave j)) ∧
    (run.stopping = false →
      (j.phase = 0 → ∃ (t : State) (x : SaveJob), exec i s = .next t ∧ (t.die die).saves[n]? = some x ∧
        x = { j with phase := 1, start := x.start } ∧
        (∀ th ∈ s.taskThreads j.task, if classS then (t.thread th).preempt = true ∧ (t.thread th).acked = false ∧ (t.thread th).pc = (s.thread th).pc
          else (t.thread th).wait = none ∧ (t.thread th).pc = (s.thread th).pc) ∧
        (∀ th, th ∉ s.taskThreads j.task → t.thread th = s.thread th)) ∧
      (classS = true → j.phase = 1 →
        ((∃ th ∈ s.taskThreads j.task, (s.thread th).running = true) → exec i s = .next s) ∧
        ((∀ th ∈ s.taskThreads j.task, (s.thread th).running = false) →
          exec i s = .next ((s.region j.task).foldl (State.fabricCheck j.task) (s.setPhase j.task 2)))) ∧
      ((if classS then 2 ≤ j.phase else 1 ≤ j.phase) →
        (open_ = true → exec i s = .next (s1.flushRuns j.task)) ∧
        (open_ = false → s1.saveDrained j.task = false → exec i s = .next s1) ∧
        (open_ = false → s1.saveDrained j.task = true → exec i s = .next (s1.scanOut j run r fun u => if classS then u.resumeAll j.task else u))))) ∧
  (∀ (s : State) (j : SaveJob) (run : TaskRun) (r : TaskRec) (resume : State → State),
    let s1 := (s.taskThreads j.task).foldl (fun s th => (s.settleFence th).settleFlush th) s
    let img := s1.saveImage j.task run r
    let tail := img.tail
    (∀ e, s1.writeVirt j.die j.asid j.area (imageHead tail) = .error e →
      s.scanOut j run r resume = (resume (s1.modRun j.task fun x => { x with saving := false })).endSave j 2) ∧
    (∀ s2 s3, s1.writeVirt j.die j.asid j.area (imageHead tail) = .ok s2 →
      s2.writeVirt j.die j.asid (j.area + 16) (List.replicate 8 0 ++ tail) = .ok s3 →
      img.inst = s1.instanceId j.task ∧ img.task = r ∧ img.type = run.type ∧ img.tiles = (s1.region j.task).map (s1.saveTile j.task r) ∧
      ∃ t : State, s.scanOut j run r resume = t.endSave j 0 ∧ t.images = img :: s3.images ∧ (∀ x, t.run? j.task = some x → x.tiles = []))) ∧
  (∀ (s : State) die n j, (s.die die).saves[n]? = some j → (s.die die).tripped = false →
    let classS := typeClassS (s.taskType j.task)
    let excess := s.modRun j.task fun x => { x with saving := false }
    (j.start + 2 ^ 20 ≤ (s.die die).cycle → (if classS then 2 else 1) ≤ j.phase →
      (∃ q ∈ s.reqs, q.task = j.task ∧ q.heldAtRegion = true) →
      exec (.saveHeldRequestTimeout die n) s = .next ((if classS then excess.resumeAll j.task else excess).endSave j 3)) ∧
    ((s.die die).cycle < j.start + 2 ^ 20 → exec (.saveHeldRequestTimeout die n) s = .next s) ∧
    (∀ run r, s.saveJob? die n true = some (j, run, r) →
      ((s.die die).cycle < j.start + 2 ^ 24 → exec (.preemptAckTimeout die n) s = .next s) ∧
      (j.phase = 1 → j.start + 2 ^ 24 ≤ (s.die die).cycle → (∃ th ∈ s.taskThreads j.task, (s.thread th).running = true) →
        exec (.preemptAckTimeout die n) s = .next ((excess.resumeAll j.task).endSave j 5)))) ∧
  (∀ (s : State) die n j, (s.die die).loads[n]? = some j → (s.die die).tripped = false →
    let t := j.task
    ((s.readArea j.die j.asid j.area).bind s.imageOf = none → exec (.contextRestore die n) s = .next (s.endLoad die j 1 true)) ∧
    (∀ bs img r, s.readArea j.die j.asid j.area = some bs → s.imageOf bs = some img → s.record? t = some r →
      ((img.type ≠ s.typeEntry (dieOfTask t) r.ttype ∨ img.inst ≠ s.instanceId t) →
        exec (.contextRestore die n) s = .next (s.endLoad die j 1 true)) ∧
      (img.type = s.typeEntry (dieOfTask t) r.ttype → img.inst = s.instanceId t →
        (dieOfTask t ≠ die → exec (.contextRestore die n) s = .next (s.endLoad die j 2 true)) ∧
        (dieOfTask t = die → savedKindsFit img { r with hdr := setField (setField r.hdr 18 4 j.ax) 22 4 j.ay } = false →
          exec (.contextRestore die n) s = .next (s.endLoad die j 2 true)) ∧
        (let r2 := { r with hdr := setField (setField r.hdr 18 4 j.ax) 22 4 j.ay }
         let s2 := s.modRec t fun _ => r2
         dieOfTask t = die → s2.region t ≠ [] → s2.poolFits t img.type = true → s2.rolesFree t = true → savedKindsFit img r2 = true →
          (s2.placeTiles img.type (s2.region t) (s2.overflowUsed die) = none →
            exec (.contextRestore die n) s = .next (s.endLoad die j 2 true)) ∧
          (∀ ps recs s3, s2.placeTiles img.type (s2.region t) (s2.overflowUsed die) = some ps → s2.ctxsFree (img.tiles.zip ps) = true →
            (if img.classS then s2.nodeImage t img.type else .ok []) = .ok recs → s2.loadImage t img r2 ps recs = some s3 →
            let n' := s3.blockedCount t
            exec (.contextRestore die n) s =
              .next ((s3.areaStatus j.die j.asid j.area 20 n').endLoad die j (if n' = 0 then 0 else 4) false))))))

/-- A fault record at its log (R426), soft errors (R292, R349, R429), a defective pool cell (R502), firmware (R451, R452), module reset and
power-down (R14, R15, R458), the thermal limits (R459). The model's choices: a byte that nothing has written reads 0 (log 1); what DRAM
and the owner key keep, and that a throttle is a cycle that passes (log 93); the source that keeps the order of records (log 94); the
step that makes a cell defective (log 115); the step that also lowers a limit (log 120). -/
def Obligations.RecordsAndResets : Prop :=
  (∀ (s : State) k p r, s.packet? k = some p → p.body = .fault r → p.at_ = p.dst → s.placeStopped p.dst = false → s.faultBehind k p r = false →
    (∀ log, s.Inv → (s.die p.dst).log = some log → log.base + log.len ≤ 2 ^ 40 → 1 ≤ log.records →
      let base := p.dst * 2 ^ 40 + log.base
      let tail := s.readNat base 8
      let head := s.readNat (base + 8) 8
      (log.records ≤ (tail + 2 ^ 64 - head) % 2 ^ 64 → ∃ t : State, exec (.faultRecordPlace k) s = .next t ∧ t.mem = s.mem ∧
        (t.die p.dst).fltlost = min ((s.die p.dst).fltlost + 1) (2 ^ 32 - 1) ∧ (t.die p.dst).fltloss = true ∧ t.packet? k = none) ∧
      ((tail + 2 ^ 64 - head) % 2 ^ 64 < log.records → ∃ t : State, exec (.faultRecordPlace k) s = .next t ∧
        t.readNat base 8 = (tail + 1) % 2 ^ 64 ∧
        memReadAll t.mem (base + 64 + 64 * (tail % log.records)) 64 = faultBytes r tail (s.die p.dst).fltloss ∧
        (t.die p.dst).fltloss = false ∧ t.packet? k = none ∧ t.threads = s.threads)) ∧
    ((s.die p.dst).log = none → ∃ t : State, exec (.faultRecordPlace k) s = .next t ∧ t.mem = s.mem ∧
      (t.die p.dst).fltlost = min ((s.die p.dst).fltlost + 1) (2 ^ 32 - 1) ∧ t.packet? k = none)) ∧
  (∀ (s : State) key, ∃ t : State, exec (.eccUncorrectable (.word key)) s = .next t ∧ key / 8 ∈ t.ecc ∧ t.mem = s.mem ∧ t.threads = s.threads) ∧
  (∀ (s : State) th k, (s.thread th).task = some k → ∃ t : State, exec (.eccUncorrectable (.register th)) s = .next t ∧
    (t.thread th).running = false ∧ (∀ x, x ≠ th → t.thread x = s.thread x) ∧ t.net.length = s.net.length + 1 ∧ t.mem = s.mem) ∧
  (∀ (s : State) slot x, s.element? slot = some x → x.blocked = false → ∃ t : State, exec (.eccUncorrectable (.element slot)) s = .next t ∧
    t.element? slot = some { x with blocked := true, bad := x.raw } ∧ t.net.length = s.net.length + 1 ∧ t.threads = s.threads) ∧
  (∀ (s : State) b id x, mapFind? s.bobbins b = some x → ∃ t : State, exec (.eccUncorrectable (.bobbin b id)) s = .next t ∧
    (id = none → mapFind? t.bobbins b = some { x with lost := true }) ∧
    (∀ i, id = some i → mapFind? t.bobbins b = some { x with lostIds := i :: x.lostIds }) ∧ t.mem = s.mem) ∧
  (∀ (s : State) a b k,
    let rows := min 192 (mapGet 0 s.retired (linkDir a b) + 1)
    let left := ({ s with retired := mapPut (linkDir a b) rows s.retired } : State).usable a b
    (48 ≤ left → ∃ t : State, exec (.eccUncorrectable (.link a b k)) s = .next t ∧ mapGet 0 t.retired (linkDir a b) = rows ∧
      t.net.length = s.net.length ∧ t.withdrawn = s.withdrawn ∧ t.mem = s.mem ∧
      (∀ i p, k = some i → s.packet? i = some p → (∃ h ∈ p.worm, h.prev = a ∧ h.at_ = b ∧ h.flits ≠ []) →
        t.packet? i = some { p with bad := true })) ∧
    (left < 48 → ∃ t : State, exec (.eccUncorrectable (.link a b k)) s = .next t ∧ linkOf a b ∈ t.withdrawn ∧ t.threads = s.threads)) ∧
  (∀ (s : State) tile bank row i ones zeros, bank < 32 → row < 1024 → i < 64 → tile < 2 ^ 16 →
    (isMemTile tile = true → exec (.eccUncorrectable (.cell tile bank row i ones zeros)) s = .next s) ∧
    (isMemTile tile = false → ∃ t : State, exec (.eccUncorrectable (.cell tile bank row i ones zeros)) s = .next t ∧ t.mem = s.mem ∧
      t.threads = s.threads ∧ ∀ a, a / 2048 = row → a / 64 % 32 = bank → a % 64 = i → repairSpare (s.tile tile).repair bank row = none →
        s.wordState (poolKey s tile a) = 3 → t.poolLoad tile a 1 = (((s.readByte (poolKey s tile a) ||| ones) &&& ~~~zeros) : Byte).toNat)) ∧
  (∀ (s : State) m img n, (s.module m).powered = true → (∀ i, 1 ≤ i → i < n → (mapFind? (s.module m).firmware i).isSome = true) →
    1 ≤ n → n ≤ 4 → mapFind? (s.module m).firmware n = none →
    (imageType img = n → s.imageVerifies m img = true → ∃ t : State, exec (.firmwareBoot m img) s = .next t ∧
      mapFind? (t.module m).firmware n = some (imageVersion img) ∧ (t.module m).mlog.length = (s.module m).mlog.length + 1 ∧
      (t.module m).measure = sha256 ((s.module m).measure ++ ([BitVec.ofNat 8 n, BitVec.ofNat 8 (imageSlot img)] ++ (img.drop 24).take 32)) ∧
      t.mem = s.mem) ∧
    ((imageType img ≠ n ∨ s.imageVerifies m img = false) → ∃ t : State, exec (.firmwareBoot m img) s = .next t ∧
      (t.module m).firmware = (s.module m).firmware ∧ (t.module m).reports = (s.module m).reports ++ [[2, n]] ∧ t.mem = s.mem)) ∧
  (∀ (s : State) m,
    let keep (a : Nat) : Bool := (s.module m).powered && isDram a
    ∃ t : State, exec (.moduleReset m) s = .next t ∧ (∀ a, a / 2 ^ 44 ≠ m ∨ keep a = true → t.readByte a = s.readByte a) ∧
    (∀ a, a / 2 ^ 44 = m → keep a = false → t.readByte a = 0) ∧ (∀ th, moduleOfTile (tileOfThread th) = m → t.thread th = Thread.reset) ∧
    (∀ d, moduleOfDie d = m → t.die d = Die.reset) ∧ (∀ th, moduleOfTile (tileOfThread th) ≠ m → t.thread th = s.thread th) ∧
    (t.module m).ownerKey = (s.module m).ownerKey ∧ (t.module m).firmware = []) ∧
  (∀ (s : State) m, ∃ t : State, exec (.powerDown m) s = .next t ∧ (∀ a, a / 2 ^ 44 = m → t.readByte a = 0) ∧
    (∀ d, moduleOfDie d = m → (t.die d).tripped = true) ∧ (t.module m).powered = false ∧ (t.module m).ownerKey = (s.module m).ownerKey ∧
    (∀ a, a / 2 ^ 44 ≠ m → t.readByte a = s.readByte a)) ∧
  (∀ (s : State) die celsius low, (s.die die).tripped = false →
    (celsius < min (s.die die).tripPoint low → ∃ t : State, exec (.thermalTrip ⟨die, celsius, low⟩) s = .next t ∧ (t.die die).tripped = false ∧
      (t.die die).tripPoint = min (s.die die).tripPoint low ∧ t.modules = s.modules ∧ t.threads = s.threads ∧ t.mem = s.mem) ∧
    (min (s.die die).tripPoint low ≤ celsius → ∃ t : State, exec (.thermalTrip ⟨die, celsius, low⟩) s = .next t ∧ (t.die die).tripped = true ∧
      (t.die die).tripPoint = min (s.die die).tripPoint low ∧
      (t.module (moduleOfDie die)).reports = (s.module (moduleOfDie die)).reports ++ [[3, die]] ∧ t.threads = s.threads ∧ t.mem = s.mem)) ∧
  (∀ (s : State) die amps low, (s.die die).tripped = false →
    ∃ t : State, exec (.currentGovernorThrottle die ⟨amps, low⟩) s = .next t ∧ (t.die die).governor = min (s.die die).governor low ∧
      (t.die die).cycle = (if min (s.die die).governor low < amps then (s.die die).cycle + 1 else (s.die die).cycle) ∧
      t.threads = s.threads ∧ t.pes = s.pes ∧ t.mem = s.mem) ∧
  (∀ d, (State.reset.die d).tripPoint = 110 ∧ (State.reset.die d).governor = 1875)

/-! ## The journal -/

namespace Sys2Proof.Claims

/-- Entry seq of module m, with bytes bs, may start or go on (R454, R455). -/
def Runnable (s : State) (m seq : Nat) (e : JEntry) : Prop :=
  mapFind? (s.module m).entries seq = some e ∧ s.journalUp m = true ∧ (s.module m).mayRun seq e = true

/-- The state in which a command acts: its entry is STARTED. -/
def started (s : State) (m seq : Nat) (e : JEntry) : State :=
  if e.state = 3 then s else s.journalState m seq 3 (Config.freeNat s.tick 20) none

/-- The command has acted, giving u; its entry goes to state st. -/
def Ends (i : Instr) (s : State) (m seq st : Nat) (u : State) : Prop := ∃ x, exec i s = .next (u.journalState m seq st x none)

/-- The commands by their codes (R456). -/
def IsCommand (m seq c : Nat) (i : Instr) : Prop :=
  (c, i) ∈ [(0x01, .tload m seq), (0x02, .instCmd m seq), (0x03, .cancelCmd m seq), (0x04, .decCmd m seq), (0x05, .journalReplay m seq),
    (0x06, .preemptCmd m seq), (0x07, .restoreCmd m seq), (0x10, .asidCmd m seq), (0x11, .journalTlbinv m seq), (0x12, .plistCmd m seq),
    (0x13, .partitionCmd m seq), (0x14, .areaCmd m seq), (0x15, .btset m seq), (0x16, .keyload m seq), (0x17, .sxfree m seq),
    (0x18, .dmawin m seq), (0x20, .fwupdate m seq), (0x21, .ownerkey m seq)]

end Sys2Proof.Claims

/-- An entry is accepted, or fails with status 1; a state change stands in both copies; a command runs for its own code alone, from the
entry's copy, and waits while it may not start (R454, R455). The model's choices: the mirror takes an entry's bytes in the step that
accepts it (log 108); when the journal is up (`journalUp`, log 91). -/
def Obligations.JournalEntries : Prop :=
  (∀ (s : State) m, let seq := (s.module m).head
    let bs := s.journalRead m (journalEntryOff seq) 128
    let good := imageField bs 8 1 = 1 ∧ imageField bs 0 8 = seq
    let at_ := m * 2 ^ 44 + journalEntryOff seq
    (s.journalUp m = false → exec (.journalEntryAccept m) s = .next s) ∧
    (s.journalCount m 0 = seq → exec (.journalEntryAccept m) s = .next s) ∧
    (s.Inv → s.journalUp m = true → s.journalCount m 0 ≠ seq → (s.module m).done ≤ seq →
      ∃ t : State, exec (.journalEntryAccept m) s = .next t ∧ (t.module m).head = (seq + 1) % 2 ^ 64 ∧
        t.readNat (m * 2 ^ 44 + 0xFFF000008) 8 = (seq + 1) % 2 ^ 64 ∧ t.readNat (m * 2 ^ 44 + 2 ^ 43 + 0xFFF000008) 8 = (seq + 1) % 2 ^ 64 ∧
        (good → mapFind? (t.module m).entries seq = some { bytes := bs, state := 2, aux := [] } ∧ t.readByte (at_ + 8) = 2) ∧
        t.readNat (at_ + 2 ^ 43) 8 = imageField bs 0 8 ∧
        (¬ good → t.readByte (at_ + 8) = 5 ∧ t.readNat (at_ + 12) 4 = 1) ∧ t.threads = s.threads)) ∧
  (∀ (s : State) m seq e st v, s.Inv → mapFind? (s.module m).entries seq = some e →
    let t := s.journalState m seq st v none
    let at_ := m * 2 ^ 44 + journalEntryOff seq
    t.readByte (at_ + 8) = BitVec.ofNat 8 st ∧ t.readByte (at_ + 2 ^ 43 + 8) = BitVec.ofNat 8 st ∧ t.readNat (at_ + 12) 4 = v % 2 ^ 32 ∧
      t.threads = s.threads ∧ t.dies = s.dies ∧ (st < 4 → (s.module m).done ≤ seq →
        mapFind? (t.module m).entries seq = some { e with state := st })) ∧
  (∀ (s : State) m seq e c i, mapFind? (s.module m).entries seq = some e → IsCommand m seq c i →
    (entryCommand e.bytes ≠ c ∨ s.journalUp m = false ∨ (s.module m).mayRun seq e = false) → exec i s = .next s) ∧
  (∀ (s : State) m seq e, Runnable s m seq e →
    (e.state = 3 ∨ (e.state = 2 ∧ ∀ y ∈ (s.module m).entries, seq ≤ y.1 ∨ (if (imageField e.bytes 9 1).testBit 0 then 4 else 3) ≤ y.2.state)))

/-- The commands about tasks act as the instructions they name (R386, R393, R396, R456, R457). The layout of the arguments is free but
for INST's (log 15). -/
def Obligations.JournalTaskCommands : Prop :=
  ∀ (s : State) m seq e, Runnable s m seq e →
    let arg (i : Nat) : Nat := Config.journalArg (entryCommand e.bytes) e.bytes i
    let u := started s m seq e
    let die := 16 * m + arg 0 % 16
    (entryCommand e.bytes = 0x01 →
      let r := loadTypes die (m * 2 ^ 44 + arg 3 % 2 ^ 44) (arg 2 % 4097) (arg 1) u
      Ends (.tload m seq) s m seq (if r.1 then 4 else 5) r.2 ∧
        (∀ bs, u.namedBytes (m * 2 ^ 44 + arg 3 % 2 ^ 44) 64 = some bs → let img := wordsOfBytes bs 8
         arg 2 % 4097 = 1 → arg 1 < 4096 → typeImageOk img = true → u.typeBusy die (arg 1) = false →
          r.1 = true ∧ mapFind? (r.2.die die).types (arg 1) = some img)) ∧
    (entryCommand e.bytes = 0x02 → e.state = 2 →
      (s.instArgs m e.bytes = none → exec (.instCmd m seq) s = .next (s.journalState m seq 5 2 (some 0))) ∧
      (∀ a, s.instArgs m e.bytes = some a →
        (∀ c va, s.readVirt a.die a.asid a.bva 128 = .error (c, va) →
          exec (.instCmd m seq) s = .next ((s.instRecord a.die c va).journalState m seq 5 4 (some 0))) ∧
        (∀ bufs r w, s.readVirt a.die a.asid a.bva 128 = .ok bufs →
          s.instantiate a.die a.asid a.plist a.tva (wordsOfBytes bufs 16) (some (m, seq)) = (r, w) →
          (r = .full → exec (.instCmd m seq) s = .next (w.journalState m seq 5 3 (some 0))) ∧
          (∀ c va, r = .bad c va → exec (.instCmd m seq) s = .next ((w.instRecord a.die c va).journalState m seq 5 4 (some 0))) ∧
          (∀ h, r = .made h → exec (.instCmd m seq) s = .next (w.journalState m seq 3 0 (some (h + a.die % 16 * 1024))))))) ∧
    (entryCommand e.bytes = 0x03 → Ends (.cancelCmd m seq) s m seq 4 (u.endInst die (arg 1 % 1024)).2) ∧
    (entryCommand e.bytes = 0x04 →
      (1 ≤ arg 2 → arg 2 ≤ 16384 → Ends (.decCmd m seq) s m seq 4 (u.applyDecrement die (arg 1 % 262144) (arg 2))) ∧
      ((arg 2 = 0 ∨ 16384 < arg 2) → Ends (.decCmd m seq) s m seq 5 u)) ∧
    (entryCommand e.bytes = 0x05 →
      (u.taskById (BitVec.ofNat 64 (arg 0)) = none → Ends (.journalReplay m seq) s m seq 5 u) ∧
      (∀ k, u.taskById (BitVec.ofNat 64 (arg 0)) = some k →
        ((u.parkedOps k).any u.resubmitHolds = true → exec (.journalReplay m seq) s = .next u) ∧
        ((u.parkedOps k).any u.resubmitHolds = false → Ends (.journalReplay m seq) s m seq 4 (u.replayPark k).2))) ∧
    (entryCommand e.bytes = 0x06 →
      (u.taskById (BitVec.ofNat 64 (arg 0)) = none → Ends (.preemptCmd m seq) s m seq 5 u) ∧
      (∀ k, u.taskById (BitVec.ofNat 64 (arg 0)) = some k → (∀ j ∈ (u.die (dieOfTask k)).saves, j.journal ≠ some (m, seq)) →
        (u.mayPreempt k = true → arg 1 % 4096 = 0 →
          exec (.preemptCmd m seq) s = .next (u.acceptSave k (16 * m + arg 3 % 16) (arg 2 % 4096) (arg 1) (some (m, seq)))) ∧
        ((u.mayPreempt k = false ∨ arg 1 % 4096 ≠ 0) → Ends (.preemptCmd m seq) s m seq 5 u))) ∧
    (entryCommand e.bytes = 0x07 →
      let from_ := 16 * m + arg 2 % 16
      let onto := 16 * m + arg 3 / 256 % 16
      (∀ j ∈ (u.die onto).loads, j.journal ≠ some (m, seq)) →
        (u.areaTask from_ (arg 1 % 4096) (arg 0) = none → Ends (.restoreCmd m seq) s m seq 5 u) ∧
        (∀ k, u.areaTask from_ (arg 1 % 4096) (arg 0) = some k →
          (u.savedOut k = false → Ends (.restoreCmd m seq) s m seq 5 u) ∧
          (u.savedOut k = true → exec (.restoreCmd m seq) s =
            .next (u.acceptLoad k onto from_ (arg 1 % 4096) (arg 0) (arg 3 % 16) (arg 3 / 16 % 16) (some (m, seq))))))

/-- The commands that set what a module's units use: address spaces, partitions, areas, keys, firmware (R296, R309, R402, R410, R418,
R426, R446, R449, R451-R453, R456). The layout of the arguments is free (log 15). The model's choices: BTSET gives every die of the set the
coordinator's table (log 14); AREA writes no memory (log 71); PARTITION of the same epoch and AREA outside DRAM are refused, and BTSET
waits for a transaction in flight (log 91). -/
def Obligations.JournalSettingCommands : Prop :=
  ∀ (s : State) m seq e, Runnable s m seq e →
    let arg (i : Nat) : Nat := Config.journalArg (entryCommand e.bytes) e.bytes i
    let s1 := started s m seq e
    let code := entryCommand e.bytes
    let mods (i : Nat) : List Nat := (List.range (arg i % 577)).map fun j => arg (i + 1 + j) % 576
    (code = 0x10 → ∃ u : State, Ends (.asidCmd m seq) s m seq 4 u ∧ u.mem = s1.mem ∧ u.threads = s.threads ∧
      (∀ d, moduleOfDie d = m → mapFind? (u.die d).roots (arg 0 % 4096) = some (arg 1, (arg 2).testBit 0)) ∧
      (∀ d, moduleOfDie d ≠ m → u.die d = s.die d)) ∧
    (code = 0x11 → ∃ u : State, Ends (.journalTlbinv m seq) s m seq 4 u ∧ u.mem = s1.mem ∧ u.threads = s.threads ∧
      (∀ d, moduleOfDie d = m → (u.die d).tlb = (s.die d).tlb.filter fun x => !x.invalidBy (arg 0 % 3) (arg 1 % 4096) (arg 2))) ∧
    (code = 0x12 →
      (1 ≤ arg 0 → arg 0 ≤ 255 → ∃ u : State, Ends (.plistCmd m seq) s m seq 4 u ∧ u.plist? m (arg 0) = some (mods 1) ∧ u.dies = s.dies) ∧
      ((arg 0 = 0 ∨ 255 < arg 0) → Ends (.plistCmd m seq) s m seq 5 s1)) ∧
    (code = 0x13 →
      (arg 0 = (s.module m).epoch → Ends (.partitionCmd m seq) s m seq 5 s1) ∧
      (arg 0 ≠ (s.module m).epoch → ∃ u : State, Ends (.partitionCmd m seq) s m seq 4 u ∧ (u.module m).epoch = arg 0 ∧
        (u.module m).filter = mods 1 ∧ u.dies = s.dies ∧ u.mem = s1.mem)) ∧
    (code = 0x14 → let die := 16 * m + arg 0 % 16
      (areaOf (arg 1 % 4) (arg 2) (arg 3) = none → Ends (.areaCmd m seq) s m seq 5 s1) ∧
      (∀ x, areaOf (arg 1 % 4) (arg 2) (arg 3) = some x →
        (areaPlaceOk die x = false → Ends (.areaCmd m seq) s m seq 5 s1) ∧
        (areaPlaceOk die x = true → ∃ u : State, Ends (.areaCmd m seq) s m seq 4 u ∧ u.mem = s1.mem ∧
          (arg 1 % 4 = 0 → (u.die die).log = some x) ∧ (arg 1 % 4 = 1 → (u.die die).overflow = some x) ∧
          (arg 1 % 4 = 2 → (u.die die).arena = some x) ∧ (arg 1 % 4 = 3 → (u.die die).doorbell = some x)))) ∧
    (code = 0x15 →
      let n := arg 2 % 64 + 1
      let set := (List.range n).map fun i => arg (3 + i) % (576 * 16)
      (∀ i, i < n → moduleOfDie (set.getD i 0) = m → (s.die (set.getD i 0)).btTxn = none) →
        ∃ u : State, Ends (.btset m seq) s m seq 4 u ∧ u.mem = s1.mem ∧ u.threads = s.threads ∧
          (set.Nodup → ∀ i, i < n → moduleOfDie (set.getD i 0) = m →
            (arg 1 % 64 < n → (u.die (set.getD i 0)).btab = (s.die (set.getD (arg 1 % 64) 0)).btab) ∧
            (u.die (set.getD i 0)).btset = set ∧ (u.die (set.getD i 0)).iter = arg 0 % 2 ^ 32 ∧ (u.die (set.getD i 0)).btPrepared = none ∧
            (u.die (set.getD i 0)).btgrp = i + (n - 1) * 64 + (if i = arg 1 % 64 then 4096 else 0) + 8192)) ∧
    (code = 0x16 → s.Inv → let off := 24 + arg 2 % 73
      ∃ u : State, Ends (.keyload m seq) s m seq 4 u ∧
        mapFind? (u.die (16 * m + arg 0 % 16)).keys (arg 1 % 256) = some ((e.bytes.drop off).take 32) ∧
        (∀ i, i < 32 → u.readByte (m * 2 ^ 44 + journalEntryOff seq + off + i) = 0)) ∧
    (code = 0x17 → (∃ d n x, moduleOfDie d = m ∧ (n, x) ∈ (s.die d).pslots ∧ x.asid = arg 0 % 4096 ∧ s1.slotHolds d n = true) →
      exec (.sxfree m seq) s = .next s1) ∧
    (code = 0x17 → (∀ d n x, moduleOfDie d = m → (n, x) ∈ (s.die d).pslots → x.asid = arg 0 % 4096 → s1.slotHolds d n = false) →
      ∃ u : State, Ends (.sxfree m seq) s m seq 4 u ∧ u.mem = s1.mem ∧
      (∀ d n x, moduleOfDie d = m → u.pslot? d n = some x → x.asid ≠ arg 0 % 4096) ∧ (∀ d, moduleOfDie d ≠ m → u.die d = s.die d)) ∧
    (code = 0x18 → ∃ u : State, Ends (.dmawin m seq) s m seq 4 u ∧ u.mem = s1.mem ∧ u.dies = s.dies ∧
      mapFind? (u.io (2 * m + arg 0 % 2)).windows (arg 1 % 64) = some (arg 2 % 2 ^ 44, arg 3 % 2 ^ 44)) ∧
    (code = 0x20 →
      let a := m * 2 ^ 44 + arg 1 % 2 ^ 44
      (s1.namedBytes (a + 12) 4 = none → Ends (.fwupdate m seq) s m seq 5 s1) ∧
      ∀ x img, s1.namedBytes (a + 12) 4 = some x → s1.namedBytes a (1024 + bytesToNat x) = some img →
      let good := 2 ≤ imageType img ∧ imageType img ≤ 3 ∧ s1.imageVerifies m img = true
      (¬ good → Ends (.fwupdate m seq) s m seq 5 s1) ∧
      (good → s1.dieIdle (16 * m + arg 0 % 16) = false → exec (.fwupdate m seq) s = .next s1) ∧
      (good → s1.dieIdle (16 * m + arg 0 % 16) = true → ∃ u : State, Ends (.fwupdate m seq) s m seq 4 u ∧ u.mem = s1.mem ∧
        mapFind? (u.module m).firmware (imageType img) = some (imageVersion img))) ∧
    (code = 0x21 →
      ((s.module m).ownerKey.isSome = true → Ends (.ownerkey m seq) s m seq 5 s1) ∧
      ((s.module m).ownerKey = none → ∃ u : State, Ends (.ownerkey m seq) s m seq 4 u ∧ u.mem = s1.mem ∧
        (u.module m).ownerKey = some ((e.bytes.drop (24 + arg 0 % 73)).take 32)))

/-! ## The network -/

/-- Packets move hop by hop in the order of their stream, X then Y, a flit at a time by class, and are checked where they leave the
module (R13, R30, R248, R291-R293, R295, R314); the slot watchdog (R290); withdrawn links (R292, R293); UALink (R294, R295); an
accelerator's answer (R296); PCIe (R453). The model's choices: a packet that a link has corrupted is discarded at the end of its leg (log
64); a DMA window's limit is inclusive, and a refused access writes a record with ACCESS_FAULT (log 65). -/
def Obligations.NetworkEvents : Prop :=
  (∀ yx a b, a < 2 ^ 20 → b < 2 ^ 20 → a / 16 = b / 16 → a ≠ b →
    let far (u v : Nat) : Nat := (u % 4 - v % 4) + (v % 4 - u % 4) + (u / 4 % 4 - v / 4 % 4) + (v / 4 % 4 - u / 4 % 4)
    nextHop yx a b / 16 = a / 16 ∧ far (nextHop yx a b) b + 1 = far a b ∧ far a (nextHop yx a b) = 1 ∧
      (yx = false → a % 4 ≠ b % 4 → nextHop yx a b / 4 = a / 4) ∧
      (∀ s : State, s.withdrawn = [] → s.hop a b = nextHop false a b)) ∧
  (∀ (s : State) k p, s.packet? k = some p →
    let stays : Prop := exec (.packetReceive k) s = .next s
    (s.placeStopped p.at_ = true → stays) ∧ (p.sw = true → s.joinDue p = true → stays) ∧
    (s.placeStopped p.at_ = false → p.sw = false →
      (p.at_ = p.dst →
        ((s.packetWaits p = true ∨ s.joinDue p = true ∨ s.heldAtHome p = true) → stays) ∧
        (s.packetWaits p = false → s.joinDue p = false → s.heldAtHome p = false →
          (∀ id r, p.body = .req id → s.req? id = some r → r.stage = .transit →
            ∃ t : State, exec (.packetReceive k) s = .next t ∧ t.packet? k = none ∧ t.req? id = some { r with stage := .region } ∧ t.mem = s.mem ∧
              t.threads = s.threads) ∧
          (∀ from_ tile x, p.body = .token from_ tile x →
            let pe := tile * 16 + (x.dest.extractLsb' 12 4).toNat
            ∃ t : State, exec (.packetReceive k) s = .next t ∧ t.packet? k = none ∧ (t.pe pe).input.map (·.tok) = (s.pe pe).input.map (·.tok) ++ [x] ∧
              t.mem = s.mem) ∧
          (∀ c bs x, p.body = .beats c bs → s.circuit? c = some x → ∃ t : State, exec (.packetReceive k) s = .next t ∧ t.packet? k = none ∧
            t.circuit? c = some { x with wire := x.wire ++ bs } ∧ t.mem = s.mem))) ∧
      (p.at_ ≠ p.dst → p.at_ = p.leg →
        let n := ioNum p.at_
        (p.num.isSome = true → stays) ∧
        (p.num = none →
          (∀ r, s.ioMisses p = some r → s.req? r.id = some r → ∃ t : State, exec (.packetReceive k) s = .next t ∧
            t.req? r.id = some { r with stage := .miss } ∧ (r.travels = true → ∃ q ∈ t.net, q.body = .flt r.id) ∧ t.mem = s.mem ∧ t.threads = s.threads) ∧
          (s.ioMisses p = none →
            ((s.packetWaits p = true ∨ (s.io n).ports = []) → stays) ∧
            (∀ port, (s.io n).portFor (moduleOfLoc p.dst) = some port →
              let i := mapGet 0 (s.io n).sent (port * 2 ^ 11 + p.entry)
              ((∃ q ∈ s.net, ∃ j, q.numberOn port (moduleOfLoc p.src) (moduleOfLoc p.dst) = some j ∧ j + 8 ≤ i) → stays) ∧
              (s.isPeer (n / 2 * 16) (p.dst * 2 ^ 40) = false → s.packetWaits p = false → s.joinDue p = false →
                (∀ q ∈ s.net, ∀ j, q.numberOn port (moduleOfLoc p.src) (moduleOfLoc p.dst) = some j → i < j + 8) →
                (∀ q ∈ s.net, q.at_ = p.at_ → q.num = none → moduleOfLoc q.dst = moduleOfLoc p.dst → p.cls ≤ q.cls) →
                ∃ t : State, exec (.packetReceive k) s = .next t ∧ t.packet? k = some { p with num := some (port, i) } ∧ t.reqs = s.reqs ∧
                  t.mem = s.mem))))) ∧
      (p.at_ ≠ p.dst → p.at_ ≠ p.leg → p.worm = [] → p.left ≠ 0 →
        let h := s.hop p.at_ p.leg
        (s.headStays p = true → stays) ∧
        ((∃ q ∈ s.net, q.id ≠ p.id ∧ q.cls < p.cls ∧ (p.at_, h) ∈ s.wants q ∧ (s.flitPlace q p.at_ h).isSome = true) → stays) ∧
        (s.flitPlace p p.at_ h = none → stays) ∧
        (∀ r, s.headStays p = false → s.outranked p p.at_ h = false → s.flitPlace p p.at_ h = some r → p.bad = false →
          ∃ (t : State) (q : Packet), exec (.packetReceive k) s = .next t ∧ t.packet? k = some q ∧ q.head = h ∧ q.left = p.left - 1 ∧
            (q.id, q.cls, q.len, q.src, q.dst, q.body) = (p.id, p.cls, p.len, p.src, p.dst, p.body) ∧
            (h = p.leg → p.left = 1 → q.at_ = h ∧ q.worm = []) ∧
            (h ≠ p.leg ∨ p.left ≠ 1 → q.at_ = p.at_ ∧ q.worm = [{ prev := p.at_, at_ := h, flits := [r] }]) ∧
            t.net.length = s.net.length ∧ t.reqs = s.reqs ∧ t.mem = s.mem ∧ t.threads = s.threads) ∧
        (∀ r, s.headStays p = false → s.outranked p p.at_ h = false → s.flitPlace p p.at_ h = some r → p.bad = true → p.left = 1 → h = p.leg →
          ∃ (t : State) (f : FaultRec), exec (.packetReceive k) s = .next t ∧ (∃ q ∈ t.net, q.body = .fault f) ∧ f.code = 0x0061 ∧
            f.op0 = BitVec.ofNat 64 (s.header p) ∧ (∀ q ∈ s.net, q.id ≠ k → q ∈ t.net) ∧ t.mem = s.mem ∧ t.threads = s.threads)))) ∧
  (∀ (s : State) r q, s.req? r = some q →
    let d := s.die (dieOfTile q.tile)
    ((q.slot = false ∨ q.stage = .parked ∨ d.cycle < q.cycle + 2 ^ 24 ∨ d.tripped = true ∨ d.frozen ≠ []) →
      exec (.requestWatchdogExpiry r) s = .next s) ∧
    (q.slot = true → q.stage ≠ .parked → q.cycle + 2 ^ 24 ≤ d.cycle → d.tripped = false → d.frozen = [] →
      exec (.requestWatchdogExpiry r) s = .next ((s.expire q).afterApply q) ∧
        (∀ th dst n x, q.who = .thread th dst true → q.op = .load n x →
          ((s.expire q).thread th).deferred = (s.thread th).deferred ++ [{ code := 0x0062, va := q.va, req := some q.id }] ∧
            (s.expire q).mem = s.mem) ∧
        (∀ th dst c x, q.who = .thread th dst c → q.op = .atomic x →
          ((s.expire q).thread th).deferred = (s.thread th).deferred ++ [{ code := 0x0050, va := q.va, req := none }]))) ∧
  (∀ (s : State) lnk,
    (lnk ∈ s.withdrawn → exec (.linkWithdraw lnk) s = .next s) ∧
    (lnk ∉ s.withdrawn → (∀ c ∈ s.circuits, lnk ∉ c.2.route ∨ c.2.broken = true) → ∃ t : State, exec (.linkWithdraw lnk) s = .next t ∧
      t.withdrawn = s.withdrawn ++ [lnk] ∧ t.circuits = s.circuits ∧ t.net = s.net ∧ t.mem = s.mem ∧
      (2 ^ 43 ≤ lnk → mapFind? (t.io ((lnk - 2 ^ 43) / 128)).ports (lnk % 128) = none)) ∧
    (∀ c x, lnk ∉ s.withdrawn → s.circuits = [(c, x)] → lnk ∈ x.route → x.broken = false →
      let route := Config.circuitRoute s.tick c
      ((route = [] ∨ lnk ∈ route) → ∃ (t : State) (f : FaultRec), exec (.linkWithdraw lnk) s = .next t ∧
        (t.circuit? c).map Circuit.broken = some true ∧ (∃ p ∈ t.net, p.body = .fault f) ∧ f.code = 0x0060 ∧ t.mem = s.mem) ∧
      (route ≠ [] → lnk ∉ route → (∀ l ∈ route, l ∉ s.withdrawn) → ∃ t : State, exec (.linkWithdraw lnk) s = .next t ∧
        t.circuit? c = some { x with moving := true } ∧ t.net = s.net))) ∧
  (∀ (s : State) io port lanes speed,
    ((port / 36 ≠ io % 2 ∨ 72 ≤ port ∨ s.ioUp io = false) → exec (.ualinkPortTraining io port lanes speed) s = .next s) ∧
    (port / 36 = io % 2 → port < 72 → s.ioUp io = true →
      (lanes = 4 → speed = 200 → ∃ t : State, exec (.ualinkPortTraining io port lanes speed) s = .next t ∧
        mapFind? (t.io io).ports port = some 1 ∧ t.modules = s.modules ∧ t.mem = s.mem) ∧
      ((lanes ≠ 4 ∨ speed ≠ 200) → ∃ t : State, exec (.ualinkPortTraining io port lanes speed) s = .next t ∧
        mapFind? (t.io io).ports port = none ∧
        (t.module (io / 2)).reports = (s.module (io / 2)).reports ++ [[1, io, port, lanes, speed]] ∧ t.mem = s.mem))) ∧
  (∀ (s : State) io src off data,
    let cs := ((s.io io).chunks.filter fun c => !(c.1 == src && c.2.1 == off / 2 ^ 8 % 8 && c.2.2.1 == off / 2 ^ 11)) ++
      [(src, off / 2 ^ 8 % 8, off / 2 ^ 11, data)]
    exec (.ualinkChunkReceive io src off data false) s = .next s ∧
    (src / 2 ∉ (s.module (io / 2)).filter → exec (.ualinkChunkReceive io src off data true) s = .next s) ∧
    (s.ioUp io = false → exec (.ualinkChunkReceive io src off data true) s = .next s) ∧
    (s.ioUp io = true → src / 2 ∈ (s.module (io / 2)).filter → off % 256 = 0 → off / 2 ^ 11 ≤ 16 → data.length ≤ 256 → (s.io io).ports ≠ [] →
      (assembled cs src (off / 2 ^ 8 % 8) = none → ∃ t : State, exec (.ualinkChunkReceive io src off data true) s = .next t ∧
        (t.io io).chunks = cs ∧ t.net = s.net ∧ t.mem = s.mem) ∧
      (∀ bs, assembled cs src (off / 2 ^ 8 % 8) = some bs →
        (packetGood bs = false → ∃ (t : State) (f : FaultRec), exec (.ualinkChunkReceive io src off data true) s = .next t ∧
          (∃ p ∈ t.net, p.body = .fault f) ∧ f.code = 0x0061 ∧ f.io = true ∧ f.die = io ∧ t.mem = s.mem ∧ t.threads = s.threads ∧
          f.op0.toNat = bytesToNat (bs.take 8) ∧ (t.io io).chunks = cs.filter fun c => !(c.1 == src && c.2.1 == off / 2 ^ 8 % 8)) ∧
        (∀ p, packetGood bs = true → s.crossing src io (off / 2 ^ 8 % 8) (bytesToNat (bs.take 16)) = some p → s.packet? p.id = some p →
          ∃ (t : State) (q : Packet), exec (.ualinkChunkReceive io src off data true) s = .next t ∧ t.packet? p.id = some q ∧
            q.at_ = ioLoc io ∧ q.worm = [] ∧ q.left = p.len + 1 ∧ q.num = p.num ∧ q.dst = p.dst ∧ q.body = p.body ∧ t.reqs = s.reqs ∧ t.mem = s.mem)))) ∧
  (∀ (s : State) r q p v, s.req? r = some q → s.packetOf r = some p →
    ((isIo p.at_ = false ∨ s.ioUp (ioNum p.at_) = false ∨ s.isPeer (dieOfTile q.tile) q.pa = false ∨ s.packetWaits p = true) →
      exec (.transactionLayerResponse r v) s = .next s) ∧
    (isIo p.at_ = true → s.ioUp (ioNum p.at_) = true → s.isPeer (dieOfTile q.tile) q.pa = true → s.ioMisses p = none → s.packetWaits p = false →
      (∀ n x, q.op = .load n x → exec (.transactionLayerResponse r v) s =
        .next (((s.dropPacket p.id).answerFrom p.at_ q (extendLoad n x (v.toNat % 2 ^ (8 * n))) false).afterApply q)) ∧
      (∀ n w, q.op = .store n w → exec (.transactionLayerResponse r v) s = .next (((s.dropPacket p.id).answerFrom p.at_ q 0 false).afterApply q)))) ∧
  (∀ (s : State) io wr addr data, s.Inv →
    let n := data.length
    let pa := io / 2 * 2 ^ 44 + addr
    let allowed := (∃ w ∈ (s.io io).windows, w.2.1 ≤ addr ∧ addr + n ≤ w.2.2 + 1) ∧ (∀ i, i < n → backing s (pa + i) ≠ .unbacked) ∧
      (∀ i, i < n → s.guarded (pa + i) = false)
    let up : Prop := ∀ i, i < n → s.homeUp (io / 2 * 16) (pa + i) = true
    ((n = 0 ∨ s.ioUp io = false ∨ ¬ up) → exec (.pcieDmaAccess io wr addr data) s = .next s) ∧
    (n ≠ 0 → s.ioUp io = true → up → (¬ allowed ∨ (wr = true ∧ s.writable pa n = false)) → ∃ (t : State) (f : FaultRec) (p : Packet), exec (.pcieDmaAccess io wr addr data) s = .next t ∧ t.mem = s.mem ∧
      t.net = s.net ++ [p] ∧ p.body = .fault f ∧ f.code = 0x0021 ∧ f.io = true ∧ f.die = io) ∧
    (n ≠ 0 → s.ioUp io = true → up → allowed → wr = false → exec (.pcieDmaAccess io wr addr data) s = .next s) ∧
    (n ≠ 0 → s.ioUp io = true → up → allowed → wr = true → s.writable pa n = true → ∃ t : State, exec (.pcieDmaAccess io wr addr data) s = .next t ∧
      (∀ i, i < n → t.readByte (pa + i) = data.getD i 0) ∧ (∀ a, (∀ i, i < n → a ≠ pa + i) → t.readByte a = s.readByte a) ∧
      t.threads = s.threads ∧ t.net = s.net))

/-! ## Class 15 and the debug surface -/

namespace Sys2Proof.Claims

/-- The issuing thread has gone on to the next bundle, and one trace record of its kind, tag and value has left (R467, R475); none where
the tile's TREN is 0. -/
def Traces (i : Instr) (s : State) (kind : Nat) (tag : Word) (v : Nat) : Prop :=
  ((s.dbg s.myTile 0).getLsbD 2 = false → exec i s = .next s.advance) ∧
  ((s.dbg s.myTile 0).getLsbD 2 = true → ∃ (t : State) (p : Packet) (bs : List Byte), exec i s = .next t ∧ t.net = s.net ++ [p] ∧
    p.body = .trace ⟨s.myTile, bs⟩ ∧ p.dst = s.myDie ∧ bs.length = 32 ∧ bs.take 8 = natToBytes 8 tag.toNat ∧
    (bs.drop 8).take 2 = natToBytes 2 (s.cur.pc.toNat % 65536) ∧ (bs.drop 14).take 2 = natToBytes 2 kind ∧
    (bs.drop 24).take 4 = natToBytes 4 v ∧ t.me.pc = s.cur.pc + 8 ∧ t.me.g = s.me.g ∧ t.mem = s.mem)

/-- Every tile of a tile's cluster shows a stop by its cause, and the cluster stands still (R460, R463). -/
def FrozenBy (t : State) (tile cause thr unit code : Nat) : Prop :=
  clusterOf tile ∈ (t.die (dieOfTile tile)).frozen ∧
    ∀ u ∈ clusterTiles tile, t.dbg u 8 = BitVec.ofNat 64 (1 + cause * 2 + thr % 8 * 2 ^ 5 + unit % 16 * 2 ^ 8 + tileIdx tile * 2 ^ 12 + code % 2 ^ 16 * 2 ^ 20)

end Sys2Proof.Claims

/-- Class 15 (R473-R476): breakpoints, watch comparators, trace records, histograms; TRACE and MARK as nodes write their record where the
tile's TREN is 1 and pass L on unchanged, an E with its count; with BKEN 0 a cause freezes nothing and writes a STOP record where TREN is 1
(R466). The model's choices: HISTCLR checks its selector as HISTRD does, and counters beyond the pool do not exist (log 95); a TRACE or
MARK node's record has its tag before TAGOP (log 97). -/
def Obligations.DebugInstructionResults : Prop :=
  (∀ (o : AR) (x : AI) (s : State),
     let a := s.greg o.a
     let b := s.greg o.b
     let tile := s.myTile
     let ctl := s.dbg tile 0
     (s.me.pass = true → exec (.bkpt x) s = .next s.advance) ∧
     (s.me.pass = false → ctl.getLsbD 0 = false → ctl.getLsbD 2 = false → exec (.bkpt x) s = .next s.advance) ∧
     (s.me.pass = false → ctl.getLsbD 0 = false → ctl.getLsbD 2 = true → ∃ (t : State) (p : Packet) (bs : List Byte),
       exec (.bkpt x) s = .next t ∧ t.net = s.net ++ [p] ∧ p.body = .trace ⟨tile, bs⟩ ∧ bs.length = 32 ∧ bs.take 8 = natToBytes 8 0 ∧
       (bs.drop 8).take 2 = natToBytes 2 (s.cur.pc.toNat % 65536) ∧ (bs.drop 14).take 2 = natToBytes 2 4 ∧
       (bs.drop 24).take 4 = natToBytes 4 1 ∧ t.me.pc = s.cur.pc + 8 ∧ t.me.g = s.me.g ∧ t.dies = s.dies ∧ t.mem = s.mem) ∧
     (s.me.pass = false → ctl.getLsbD 0 = true → ∃ t : State, exec (.bkpt x) s = .next t ∧ t.cur.held = true ∧ t.me.pass = true ∧
       t.me.pc = s.me.pc ∧ t.me.g = s.me.g ∧ FrozenBy t tile 1 (s.cur.th % 8) 0 (x.imm.toNat % 65536) ∧ t.mem = s.mem) ∧
     (let len := (b.extractLsb' 0 6).toNat
      let c := (b.extractLsb' 8 2).toNat
      ((b.getLsbD 7 = true ∨ b.extractLsb' 10 54 ≠ 0 ∨ 20 < len) → Traps (.watch o) s 0x0003 b) ∧
      (b.getLsbD 7 = false → b.extractLsb' 10 54 = 0 → len ≤ 20 →
       ((a.toNat % 2 ^ len ≠ 0 ∨ a.extractLsb' 56 8 ≠ 0) → Traps (.watch o) s 0x0003 a) ∧
       (a.toNat % 2 ^ len = 0 → a.extractLsb' 56 8 = 0 →
         (ctl.getLsbD 1 = true → Writes (.watch o) s o.d 0) ∧
         (ctl.getLsbD 1 = false → o.d ≠ 0 → ∃ t : State, exec (.watch o) s = .next t ∧ t.greg o.d = 1 ∧ t.dbg tile (0x40 + 16 * c) = a ∧
           (t.dbg tile (0x48 + 16 * c)).extractLsb' 0 2 = o.f.extractLsb' 0 2 ∧ (t.dbg tile (0x48 + 16 * c)).getLsbD 2 = b.getLsbD 6 ∧
           ((t.dbg tile (0x48 + 16 * c)).extractLsb' 3 6).toNat = len ∧
           ((t.dbg tile (0x48 + 16 * c)).extractLsb' 9 12).toNat = s.taskAsid (s.myTask.getD 0) % 4096 ∧
           t.me.pc = s.cur.pc + 8 ∧ t.mem = s.mem)))) ∧
     Traces (.trace o) s 2 a (b.toNat % 2 ^ 32) ∧ Traces (.mark x) s 3 0 (x.imm.toNat % 2 ^ 32) ∧
     (isMemTile tile = true → Traps (.histrd o) s 0x0001 s.cur.word ∧ Traps (.histclr o) s 0x0001 s.cur.word) ∧
     (isMemTile tile = false →
       let cfg := s.myHist.1
       let prof := s.myHist.2
       (a.extractLsb' 17 47 ≠ 0 → Traps (.histrd o) s 0x0003 a ∧ (o.f.getLsbD 0 = false → Traps (.histclr o) s 0x0003 a)) ∧
       (cfg.getLsbD 24 = false → (a.extractLsb' 17 47 = 0 → Ready s → Answers (.histrd o) s o.d (BitVec.allOnes 64) s) ∧
         ((o.f.getLsbD 0 = true ∨ a.extractLsb' 17 47 = 0) → exec (.histclr o) s = .next s.advance)) ∧
       (a.extractLsb' 17 47 = 0 → cfg.getLsbD 24 = true →
         let n := 16 * (a.extractLsb' 4 10).toNat + (a.extractLsb' 0 4).toNat
         let j := (a.extractLsb' 14 3).toNat
         let at_ := (cfg.extractLsb' 0 24).toNat + 16 * n + 2 * j
         (4 ≤ s.me.ldout → exec (.histrd o) s = .next s.hold) ∧
         (Ready s → s.bankFree tile (s.peekPa s.myDie (s.taskAsid (s.myTask.getD 0)) (prof + BitVec.ofNat 64 (64 * n + 8 * j)) false) = true →
           ∃ (t : State) (r : Req), exec (.histrd o) s = .next t ∧ t.reqs = s.reqs ++ [r] ∧ r.who = .thread s.cur.th (s.me.preg o.d) true ∧
             r.stage = .walk ∧ r.op = .histrd (if at_ < 0x200000 then s.poolLoad tile at_ 2 else 0) ∧
             r.va = prof + BitVec.ofNat 64 (64 * n + 8 * j) ∧ t.me.ldout = s.me.ldout + 1 ∧ t.me.pc = s.cur.pc + 8 ∧ t.mem = s.mem) ∧
         (o.f.getLsbD 0 = false → (cfg.extractLsb' 0 24).toNat + 16 * n < 0x200000 → s.Inv →
           ∃ (t : State) (rs : List Req), exec (.histclr o) s = .next t ∧
             t.mem = (s.poolWriteNat tile ((cfg.extractLsb' 0 24).toNat + 16 * n) 16 0).mem ∧ t.reqs = s.reqs ++ rs ∧
             rs.map (fun r => (r.op, r.va)) = (List.range 8).map (fun i => (ReqOp.store 8 0, prof + BitVec.ofNat 64 (64 * n + 8 * i))) ∧
             t.me.pc = s.cur.pc + 8 ∧ t.me.g = s.me.g)) ∧
       (o.f.getLsbD 0 = true → cfg.getLsbD 24 = true →
         let base := (cfg.extractLsb' 0 24).toNat
         let ns := List.range (16 * typeNodes (s.taskType (s.myTask.getD 0)))
         ∃ (t : State) (rs : List Req), exec (.histclr o) s = .next t ∧ t.reqs = s.reqs ++ rs ∧
           t.mem = (ns.foldl (fun u n => if base + 16 * n < 0x200000 then u.poolWriteNat tile (base + 16 * n) 16 0 else u) s).mem ∧
           rs.map (fun r => (r.op, r.va)) = ns.flatMap (fun n => (List.range 8).map fun i => (ReqOp.store 8 0, prof + BitVec.ofNat 64 (64 * n + 8 * i))) ∧
           t.me.pc = s.cur.pc + 8 ∧ t.me.g = s.me.g))) ∧
  (∀ (s : State) tile c thr unit code cmp at_, (s.dbg tile 0).getLsbD 0 = false → (s.dbg tile 0).getLsbD 2 = true →
     ∃ (u : State) (p : Packet) (bs : List Byte), s.cause tile c thr unit code cmp at_ = (false, u) ∧ u.net = s.net ++ [p] ∧
       p.body = .trace ⟨tile, bs⟩ ∧ bs.length = 32 ∧ bs.take 8 = natToBytes 8 at_.tag.toNat ∧ (bs.drop 8).take 2 = natToBytes 2 at_.node ∧
       bs[12]? = some (BitVec.ofNat 8 at_.unit) ∧ (bs.drop 14).take 2 = natToBytes 2 4 ∧ (bs.drop 24).take 4 = natToBytes 4 (c + cmp * 16) ∧
       u.dies = s.dies ∧ u.threads = s.threads ∧ u.pes = s.pes ∧ u.mem = s.mem) ∧
  (∀ s : State, let f := s.cur.fir
     let s0 := s.beginFire.traceFire f f.tag f.l
     let tile := tileOfPe f.pe
     let out (u : State) : State := if f.eos then u.passE f else u.emit f f.tag f.l
     ((s0.dbg tile 0).getLsbD 2 = false → exec .traceNode s = .next (out s0) ∧ exec .markNode s = .next (out s0)) ∧
     ((s0.dbg tile 0).getLsbD 2 = true → ∀ i kind v, (i, kind, v) ∈ [(Instr.traceNode, 2, (firstWord f.l).toNat % 2 ^ 32), (.markNode, 3, f.node.r.lit32.toNat)] →
       ∃ (u : State) (p : Packet) (bs : List Byte), exec i s = .next (out u) ∧ u.net = s0.net ++ [p] ∧ p.body = .trace ⟨tile, bs⟩ ∧ bs.length = 32 ∧
         bs.take 8 = natToBytes 8 f.tag.toNat ∧ (bs.drop 14).take 2 = natToBytes 2 kind ∧ (bs.drop 24).take 4 = natToBytes 4 v ∧
         u.pes = s0.pes ∧ u.mem = s0.mem ∧ u.threads = s0.threads))

/-- The ostler's freeze and resume, its side band, the trace ring (R460-R463, R468, R469, R471). The model's choices: DBGSTAT is zero after a
resume, ERR stays until SBSTAT is written, TRBASE's low bits are zero, a window number names its register, "not supported" is a report
(log 95); the watchdogs of a die shift by its frozen time at the last resume (log 96). -/
def Obligations.DebugCommands : Prop :=
  (∀ (s : State) tile,
    (s.tileFrozen tile = true → exec (.dbgFreezeCommand tile) s = .next s) ∧
    (s.tileFrozen tile = false → (s.dbg tile 0).getLsbD 0 = true → ∃ t : State, exec (.dbgFreezeCommand tile) s = .next t ∧
      FrozenBy t tile 4 0 0 0 ∧ t.threads = s.threads ∧ t.mem = s.mem) ∧
    (s.tileFrozen tile = false → (s.dbg tile 0).getLsbD 0 = false → (s.dbg tile 0).getLsbD 2 = false →
      exec (.dbgFreezeCommand tile) s = .next s) ∧
    (s.tileFrozen tile = false → exec (.dbgResumeCommand tile) s = .next s) ∧
    (s.tileFrozen tile = true → (∀ u ∈ clusterTiles tile, (s.tile u).ports = [] ∧ (s.tile u).fences = [] ∧ (s.tile u).waves = [] ∧
        ∀ i, i < 8 → (s.thread (8 * u + i)).fence = [] ∧ (s.thread (8 * u + i)).acquire = none ∧ (s.thread (8 * u + i)).flush = []) →
      ∃ t : State, exec (.dbgResumeCommand tile) s = .next t ∧ t.tileFrozen tile = false ∧ (∀ u ∈ clusterTiles tile, t.dbg u 8 = 0) ∧
        t.threads = s.threads ∧ t.mem = s.mem ∧
        (∀ r ∈ t.reqs, ∃ q ∈ s.reqs, r = { q with cycle := r.cycle } ∧ q.cycle ≤ r.cycle))) ∧
  (∀ (s : State) die v addr wr, (s.die die).tripped = false →
    let a : Word := match addr with
      | some a => a &&& BitVec.ofNat 64 (2 ^ 48 - 1)
      | none => (s.die die).sbaddr
    let tile := die * 256 + (a.extractLsb' 40 8).toNat
    let off := (a.extractLsb' 0 36).toNat
    let space := (a.extractLsb' 36 4).toNat
    let th := 8 * tile + off / 2 ^ 11 % 8
    let err (n : Nat) : Prop := ∃ t : State, exec (.sbdataAccess die ⟨0xC001, addr⟩ wr v) s = .next t ∧ ((t.die die).sbstat.extractLsb' 1 3).toNat = n ∧
      (wr = false → (t.die die).sbdata = 0) ∧ t.threads = s.threads ∧ t.mem = s.mem ∧ t.nodes = s.nodes
    let gives (x : Word) : Prop := ∃ t : State, exec (.sbdataAccess die ⟨0xC001, addr⟩ wr v) s = .next t ∧ (t.die die).sbdata = x ∧
      (t.die die).sbaddr = sbNext a ∧ (t.die die).sbstat = (s.die die).sbstat ∧ t.threads = s.threads ∧ t.mem = s.mem
    (off % 8 ≠ 0 → err 1) ∧ (off % 8 = 0 → 8 ≤ space → err 1) ∧
    (off % 8 = 0 → space = 0 → off < 2 ^ 14 → off / 8 % 256 < 40 →
      (s.tileFrozen tile = false → err 2) ∧
      (s.tileFrozen tile = true → wr = false → gives ((s.thread th).readWindow (off / 8 % 256))) ∧
      (s.tileFrozen tile = true → wr = true → off / 8 % 256 ≠ 0 → ∃ t : State, exec (.sbdataAccess die ⟨0xC001, addr⟩ wr v) s = .next t ∧
        (t.thread th).readWindow (off / 8 % 256) = v ∧ (∀ x, x ≠ th → t.thread x = s.thread x) ∧ t.mem = s.mem)) ∧
    (off % 8 = 0 → space = 1 → off < 2 ^ 22 → inMap (off / 8 % 2 ^ 16) = true → isWindow (off / 8 % 2 ^ 16) = false → wr = false →
      (isMemTile tile && computeReg (off / 8 % 2 ^ 16)) = false → gives (s.readReg (8 * tile + off / 2 ^ 19 % 8) (off / 8 % 2 ^ 16))) ∧
    (off % 8 = 0 → (space = 3 ∨ space = 5) → off < 2 ^ 9 → isMemTile tile = false → wr = true → err 3) ∧
    (off % 8 = 0 → space = 4 → off < 0x200000 →
      (wr = false → gives (BitVec.ofNat 64 (s.poolLoad tile off 8))) ∧
      (wr = true → ∃ t : State, exec (.sbdataAccess die ⟨0xC001, addr⟩ wr v) s = .next t ∧
        t.mem = (s.writeNat (poolKey s tile off) 8 v.toNat).mem ∧ t.threads = s.threads)) ∧
    (off % 8 = 0 → space = 1 → off < 2 ^ 22 → inMap (off / 8 % 2 ^ 16) = true → isWindow (off / 8 % 2 ^ 16) = true →
      let n := off / 8 % 2 ^ 16
      let x := windowThread tile n
      (wr = false → gives ((s.thread x).readWindow (windowReg n))) ∧
      (wr = true → s.tileFrozen tile = false → err 2) ∧
      (wr = true → s.tileFrozen tile = true → ∃ t : State, exec (.sbdataAccess die ⟨0xC001, addr⟩ wr v) s = .next t ∧
        (∀ y, y ≠ x → t.thread y = s.thread y) ∧ t.mem = s.mem)) ∧
    (off % 8 = 0 → space = 6 → wr = false → gives (s.dbg tile off)) ∧
    (space = 6 → off = 0 → wr = true → ∃ t : State, exec (.sbdataAccess die ⟨0xC001, addr⟩ wr v) s = .next t ∧ t.dbg tile 0 = v &&& 7 ∧ t.mem = s.mem)) ∧
  (∀ (s : State) die v wr, (s.die die).tripped = false →
    (∃ t : State, exec (.sbdataAccess die ⟨0xC000, none⟩ wr v) s = .next t ∧ t.threads = s.threads ∧ t.mem = s.mem ∧
      (wr = true → (t.die die).sbaddr = v &&& BitVec.ofNat 64 (2 ^ 48 - 1)) ∧ (wr = false → (t.die die).sbdata = (s.die die).sbaddr)) ∧
    (∃ t : State, exec (.sbdataAccess die ⟨0xC002, none⟩ wr v) s = .next t ∧ t.threads = s.threads ∧ t.mem = s.mem ∧
      (wr = true → (t.die die).sbstat.extractLsb' 1 3 = 0) ∧ (wr = false → (t.die die).sbdata = (s.die die).sbstat)) ∧
    (∀ reg, 0xC003 ≤ reg → reg ≤ 0xFFFF → ∃ t : State, exec (.sbdataAccess die ⟨reg, none⟩ wr v) s = .next t ∧ t.dies = s.dies ∧
      t.threads = s.threads ∧ t.mem = s.mem ∧
      (t.module (moduleOfDie die)).reports = (s.module (moduleOfDie die)).reports ++ [[5, die, reg]])) ∧
  (∀ (s : State) die v, ∃ t : State, exec (.sbstatWrite die v) s = .next t ∧ (t.die die).sbstat.extractLsb' 1 3 = 0 ∧ t.threads = s.threads ∧
    t.mem = s.mem) ∧
  (∀ (s : State) die v,
    (∃ t : State, exec (.traceRingConfigWrite die 0 v) s = .next t ∧ (t.die die).trbase.toNat = v.toNat % 2 ^ 54 / 4096 * 4096 ∧
      (t.die die).trtail = 0 ∧ (t.die die).trhead = 0) ∧
    (8 ≤ v.toNat % 32 → v.toNat % 32 ≤ 24 → ∃ t : State, exec (.traceRingConfigWrite die 8 v) s = .next t ∧
      (t.die die).trsize.toNat = v.toNat % 32 ∧ (t.die die).trtail = 0 ∧ (t.die die).trhead = 0) ∧
    ((v.toNat % 32 < 8 ∨ 24 < v.toNat % 32) → ∃ t : State, exec (.traceRingConfigWrite die 8 v) s = .next t ∧ t.die die = s.die die) ∧
    (∃ t : State, exec (.traceRingConfigWrite die 0x10 v) s = .next t ∧ t.die die = s.die die) ∧
    (∃ t : State, exec (.traceRingConfigWrite die 0x18 v) s = .next t ∧ (t.die die).trhead = v ∧ (t.die die).trtail = (s.die die).trtail) ∧
    (∃ t : State, exec (.traceRingConfigWrite die 0x20 v) s = .next t ∧ (t.die die).trlost = v &&& 0xFFFFFFFF ∧ t.mem = s.mem)) ∧
  (∀ (s : State) k p r, s.packet? k = some p → p.body = .trace r → p.at_ = p.dst → s.placeStopped p.dst = false → s.traceBehind k r.tile = false →
    let d := s.die p.dst
    let n := 2 ^ d.trsize.toNat
    let full := d.trbase = 0 ∨ d.trsize = 0 ∨ n ≤ (d.trtail - d.trhead).toNat
    (full → ∃ t : State, exec (.traceRecordPlace k) s = .next t ∧ t.packet? k = none ∧ t.mem = s.mem ∧ (t.tile r.tile).loss = true ∧
      (t.die p.dst).trlost = if d.trlost = 0xFFFFFFFF then d.trlost else d.trlost + 1) ∧
    (¬ full → ∃ t : State, exec (.traceRecordPlace k) s = .next t ∧ t.packet? k = none ∧ (t.die p.dst).trtail = d.trtail + 1 ∧
      t.mem = (s.writeBytes (d.trbase.toNat + 32 * (d.trtail.toNat % n)) r.bytes).mem ∧ t.threads = s.threads))

/-! ## An invariant of every step -/

/-- Every step keeps memory in its canonical form, from whatever state: addresses rise strictly and no cell holds what an unlisted
address reads as. -/
def Obligations.StepKeepsMemoryCanonical : Prop := ∀ s t : State, s.Inv → step s = .next t → t.Inv
end

