-- ==== Sys2Proof/Laws/State.lean ====
section
/-! SUPPORT. The fields of the state after each named update: one lemma per field per update. -/

namespace Sys2Proof.Machine

@[simp] theorem State.setThread_tick (s : State) (i : Nat) (x : Thread) : (s.setThread i x).tick = s.tick := rfl
@[simp] theorem State.setThread_agenda (s : State) (i : Nat) (x : Thread) : (s.setThread i x).agenda = s.agenda := rfl
@[simp] theorem State.setThread_cur (s : State) (i : Nat) (x : Thread) : (s.setThread i x).cur = s.cur := rfl
@[simp] theorem State.setThread_nextId (s : State) (i : Nat) (x : Thread) : (s.setThread i x).nextId = s.nextId := rfl
@[simp] theorem State.setThread_mem (s : State) (i : Nat) (x : Thread) : (s.setThread i x).mem = s.mem := rfl
@[simp] theorem State.setThread_sstate (s : State) (i : Nat) (x : Thread) : (s.setThread i x).sstate = s.sstate := rfl
@[simp] theorem State.setThread_ecc (s : State) (i : Nat) (x : Thread) : (s.setThread i x).ecc = s.ecc := rfl
@[simp] theorem State.setThread_stuck (s : State) (i : Nat) (x : Thread) : (s.setThread i x).stuck = s.stuck := rfl
@[simp] theorem State.setThread_threads (s : State) (i : Nat) (x : Thread) : (s.setThread i x).threads = mapPut i x s.threads := rfl
@[simp] theorem State.setThread_pes (s : State) (i : Nat) (x : Thread) : (s.setThread i x).pes = s.pes := rfl
@[simp] theorem State.setThread_nodes (s : State) (i : Nat) (x : Thread) : (s.setThread i x).nodes = s.nodes := rfl
@[simp] theorem State.setThread_tiles (s : State) (i : Nat) (x : Thread) : (s.setThread i x).tiles = s.tiles := rfl
@[simp] theorem State.setThread_dies (s : State) (i : Nat) (x : Thread) : (s.setThread i x).dies = s.dies := rfl
@[simp] theorem State.setThread_modules (s : State) (i : Nat) (x : Thread) : (s.setThread i x).modules = s.modules := rfl
@[simp] theorem State.setThread_ios (s : State) (i : Nat) (x : Thread) : (s.setThread i x).ios = s.ios := rfl
@[simp] theorem State.setThread_bobbins (s : State) (i : Nat) (x : Thread) : (s.setThread i x).bobbins = s.bobbins := rfl
@[simp] theorem State.setThread_contribs (s : State) (i : Nat) (x : Thread) : (s.setThread i x).contribs = s.contribs := rfl
@[simp] theorem State.setThread_circuits (s : State) (i : Nat) (x : Thread) : (s.setThread i x).circuits = s.circuits := rfl
@[simp] theorem State.setThread_images (s : State) (i : Nat) (x : Thread) : (s.setThread i x).images = s.images := rfl
@[simp] theorem State.setThread_withdrawn (s : State) (i : Nat) (x : Thread) : (s.setThread i x).withdrawn = s.withdrawn := rfl
@[simp] theorem State.setThread_retired (s : State) (i : Nat) (x : Thread) : (s.setThread i x).retired = s.retired := rfl
@[simp] theorem State.setThread_reqs (s : State) (i : Nat) (x : Thread) : (s.setThread i x).reqs = s.reqs := rfl
@[simp] theorem State.setThread_net (s : State) (i : Nat) (x : Thread) : (s.setThread i x).net = s.net := rfl

@[simp] theorem State.setPe_tick (s : State) (i : Nat) (x : Pe) : (s.setPe i x).tick = s.tick := rfl
@[simp] theorem State.setPe_agenda (s : State) (i : Nat) (x : Pe) : (s.setPe i x).agenda = s.agenda := rfl
@[simp] theorem State.setPe_cur (s : State) (i : Nat) (x : Pe) : (s.setPe i x).cur = s.cur := rfl
@[simp] theorem State.setPe_nextId (s : State) (i : Nat) (x : Pe) : (s.setPe i x).nextId = s.nextId := rfl
@[simp] theorem State.setPe_mem (s : State) (i : Nat) (x : Pe) : (s.setPe i x).mem = s.mem := rfl
@[simp] theorem State.setPe_sstate (s : State) (i : Nat) (x : Pe) : (s.setPe i x).sstate = s.sstate := rfl
@[simp] theorem State.setPe_ecc (s : State) (i : Nat) (x : Pe) : (s.setPe i x).ecc = s.ecc := rfl
@[simp] theorem State.setPe_stuck (s : State) (i : Nat) (x : Pe) : (s.setPe i x).stuck = s.stuck := rfl
@[simp] theorem State.setPe_threads (s : State) (i : Nat) (x : Pe) : (s.setPe i x).threads = s.threads := rfl
@[simp] theorem State.setPe_pes (s : State) (i : Nat) (x : Pe) : (s.setPe i x).pes = mapPut i x s.pes := rfl
@[simp] theorem State.setPe_nodes (s : State) (i : Nat) (x : Pe) : (s.setPe i x).nodes = s.nodes := rfl
@[simp] theorem State.setPe_tiles (s : State) (i : Nat) (x : Pe) : (s.setPe i x).tiles = s.tiles := rfl
@[simp] theorem State.setPe_dies (s : State) (i : Nat) (x : Pe) : (s.setPe i x).dies = s.dies := rfl
@[simp] theorem State.setPe_modules (s : State) (i : Nat) (x : Pe) : (s.setPe i x).modules = s.modules := rfl
@[simp] theorem State.setPe_ios (s : State) (i : Nat) (x : Pe) : (s.setPe i x).ios = s.ios := rfl
@[simp] theorem State.setPe_bobbins (s : State) (i : Nat) (x : Pe) : (s.setPe i x).bobbins = s.bobbins := rfl
@[simp] theorem State.setPe_contribs (s : State) (i : Nat) (x : Pe) : (s.setPe i x).contribs = s.contribs := rfl
@[simp] theorem State.setPe_circuits (s : State) (i : Nat) (x : Pe) : (s.setPe i x).circuits = s.circuits := rfl
@[simp] theorem State.setPe_images (s : State) (i : Nat) (x : Pe) : (s.setPe i x).images = s.images := rfl
@[simp] theorem State.setPe_withdrawn (s : State) (i : Nat) (x : Pe) : (s.setPe i x).withdrawn = s.withdrawn := rfl
@[simp] theorem State.setPe_retired (s : State) (i : Nat) (x : Pe) : (s.setPe i x).retired = s.retired := rfl
@[simp] theorem State.setPe_reqs (s : State) (i : Nat) (x : Pe) : (s.setPe i x).reqs = s.reqs := rfl
@[simp] theorem State.setPe_net (s : State) (i : Nat) (x : Pe) : (s.setPe i x).net = s.net := rfl

@[simp] theorem State.setTile_tick (s : State) (i : Nat) (x : Tile) : (s.setTile i x).tick = s.tick := rfl
@[simp] theorem State.setTile_agenda (s : State) (i : Nat) (x : Tile) : (s.setTile i x).agenda = s.agenda := rfl
@[simp] theorem State.setTile_cur (s : State) (i : Nat) (x : Tile) : (s.setTile i x).cur = s.cur := rfl
@[simp] theorem State.setTile_nextId (s : State) (i : Nat) (x : Tile) : (s.setTile i x).nextId = s.nextId := rfl
@[simp] theorem State.setTile_mem (s : State) (i : Nat) (x : Tile) : (s.setTile i x).mem = s.mem := rfl
@[simp] theorem State.setTile_sstate (s : State) (i : Nat) (x : Tile) : (s.setTile i x).sstate = s.sstate := rfl
@[simp] theorem State.setTile_ecc (s : State) (i : Nat) (x : Tile) : (s.setTile i x).ecc = s.ecc := rfl
@[simp] theorem State.setTile_stuck (s : State) (i : Nat) (x : Tile) : (s.setTile i x).stuck = s.stuck := rfl
@[simp] theorem State.setTile_threads (s : State) (i : Nat) (x : Tile) : (s.setTile i x).threads = s.threads := rfl
@[simp] theorem State.setTile_pes (s : State) (i : Nat) (x : Tile) : (s.setTile i x).pes = s.pes := rfl
@[simp] theorem State.setTile_nodes (s : State) (i : Nat) (x : Tile) : (s.setTile i x).nodes = s.nodes := rfl
@[simp] theorem State.setTile_tiles (s : State) (i : Nat) (x : Tile) : (s.setTile i x).tiles = mapPut i x s.tiles := rfl
@[simp] theorem State.setTile_dies (s : State) (i : Nat) (x : Tile) : (s.setTile i x).dies = s.dies := rfl
@[simp] theorem State.setTile_modules (s : State) (i : Nat) (x : Tile) : (s.setTile i x).modules = s.modules := rfl
@[simp] theorem State.setTile_ios (s : State) (i : Nat) (x : Tile) : (s.setTile i x).ios = s.ios := rfl
@[simp] theorem State.setTile_bobbins (s : State) (i : Nat) (x : Tile) : (s.setTile i x).bobbins = s.bobbins := rfl
@[simp] theorem State.setTile_contribs (s : State) (i : Nat) (x : Tile) : (s.setTile i x).contribs = s.contribs := rfl
@[simp] theorem State.setTile_circuits (s : State) (i : Nat) (x : Tile) : (s.setTile i x).circuits = s.circuits := rfl
@[simp] theorem State.setTile_images (s : State) (i : Nat) (x : Tile) : (s.setTile i x).images = s.images := rfl
@[simp] theorem State.setTile_withdrawn (s : State) (i : Nat) (x : Tile) : (s.setTile i x).withdrawn = s.withdrawn := rfl
@[simp] theorem State.setTile_retired (s : State) (i : Nat) (x : Tile) : (s.setTile i x).retired = s.retired := rfl
@[simp] theorem State.setTile_reqs (s : State) (i : Nat) (x : Tile) : (s.setTile i x).reqs = s.reqs := rfl
@[simp] theorem State.setTile_net (s : State) (i : Nat) (x : Tile) : (s.setTile i x).net = s.net := rfl

@[simp] theorem State.setDie_tick (s : State) (i : Nat) (x : Die) : (s.setDie i x).tick = s.tick := rfl
@[simp] theorem State.setDie_agenda (s : State) (i : Nat) (x : Die) : (s.setDie i x).agenda = s.agenda := rfl
@[simp] theorem State.setDie_cur (s : State) (i : Nat) (x : Die) : (s.setDie i x).cur = s.cur := rfl
@[simp] theorem State.setDie_nextId (s : State) (i : Nat) (x : Die) : (s.setDie i x).nextId = s.nextId := rfl
@[simp] theorem State.setDie_mem (s : State) (i : Nat) (x : Die) : (s.setDie i x).mem = s.mem := rfl
@[simp] theorem State.setDie_sstate (s : State) (i : Nat) (x : Die) : (s.setDie i x).sstate = s.sstate := rfl
@[simp] theorem State.setDie_ecc (s : State) (i : Nat) (x : Die) : (s.setDie i x).ecc = s.ecc := rfl
@[simp] theorem State.setDie_stuck (s : State) (i : Nat) (x : Die) : (s.setDie i x).stuck = s.stuck := rfl
@[simp] theorem State.setDie_threads (s : State) (i : Nat) (x : Die) : (s.setDie i x).threads = s.threads := rfl
@[simp] theorem State.setDie_pes (s : State) (i : Nat) (x : Die) : (s.setDie i x).pes = s.pes := rfl
@[simp] theorem State.setDie_nodes (s : State) (i : Nat) (x : Die) : (s.setDie i x).nodes = s.nodes := rfl
@[simp] theorem State.setDie_tiles (s : State) (i : Nat) (x : Die) : (s.setDie i x).tiles = s.tiles := rfl
@[simp] theorem State.setDie_dies (s : State) (i : Nat) (x : Die) : (s.setDie i x).dies = mapPut i x s.dies := rfl
@[simp] theorem State.setDie_modules (s : State) (i : Nat) (x : Die) : (s.setDie i x).modules = s.modules := rfl
@[simp] theorem State.setDie_ios (s : State) (i : Nat) (x : Die) : (s.setDie i x).ios = s.ios := rfl
@[simp] theorem State.setDie_bobbins (s : State) (i : Nat) (x : Die) : (s.setDie i x).bobbins = s.bobbins := rfl
@[simp] theorem State.setDie_contribs (s : State) (i : Nat) (x : Die) : (s.setDie i x).contribs = s.contribs := rfl
@[simp] theorem State.setDie_circuits (s : State) (i : Nat) (x : Die) : (s.setDie i x).circuits = s.circuits := rfl
@[simp] theorem State.setDie_images (s : State) (i : Nat) (x : Die) : (s.setDie i x).images = s.images := rfl
@[simp] theorem State.setDie_withdrawn (s : State) (i : Nat) (x : Die) : (s.setDie i x).withdrawn = s.withdrawn := rfl
@[simp] theorem State.setDie_retired (s : State) (i : Nat) (x : Die) : (s.setDie i x).retired = s.retired := rfl
@[simp] theorem State.setDie_reqs (s : State) (i : Nat) (x : Die) : (s.setDie i x).reqs = s.reqs := rfl
@[simp] theorem State.setDie_net (s : State) (i : Nat) (x : Die) : (s.setDie i x).net = s.net := rfl

@[simp] theorem State.writeBytes_tick (s : State) (a : Nat) (bs : List Byte) : (s.writeBytes a bs).tick = s.tick := rfl
@[simp] theorem State.writeBytes_agenda (s : State) (a : Nat) (bs : List Byte) : (s.writeBytes a bs).agenda = s.agenda := rfl
@[simp] theorem State.writeBytes_cur (s : State) (a : Nat) (bs : List Byte) : (s.writeBytes a bs).cur = s.cur := rfl
@[simp] theorem State.writeBytes_nextId (s : State) (a : Nat) (bs : List Byte) : (s.writeBytes a bs).nextId = s.nextId := rfl
@[simp] theorem State.writeBytes_mem (s : State) (a : Nat) (bs : List Byte) : (s.writeBytes a bs).mem = memWriteAll a bs s.mem := rfl
@[simp] theorem State.writeBytes_sstate (s : State) (a : Nat) (bs : List Byte) : (s.writeBytes a bs).sstate = s.sstate := rfl
@[simp] theorem State.writeBytes_ecc (s : State) (a : Nat) (bs : List Byte) :
    (s.writeBytes a bs).ecc = s.ecc.filter fun w => !(decide (a ≤ 8 * w) && decide (8 * w + 8 ≤ a + bs.length)) := rfl
@[simp] theorem State.writeBytes_stuck (s : State) (a : Nat) (bs : List Byte) : (s.writeBytes a bs).stuck = s.stuck := rfl
@[simp] theorem State.writeBytes_threads (s : State) (a : Nat) (bs : List Byte) : (s.writeBytes a bs).threads = s.threads := rfl
@[simp] theorem State.writeBytes_pes (s : State) (a : Nat) (bs : List Byte) : (s.writeBytes a bs).pes = s.pes := rfl
@[simp] theorem State.writeBytes_nodes (s : State) (a : Nat) (bs : List Byte) : (s.writeBytes a bs).nodes = s.nodes := rfl
@[simp] theorem State.writeBytes_tiles (s : State) (a : Nat) (bs : List Byte) : (s.writeBytes a bs).tiles = s.tiles := rfl
@[simp] theorem State.writeBytes_dies (s : State) (a : Nat) (bs : List Byte) : (s.writeBytes a bs).dies = s.dies := rfl
@[simp] theorem State.writeBytes_modules (s : State) (a : Nat) (bs : List Byte) : (s.writeBytes a bs).modules = s.modules := rfl
@[simp] theorem State.writeBytes_ios (s : State) (a : Nat) (bs : List Byte) : (s.writeBytes a bs).ios = s.ios := rfl
@[simp] theorem State.writeBytes_bobbins (s : State) (a : Nat) (bs : List Byte) : (s.writeBytes a bs).bobbins = s.bobbins := rfl
@[simp] theorem State.writeBytes_contribs (s : State) (a : Nat) (bs : List Byte) : (s.writeBytes a bs).contribs = s.contribs := rfl
@[simp] theorem State.writeBytes_circuits (s : State) (a : Nat) (bs : List Byte) : (s.writeBytes a bs).circuits = s.circuits := rfl
@[simp] theorem State.writeBytes_images (s : State) (a : Nat) (bs : List Byte) : (s.writeBytes a bs).images = s.images := rfl
@[simp] theorem State.writeBytes_withdrawn (s : State) (a : Nat) (bs : List Byte) : (s.writeBytes a bs).withdrawn = s.withdrawn := rfl
@[simp] theorem State.writeBytes_retired (s : State) (a : Nat) (bs : List Byte) : (s.writeBytes a bs).retired = s.retired := rfl
@[simp] theorem State.writeBytes_reqs (s : State) (a : Nat) (bs : List Byte) : (s.writeBytes a bs).reqs = s.reqs := rfl
@[simp] theorem State.writeBytes_net (s : State) (a : Nat) (bs : List Byte) : (s.writeBytes a bs).net = s.net := rfl

@[simp] theorem State.clearEcc_tick (s : State) (a n : Nat) : (s.clearEcc a n).tick = s.tick := rfl
@[simp] theorem State.clearEcc_agenda (s : State) (a n : Nat) : (s.clearEcc a n).agenda = s.agenda := rfl
@[simp] theorem State.clearEcc_cur (s : State) (a n : Nat) : (s.clearEcc a n).cur = s.cur := rfl
@[simp] theorem State.clearEcc_nextId (s : State) (a n : Nat) : (s.clearEcc a n).nextId = s.nextId := rfl
@[simp] theorem State.clearEcc_mem (s : State) (a n : Nat) : (s.clearEcc a n).mem = s.mem := rfl
@[simp] theorem State.clearEcc_stuck (s : State) (a n : Nat) : (s.clearEcc a n).stuck = s.stuck := rfl
@[simp] theorem State.clearEcc_sstate (s : State) (a n : Nat) : (s.clearEcc a n).sstate = s.sstate := rfl
@[simp] theorem State.clearEcc_threads (s : State) (a n : Nat) : (s.clearEcc a n).threads = s.threads := rfl
@[simp] theorem State.clearEcc_pes (s : State) (a n : Nat) : (s.clearEcc a n).pes = s.pes := rfl
@[simp] theorem State.clearEcc_nodes (s : State) (a n : Nat) : (s.clearEcc a n).nodes = s.nodes := rfl
@[simp] theorem State.clearEcc_tiles (s : State) (a n : Nat) : (s.clearEcc a n).tiles = s.tiles := rfl
@[simp] theorem State.clearEcc_dies (s : State) (a n : Nat) : (s.clearEcc a n).dies = s.dies := rfl
@[simp] theorem State.clearEcc_modules (s : State) (a n : Nat) : (s.clearEcc a n).modules = s.modules := rfl
@[simp] theorem State.clearEcc_ios (s : State) (a n : Nat) : (s.clearEcc a n).ios = s.ios := rfl
@[simp] theorem State.clearEcc_bobbins (s : State) (a n : Nat) : (s.clearEcc a n).bobbins = s.bobbins := rfl
@[simp] theorem State.clearEcc_contribs (s : State) (a n : Nat) : (s.clearEcc a n).contribs = s.contribs := rfl
@[simp] theorem State.clearEcc_circuits (s : State) (a n : Nat) : (s.clearEcc a n).circuits = s.circuits := rfl
@[simp] theorem State.clearEcc_images (s : State) (a n : Nat) : (s.clearEcc a n).images = s.images := rfl
@[simp] theorem State.clearEcc_withdrawn (s : State) (a n : Nat) : (s.clearEcc a n).withdrawn = s.withdrawn := rfl
@[simp] theorem State.clearEcc_retired (s : State) (a n : Nat) : (s.clearEcc a n).retired = s.retired := rfl
@[simp] theorem State.clearEcc_reqs (s : State) (a n : Nat) : (s.clearEcc a n).reqs = s.reqs := rfl
@[simp] theorem State.clearEcc_net (s : State) (a n : Nat) : (s.clearEcc a n).net = s.net := rfl

@[simp] theorem State.setWordState_tick (s : State) (a st : Nat) : (s.setWordState a st).tick = s.tick := rfl
@[simp] theorem State.setWordState_agenda (s : State) (a st : Nat) : (s.setWordState a st).agenda = s.agenda := rfl
@[simp] theorem State.setWordState_cur (s : State) (a st : Nat) : (s.setWordState a st).cur = s.cur := rfl
@[simp] theorem State.setWordState_nextId (s : State) (a st : Nat) : (s.setWordState a st).nextId = s.nextId := rfl
@[simp] theorem State.setWordState_mem (s : State) (a st : Nat) : (s.setWordState a st).mem = s.mem := rfl
@[simp] theorem State.setWordState_ecc (s : State) (a st : Nat) : (s.setWordState a st).ecc = s.ecc := rfl
@[simp] theorem State.setWordState_stuck (s : State) (a st : Nat) : (s.setWordState a st).stuck = s.stuck := rfl
@[simp] theorem State.setWordState_threads (s : State) (a st : Nat) : (s.setWordState a st).threads = s.threads := rfl
@[simp] theorem State.setWordState_pes (s : State) (a st : Nat) : (s.setWordState a st).pes = s.pes := rfl
@[simp] theorem State.setWordState_nodes (s : State) (a st : Nat) : (s.setWordState a st).nodes = s.nodes := rfl
@[simp] theorem State.setWordState_tiles (s : State) (a st : Nat) : (s.setWordState a st).tiles = s.tiles := rfl
@[simp] theorem State.setWordState_dies (s : State) (a st : Nat) : (s.setWordState a st).dies = s.dies := rfl
@[simp] theorem State.setWordState_modules (s : State) (a st : Nat) : (s.setWordState a st).modules = s.modules := rfl
@[simp] theorem State.setWordState_ios (s : State) (a st : Nat) : (s.setWordState a st).ios = s.ios := rfl
@[simp] theorem State.setWordState_bobbins (s : State) (a st : Nat) : (s.setWordState a st).bobbins = s.bobbins := rfl
@[simp] theorem State.setWordState_contribs (s : State) (a st : Nat) : (s.setWordState a st).contribs = s.contribs := rfl
@[simp] theorem State.setWordState_circuits (s : State) (a st : Nat) : (s.setWordState a st).circuits = s.circuits := rfl
@[simp] theorem State.setWordState_images (s : State) (a st : Nat) : (s.setWordState a st).images = s.images := rfl
@[simp] theorem State.setWordState_withdrawn (s : State) (a st : Nat) : (s.setWordState a st).withdrawn = s.withdrawn := rfl
@[simp] theorem State.setWordState_retired (s : State) (a st : Nat) : (s.setWordState a st).retired = s.retired := rfl
@[simp] theorem State.setWordState_reqs (s : State) (a st : Nat) : (s.setWordState a st).reqs = s.reqs := rfl
@[simp] theorem State.setWordState_net (s : State) (a st : Nat) : (s.setWordState a st).net = s.net := rfl

@[simp] theorem State.hold_tick (s : State) : (s.hold ).tick = s.tick := rfl
@[simp] theorem State.hold_agenda (s : State) : (s.hold ).agenda = s.agenda := rfl
@[simp] theorem State.hold_nextId (s : State) : (s.hold ).nextId = s.nextId := rfl
@[simp] theorem State.hold_mem (s : State) : (s.hold ).mem = s.mem := rfl
@[simp] theorem State.hold_sstate (s : State) : (s.hold ).sstate = s.sstate := rfl
@[simp] theorem State.hold_ecc (s : State) : (s.hold ).ecc = s.ecc := rfl
@[simp] theorem State.hold_stuck (s : State) : (s.hold ).stuck = s.stuck := rfl
@[simp] theorem State.hold_threads (s : State) : (s.hold ).threads = s.threads := rfl
@[simp] theorem State.hold_pes (s : State) : (s.hold ).pes = s.pes := rfl
@[simp] theorem State.hold_nodes (s : State) : (s.hold ).nodes = s.nodes := rfl
@[simp] theorem State.hold_tiles (s : State) : (s.hold ).tiles = s.tiles := rfl
@[simp] theorem State.hold_dies (s : State) : (s.hold ).dies = s.dies := rfl
@[simp] theorem State.hold_modules (s : State) : (s.hold ).modules = s.modules := rfl
@[simp] theorem State.hold_ios (s : State) : (s.hold ).ios = s.ios := rfl
@[simp] theorem State.hold_bobbins (s : State) : (s.hold ).bobbins = s.bobbins := rfl
@[simp] theorem State.hold_contribs (s : State) : (s.hold ).contribs = s.contribs := rfl
@[simp] theorem State.hold_circuits (s : State) : (s.hold ).circuits = s.circuits := rfl
@[simp] theorem State.hold_images (s : State) : (s.hold ).images = s.images := rfl
@[simp] theorem State.hold_withdrawn (s : State) : (s.hold ).withdrawn = s.withdrawn := rfl
@[simp] theorem State.hold_retired (s : State) : (s.hold ).retired = s.retired := rfl
@[simp] theorem State.hold_reqs (s : State) : (s.hold ).reqs = s.reqs := rfl
@[simp] theorem State.hold_net (s : State) : (s.hold ).net = s.net := rfl

@[simp] theorem State.modThread_eq (s : State) (i : Nat) (f : Thread → Thread) : s.modThread i f = s.setThread i (f (s.thread i)) := rfl
@[simp] theorem State.modPe_eq (s : State) (i : Nat) (f : Pe → Pe) : s.modPe i f = s.setPe i (f (s.pe i)) := rfl
@[simp] theorem State.modTile_eq (s : State) (i : Nat) (f : Tile → Tile) : s.modTile i f = s.setTile i (f (s.tile i)) := rfl
@[simp] theorem State.modDie_eq (s : State) (i : Nat) (f : Die → Die) : s.modDie i f = s.setDie i (f (s.die i)) := rfl

end Sys2Proof.Machine
end

