-- ==== Sys2Proof/Laws/Memory.lean ====
section
/-! SUPPORT. What the memory operations can do: a read after a write, other addresses, the canonical form. -/

namespace Sys2Proof.Machine

/-- Every key of a list lies above a bound. -/
def above (a : Nat) (m : List Host.Cell) : Prop := ∀ c ∈ m, a < c.1

theorem memWf_tail {c : Host.Cell} {m : List Host.Cell} (h : memWf (c :: m) = true) : memWf m = true := by
  cases m with
  | nil => rfl
  | cons d m => simp [memWf] at h; exact h.2

theorem memWf_head {c : Host.Cell} {m : List Host.Cell} (h : memWf (c :: m) = true) : c.2 ≠ unlisted := by
  cases m with
  | nil => simpa [memWf] using h
  | cons d m => simp [memWf] at h; exact h.1.1

theorem memWf_above {c : Host.Cell} {m : List Host.Cell} (h : memWf (c :: m) = true) : above c.1 m := by
  induction m generalizing c with
  | nil => intro d hd; cases hd
  | cons d m ih =>
      have hlt : c.1 < d.1 := by simp [memWf] at h; exact h.1.2
      intro e he
      cases he with
      | head => exact hlt
      | tail _ hm => exact Nat.lt_trans hlt (ih (memWf_tail h) e hm)

theorem memWf_cons {c : Host.Cell} {m : List Host.Cell} (hb : c.2 ≠ unlisted) (ha : above c.1 m) (h : memWf m = true) :
    memWf (c :: m) = true := by
  cases m with
  | nil => simpa [memWf] using hb
  | cons d m => simp [memWf]; exact ⟨⟨hb, ha d (List.mem_cons_self ..)⟩, h⟩

theorem memErase_subset (a : Nat) (m : List Host.Cell) : ∀ c ∈ memErase a m, c ∈ m := by
  induction m with
  | nil => intro c hc; exact hc
  | cons d m ih =>
      intro c hc
      simp only [memErase] at hc
      split at hc
      · exact List.mem_cons_of_mem _ hc
      · split at hc
        · exact hc
        · cases hc with
          | head => exact List.mem_cons_self ..
          | tail _ h => exact List.mem_cons_of_mem _ (ih c h)

theorem memErase_wf (a : Nat) (m : List Host.Cell) (h : memWf m = true) : memWf (memErase a m) = true := by
  induction m with
  | nil => rfl
  | cons d m ih =>
      simp only [memErase]
      split
      · exact memWf_tail h
      · split
        · exact h
        · exact memWf_cons (memWf_head h) (fun c hc => memWf_above h c (memErase_subset a m c hc)) (ih (memWf_tail h))

theorem memInsert_mem (a : Nat) (v : Byte) (m : List Host.Cell) : ∀ c ∈ memInsert a v m, c = (a, v) ∨ c ∈ m := by
  induction m with
  | nil => intro c hc; simp [memInsert] at hc; exact .inl hc
  | cons d m ih =>
      intro c hc
      simp only [memInsert] at hc
      split at hc
      · simpa using hc
      · split at hc
        · cases hc with
          | head => exact .inl rfl
          | tail _ h => exact .inr (List.mem_cons_of_mem _ h)
        · cases hc with
          | head => exact .inr (List.mem_cons_self ..)
          | tail _ h =>
              rcases ih c h with h | h
              · exact .inl h
              · exact .inr (List.mem_cons_of_mem _ h)

theorem memInsert_wf (a : Nat) (v : Byte) (hv : v ≠ unlisted) (m : List Host.Cell) (h : memWf m = true) :
    memWf (memInsert a v m) = true := by
  induction m with
  | nil => simpa [memInsert, memWf] using hv
  | cons d m ih =>
      simp only [memInsert]
      split
      case isTrue hlt =>
        refine memWf_cons hv ?_ h
        intro c hc
        cases hc with
        | head => exact hlt
        | tail _ hm => exact Nat.lt_trans hlt (memWf_above h c hm)
      case isFalse hnl =>
        split
        case isTrue heq =>
          subst heq
          exact memWf_cons hv (fun c hc => memWf_above h c hc) (memWf_tail h)
        case isFalse hne =>
          refine memWf_cons (memWf_head h) ?_ (ih (memWf_tail h))
          intro c hc
          rcases memInsert_mem a v m c hc with rfl | hm
          · show d.1 < a; omega
          · exact memWf_above h c hm

/-- A write keeps the canonical form. -/
theorem memWrite_wf (a : Nat) (v : Byte) (m : List Host.Cell) (h : memWf m = true) : memWf (memWrite a v m) = true := by
  unfold memWrite
  split
  · exact memErase_wf a m h
  case isFalse hv => exact memInsert_wf a v hv m h

theorem memWriteAll_wf (a : Nat) (bs : List Byte) (m : List Host.Cell) (h : memWf m = true) :
    memWf (memWriteAll a bs m) = true := by
  induction bs generalizing a m with
  | nil => exact h
  | cons b bs ih => exact ih (a + 1) _ (memWrite_wf a b m h)

theorem poolWriteGo_wf (t a : Nat) (bs : List Byte) (s : State) (h : memWf s.mem = true) :
    memWf (poolWriteGo t a bs s).mem = true := by
  induction bs generalizing a s with
  | nil => exact h
  | cons b bs ih => exact ih (a + 1) _ (memWrite_wf _ b s.mem h)

/-- Dropping cells keeps the canonical form. -/
theorem memFilter_wf (p : Host.Cell → Bool) (m : List Host.Cell) (h : memWf m = true) : memWf (m.filter p) = true := by
  induction m with
  | nil => rfl
  | cons d m ih =>
      simp only [List.filter]
      split
      · exact memWf_cons (memWf_head h) (fun c hc => memWf_above h c (List.mem_filter.mp hc).1) (ih (memWf_tail h))
      · exact ih (memWf_tail h)

theorem State.writeBytes_wf (s : State) (a : Nat) (bs : List Byte) (h : memWf s.mem = true) :
    memWf (s.writeBytes a bs).mem = true := memWriteAll_wf a bs s.mem h

theorem State.writeNat_wf (s : State) (a n v : Nat) (h : memWf s.mem = true) : memWf (s.writeNat a n v).mem = true :=
  s.writeBytes_wf a _ h

theorem State.poolWrite_wf (s : State) (t a : Nat) (bs : List Byte) (h : memWf s.mem = true) :
    memWf (s.poolWrite t a bs).mem = true := poolWriteGo_wf t a bs s h

theorem memRead_above (a : Nat) (m : List Host.Cell) (h : above a m) : memRead m a = unlisted := by
  induction m with
  | nil => rfl
  | cons d m ih =>
      have hd : a < d.1 := h d (List.mem_cons_self ..)
      simp only [memRead]
      rw [if_neg (by omega)]
      exact ih fun c hc => h c (List.mem_cons_of_mem _ hc)

theorem memRead_erase (a b : Nat) (m : List Host.Cell) (h : memWf m = true) :
    memRead (memErase a m) b = if b = a then unlisted else memRead m b := by
  induction m with
  | nil => simp [memErase, memRead]
  | cons d m ih =>
      have ha := memWf_above h
      simp only [memErase]
      split
      case isTrue heq =>
        subst heq
        split
        case isTrue hb => subst hb; exact memRead_above _ m ha
        case isFalse hb => simp only [memRead]; rw [if_neg (by omega)]
      case isFalse hne =>
        split
        case isTrue hlt =>
          split
          case isTrue hb =>
            subst hb
            apply memRead_above
            intro c hc
            cases hc with
            | head => exact hlt
            | tail _ hm => exact Nat.lt_trans hlt (ha c hm)
          case isFalse hb => rfl
        case isFalse hnl =>
          simp only [memRead, ih (memWf_tail h)]
          split
          case isTrue hk => rw [if_neg (by omega)]
          case isFalse hk => rfl

theorem memRead_insert (a b : Nat) (v : Byte) (m : List Host.Cell) :
    memRead (memInsert a v m) b = if b = a then v else memRead m b := by
  induction m with
  | nil => simp [memInsert, memRead, eq_comm]
  | cons d m ih =>
      simp only [memInsert]
      split
      · simp only [memRead, eq_comm (a := a)]
      · split
        case isTrue heq =>
          subst heq
          simp only [memRead, eq_comm (a := d.1)]
          split <;> rfl
        case isFalse hne =>
          simp only [memRead, ih]
          split
          case isTrue hk => rw [if_neg (by omega)]
          case isFalse hk => rfl

/-- A read after a write: the written byte at its address, every other byte as before. -/
theorem memRead_write (a b : Nat) (v : Byte) (m : List Host.Cell) (h : memWf m = true) :
    memRead (memWrite a v m) b = if b = a then v else memRead m b := by
  unfold memWrite
  split
  case isTrue hv => rw [memRead_erase a b m h, hv]
  case isFalse hv => exact memRead_insert a b v m

theorem reset_wf : memWf State.reset.mem = true := rfl

end Sys2Proof.Machine
end

