-- ==== Sys2Proof/Laws/Maps.lean ====
section
/-! SUPPORT. The sparse maps: what a key reads after a put; the units of the state after an update of one of them. -/

namespace Sys2Proof.Machine

@[simp] theorem mapGet_put {α : Type} (d : α) (n : Nat) (v : α) (m : SMap α) : mapGet d (mapPut n v m) n = v := by
  induction m with
  | nil => simp [mapPut, mapGet]
  | cons x m ih =>
      obtain ⟨k, w⟩ := x
      simp only [mapPut]
      split
      · simp [mapGet]
      split
      · simp [mapGet]
      · simp only [mapGet]; rw [if_neg (by omega)]; exact ih

theorem mapGet_put_ne {α : Type} (d : α) (n k : Nat) (h : k ≠ n) (v : α) (m : SMap α) :
    mapGet d (mapPut n v m) k = mapGet d m k := by
  induction m with
  | nil => simp [mapPut, mapGet, Ne.symm h]
  | cons x m ih =>
      obtain ⟨j, w⟩ := x
      simp only [mapPut]
      split
      · simp only [mapGet, if_neg (Ne.symm h)]
      split
      · rename_i h1 h2; subst h2; simp only [mapGet, if_neg (Ne.symm h)]
      · simp only [mapGet, ih]

@[simp] theorem mapFind_put {α : Type} (n : Nat) (v : α) (m : SMap α) : mapFind? (mapPut n v m) n = some v := by
  induction m with
  | nil => simp [mapPut, mapFind?]
  | cons x m ih =>
      obtain ⟨k, w⟩ := x
      simp only [mapPut]
      split
      · simp [mapFind?]
      split
      · simp [mapFind?]
      · simp only [mapFind?]; rw [if_neg (by omega)]; exact ih

theorem mapFind_put_ne {α : Type} (n k : Nat) (h : k ≠ n) (v : α) (m : SMap α) :
    mapFind? (mapPut n v m) k = mapFind? m k := by
  induction m with
  | nil => simp [mapPut, mapFind?, Ne.symm h]
  | cons x m ih =>
      obtain ⟨j, w⟩ := x
      simp only [mapPut]
      split
      · simp only [mapFind?, if_neg (Ne.symm h)]
      split
      · rename_i h1 h2; subst h2; simp only [mapFind?, if_neg (Ne.symm h)]
      · simp only [mapFind?, ih]

@[simp] theorem mapPut_put {α : Type} (n : Nat) (v w : α) (m : SMap α) : mapPut n v (mapPut n w m) = mapPut n v m := by
  induction m with
  | nil => simp [mapPut]
  | cons x m ih =>
      obtain ⟨j, u⟩ := x
      simp only [mapPut]
      split
      · simp [mapPut]
      split
      · simp [mapPut]
      · rename_i h1 h2; simp only [mapPut, if_neg h1, if_neg h2, ih]

theorem mapGet_del {α : Type} (d : α) (n : Nat) (m : SMap α) : mapGet d (mapDel n m) n = d := by
  induction m with
  | nil => rfl
  | cons x m ih =>
      obtain ⟨j, u⟩ := x
      simp only [mapDel, List.filter] at ih ⊢
      split
      · rename_i h; simp only [mapGet]; rw [if_neg (by simpa using h)]; exact ih
      · exact ih

theorem mapGet_del_ne {α : Type} (d : α) (n k : Nat) (h : k ≠ n) (m : SMap α) : mapGet d (mapDel n m) k = mapGet d m k := by
  induction m with
  | nil => rfl
  | cons x m ih =>
      obtain ⟨j, u⟩ := x
      simp only [mapDel, List.filter] at ih ⊢
      split
      · simp only [mapGet, ih]
      · rename_i hj
        have hj : j = n := by simpa using hj
        simp only [mapGet]
        rw [if_neg (by omega)]
        exact ih

@[simp] theorem mapGet_wordPut (n : Nat) (v : Word) (m : SMap Word) : mapGet 0 (wordPut n v m) n = v := by
  unfold wordPut
  split
  case isTrue h => rw [mapGet_del]; exact h.symm
  case isFalse => simp

theorem mapGet_wordPut_ne (n k : Nat) (h : k ≠ n) (v : Word) (m : SMap Word) : mapGet 0 (wordPut n v m) k = mapGet 0 m k := by
  unfold wordPut
  split
  · exact mapGet_del_ne 0 n k h m
  · exact mapGet_put_ne 0 n k h v m

/-! ## The units of the state -/

@[simp] theorem State.thread_set (s : State) (i : Nat) (x : Thread) : (s.setThread i x).thread i = x := mapGet_put ..
@[simp] theorem State.pe_set (s : State) (i : Nat) (x : Pe) : (s.setPe i x).pe i = x := mapGet_put ..
@[simp] theorem State.tile_set (s : State) (i : Nat) (x : Tile) : (s.setTile i x).tile i = x := mapGet_put ..
@[simp] theorem State.die_set (s : State) (i : Nat) (x : Die) : (s.setDie i x).die i = x := mapGet_put ..

theorem State.thread_set_ne (s : State) (i j : Nat) (h : j ≠ i) (x : Thread) : (s.setThread i x).thread j = s.thread j :=
  mapGet_put_ne _ _ _ h _ _
theorem State.pe_set_ne (s : State) (i j : Nat) (h : j ≠ i) (x : Pe) : (s.setPe i x).pe j = s.pe j :=
  mapGet_put_ne _ _ _ h _ _
theorem State.tile_set_ne (s : State) (i j : Nat) (h : j ≠ i) (x : Tile) : (s.setTile i x).tile j = s.tile j :=
  mapGet_put_ne _ _ _ h _ _
theorem State.die_set_ne (s : State) (i j : Nat) (h : j ≠ i) (x : Die) : (s.setDie i x).die j = s.die j :=
  mapGet_put_ne _ _ _ h _ _

@[simp] theorem State.me_modMe (s : State) (f : Thread → Thread) : (s.modMe f).me = f s.me := mapGet_put ..

theorem State.thread_modMe_ne (s : State) (f : Thread → Thread) (j : Nat) (h : j ≠ s.cur.th) :
    (s.modMe f).thread j = s.thread j := mapGet_put_ne _ _ _ h _ _

@[simp] theorem State.modMe_modMe (s : State) (f g : Thread → Thread) : (s.modMe f).modMe g = s.modMe fun t => g (f t) := by
  show ({ s with threads := _ } : State) = _
  simp [State.modMe, State.modThread, State.setThread, State.thread]

end Sys2Proof.Machine
end

