-- ==== Sys2Proof/Laws/Ops.lean ====
section
/-! SUPPORT. One lemma per shared operation: everything it can do, for the proofs that cite it. -/

namespace Sys2Proof.Machine

/-! ## Registers of a thread -/

theorem Thread.reg_zero (t : Thread) : t.reg 0 = 0 := rfl

theorem Thread.setReg_zero (t : Thread) (v : Word) : t.setReg 0 v = t := rfl

/-- A field that names a handler register writes it (R122). -/
theorem Thread.setReg_h (t : Thread) (i : RegNo) (v : Word) (h : i ≠ 0) (hh : (t.uih && decide (24 ≤ i.toNat)) = true) :
    t.setReg i v = { t with h := wordPut (i.toNat - 24) v t.h } := by
  unfold Thread.setReg; rw [if_neg h, if_pos hh]

/-- Every other field but 0 writes a general register (R122). -/
theorem Thread.setReg_g (t : Thread) (i : RegNo) (v : Word) (h : i ≠ 0) (hh : ¬ (t.uih && decide (24 ≤ i.toNat)) = true) :
    t.setReg i v = { t with g := wordPut i.toNat v t.g } := by
  unfold Thread.setReg; rw [if_neg h, if_neg hh]

/-- A register written reads back; register 0 reads zero. -/
theorem Thread.reg_setReg (t : Thread) (i : RegNo) (v : Word) : (t.setReg i v).reg i = if i = 0 then 0 else v := by
  by_cases h : i = 0
  · subst h; rfl
  rw [if_neg h]
  by_cases hh : (t.uih && decide (24 ≤ i.toNat)) = true
  · rw [Thread.setReg_h t i v h hh]; unfold Thread.reg; rw [if_neg h, if_pos hh]; exact mapGet_wordPut ..
  · rw [Thread.setReg_g t i v h hh]; unfold Thread.reg; rw [if_neg h, if_neg hh]; exact mapGet_wordPut ..

/-- A write leaves every other register alone. -/
theorem Thread.reg_setReg_ne (t : Thread) (i j : RegNo) (h : j ≠ i) (v : Word) : (t.setReg i v).reg j = t.reg j := by
  have hn : j.toNat ≠ i.toNat := fun e => h (BitVec.eq_of_toNat_eq e)
  by_cases hi : i = 0
  · rw [hi, Thread.setReg_zero]
  by_cases hh : (t.uih && decide (24 ≤ i.toNat)) = true
  · rw [Thread.setReg_h t i v hi hh]
    unfold Thread.reg
    split
    · rfl
    split
    · rename_i h2
      simp only [Bool.and_eq_true, decide_eq_true_eq] at hh h2
      exact mapGet_wordPut_ne _ _ (by omega) _ _
    · rfl
  · rw [Thread.setReg_g t i v hi hh]
    unfold Thread.reg
    split
    · rfl
    split
    · rfl
    · exact mapGet_wordPut_ne _ _ hn _ _

/-- A register write touches the registers alone. -/
theorem Thread.setReg_rest (t : Thread) (i : RegNo) (v : Word) :
    t.setReg i v = { t with g := (t.setReg i v).g, h := (t.setReg i v).h } := by
  unfold Thread.setReg
  split
  · rfl
  · split <;> rfl

/-- A predicate write touches the predicates alone. -/
theorem Thread.setPred_rest (t : Thread) (n : Nat) (b : Bool) : t.setPred n b = { t with p := (t.setPred n b).p } := rfl

/-! ## What a finished bundle leaves -/

theorem State.advance_me (s : State) : s.advance.me = { s.me with pc := s.nextPc } := State.me_modMe ..

theorem State.result_me (s : State) (d : RegNo) (v : Word) : (s.result d v).me = { s.me.setReg d v with pc := s.nextPc } :=
  State.me_modMe ..

theorem State.resultPred_me (s : State) (d : RegNo) (b : Bool) :
    (s.resultPred d b).me = { s.me.setPred d.toNat b with pc := s.nextPc } := State.me_modMe ..

/-- An update of the issuing thread changes the threads alone. -/
theorem State.modMe_rest (s : State) (f : Thread → Thread) : s.modMe f = { s with threads := (s.modMe f).threads } := rfl

theorem State.result_rest (s : State) (d : RegNo) (v : Word) : s.result d v = { s with threads := (s.result d v).threads } := rfl

/-! ## Packets and records -/

/-- A packet is added behind those under way; nothing else moves but the counter of identities. -/
theorem State.send_rest (s : State) (cls src dst : Nat) (body : PBody) :
    s.send cls src dst body = { s with net := (s.send cls src dst body).net, nextId := s.nextId + 1 } := rfl

/-- A record is one packet of class FLT of its die (R426). -/
theorem State.record_eq (s : State) (r : FaultRec) : s.record r = s.send clsFlt r.die r.die (.fault r) := rfl

theorem State.record_thread (s : State) (r : FaultRec) (th : Nat) : (s.record r).thread th = s.thread th := rfl

/-! ## Traps -/

/-- Trap entry of a thread: into its handler, or stopped with a record (R130). -/
theorem State.takeTrap_thread (s : State) (th code : Nat) (defer slotB : Bool) (pc v : Word) :
    (s.takeTrap th code defer slotB pc v).thread th =
      if (s.thread th).hnd || !(s.thread th).trapvec.getLsbD 0 then (s.thread th).stopTrap code defer slotB pc v
      else (s.thread th).enterTrap code defer slotB pc v := by
  unfold State.takeTrap
  simp only []
  split
  · rw [State.record_thread]; exact State.thread_set ..
  · exact State.thread_set ..

/-- A trap leaves every other thread alone. -/
theorem State.takeTrap_thread_ne (s : State) (th code : Nat) (defer slotB : Bool) (pc v : Word) (j : Nat) (h : j ≠ th) :
    (s.takeTrap th code defer slotB pc v).thread j = s.thread j := by
  unfold State.takeTrap
  simp only []
  split
  · rw [State.record_thread]; exact State.thread_set_ne _ _ _ h _
  · exact State.thread_set_ne _ _ _ h _

/-- A trap changes the threads, the marks of the turn and the packets under way, nothing else. -/
theorem State.takeTrap_rest (s : State) (th code : Nat) (defer slotB : Bool) (pc v : Word) :
    let t := s.takeTrap th code defer slotB pc v
    t = { s with threads := t.threads, cur := { s.cur with trapped := true }, net := t.net, nextId := t.nextId } := by
  unfold State.takeTrap
  simp only []
  split <;> rfl

/-- The two ways an operation that may raise classes ends (R112, R153). -/
theorem State.arith_cases (s : State) (r : Raised) (x : Word) (done : State → State) :
    s.arith r x done = done (s.modMe (·.raise r)) ∨ ∃ code, s.arith r x done = (s.modMe (·.raise r)).trap code x := by
  unfold State.arith
  simp only []
  split
  · exact .inr ⟨_, rfl⟩
  · exact .inl rfl

/-! ## Memory and pools -/

theorem State.writeBytes_rest (s : State) (a : Nat) (bs : List Byte) :
    s.writeBytes a bs = { s with mem := memWriteAll a bs s.mem, ecc := (s.writeBytes a bs).ecc } := rfl

/-- A pool write changes memory alone, and the poison of the words it writes (`State.poolWrite`). -/
theorem poolWriteGo_rest (t a : Nat) (bs : List Byte) (s : State) :
    poolWriteGo t a bs s = { s with mem := (poolWriteGo t a bs s).mem } := by
  induction bs generalizing a s with
  | nil => rfl
  | cons b bs ih => rw [poolWriteGo, ih]

theorem State.poolWrite_rest (s : State) (t a : Nat) (bs : List Byte) :
    s.poolWrite t a bs = { s with mem := (s.poolWrite t a bs).mem, ecc := (s.poolWrite t a bs).ecc } := by
  rw [State.poolWrite, poolWriteGo_rest]; rfl

/-- An address outside the bytes written reads as before. -/
theorem memRead_writeAll_outside (a b : Nat) (bs : List Byte) (m : List Host.Cell) (h : memWf m = true)
    (ho : b < a ∨ a + bs.length ≤ b) : memRead (memWriteAll a bs m) b = memRead m b := by
  induction bs generalizing a m with
  | nil => rfl
  | cons v bs ih =>
      simp only [List.length_cons] at ho
      rw [memWriteAll, ih (a + 1) (memWrite a v m) (memWrite_wf a v m h) (by omega), memRead_write a b v m h, if_neg (by omega)]

/-! ## Engine queues -/

theorem Thread.queue_setQueue (t : Thread) (e : Nat) (q : List EngCmd) : (t.setQueue e q).queue e = q := by
  unfold Thread.setQueue Thread.queue
  simp only []
  split
  · rw [mapGet_del]; rename_i h; simpa using h.symm
  · exact mapGet_put ..

end Sys2Proof.Machine
end

