-- ==== Sys2Proof/Tests/Slice0.lean ====
section
/-! SUPPORT. Small checks: ill-formed terms that the checks refuse, words written out from the spec's encodings, and for every
statement states that meet its hypotheses, with a result or two computed by hand from the spec. -/

namespace Sys2Proof.Tests

set_option Elab.async false

open Sys2Proof.Machine Sys2Proof.Claims

/-! ## Small states -/

/-- What an instruction leaves. -/
def after (i : Instr) (s : State) : State :=
  match exec i s with
  | .next t => t
  | _ => State.reset

/-- An instruction answers just this state. -/
def goesTo (i : Instr) (s t : State) : Bool :=
  match exec i s with
  | .next u => u == t
  | _ => false

/-- A type entry: code at 0x8000, 4 KiB of it, tag fields of 16, 8 and 8 bits, 1000 nJ. -/
def type1 : List Word := [0x20000, 0x8000, 0x8000, 0x8000000000000000, 0x02000200000003E8, 0x2110, 0, 0]

/-- A running task's record (R361): state 5, region the tile at (0, 0). -/
def rec1 : TaskRec := { hdr := 0x5000, succ := [], opd := [], arg0 := 7, arg1 := 9 }

def run1 : TaskRun :=
  { type := type1, asid := 1, plist := 0, since := 0, ctx := 0, tiles := [(0, TaskTile.reset)], prefetch := [], prefParked := [],
    returned := 0, stopping := false, failed := none, saving := false, replaying := false, fabric := default }

/-- Die 0 with the running task 1, whose address space 1 is privileged and whose tables lie at 0x1000. -/
def die1 : Die := { Die.reset with roots := [(1, (0x1000, true))], tasks := [(1, .record rec1)], runs := [(1, run1)] }

/-- Tile 0, all its granules SCRATCH of task 1. -/
def tile1 : Tile := { Tile.reset with poolpart := 0xAAAAAAAAAAAAAAAA, owners := (List.range 32).map fun g => (g, 1) }

def thread1 : Thread := { Thread.reset with running := true, pc := 0x8000, task := some 1 }

/-- Thread 0 of tile 0 of die 0 is about to run its bundle at 0x8000; the first GiB is mapped to itself. -/
def base : State :=
  let s := placeTables State.reset
  { s with threads := [(0, thread1)], tiles := [(0, tile1)], dies := [(0, die1)], nextId := 100,
           cur := { Cur.reset with pc := 0x8000, word := 0x1234 } }

/-- A packet of one flit that stands where its leg begins. -/
def pkt (id cls src at_ dst : Nat) (body : PBody) : Packet :=
  { id := id, cls := cls, len := 0, src := src, at_ := at_, dst := dst, left := 1, worm := [], bad := false, num := none, came := 0, inp := 0,
    sw := false, alone := false, body := body }

/-- The thread's registers. -/
def regs (s : State) (g : SMap Word) : State := s.modMe fun t => { t with g := g }

/-! ## Decoding helpers -/

/-- The pair bundle of this word holds just this instruction in slot A, under guard 0. -/
def readsAs (w : Word) (i : Instr) : Bool :=
  match decodeBundle w with
  | .ok x => x.grdA == 0 && x.a == i && x.b.isNone
  | .error _ => false

/-- NOP in slot A and this instruction in slot B, under guard 0. -/
def slotBReadsAs (w : Word) (i : Instr) : Bool :=
  match decodeBundle w with
  | .ok x => x.a == .nop ⟨0, 0, 0, 0⟩ && x.b == some (0, i)
  | .error _ => false

/-- A slot holds just this record. -/
def slotReadsAs (w : BitVec 128) (x : NodeRecord) : Bool :=
  match decodeSlot w with
  | .ok y => y == x
  | .error _ => false

/-! ## Ill-formed terms and words are refused -/

/-- `decodeBundle` of a word refuses by this name. -/
def refusedAs (w : Word) (e : DecodeError) : Bool :=
  match decodeBundle w with
  | .error x => x == e
  | .ok _ => false

/-- `decodeSlot` of a slot refuses by this name. -/
def slotRefusedAs (w : BitVec 128) (e : DecodeError) : Bool :=
  match decodeSlot w with
  | .error x => x == e
  | .ok _ => false

/-- The row of R72: MARK as a node (R477). -/
def markSlot : BitVec 128 := 0xF0D08227FFF8000000000077

theorem wf_refuses_slotA_event : (⟨0, .tokenArrival 0 0, none⟩ : Bundle).wf = false := by decide +kernel
theorem wf_refuses_slotA_fields : (⟨0, .setCond ⟨3, 4, 5, 6⟩, none⟩ : Bundle).wf = false := by decide +kernel
theorem wf_refuses_slotA_unused : (⟨0, .nop ⟨0, 1, 0, 0⟩, none⟩ : Bundle).wf = false := by decide +kernel
theorem wf_refuses_slotB_scalar : (⟨0, .nop ⟨0, 0, 0, 0⟩, some (0, .add ⟨1, 2, 3, 0⟩)⟩ : Bundle).wf = false := by decide +kernel
theorem wf_refuses_slotB_fields : (⟨0, .nop ⟨0, 0, 0, 0⟩, some (0, .viota ⟨1, 2, 3⟩)⟩ : Bundle).wf = false := by decide +kernel
theorem wf_refuses_pair_long : (⟨0, .addi ⟨3, 4, 1024⟩, some (0, .vadd ⟨1, 2, 3⟩)⟩ : Bundle).wf = false := by decide +kernel
theorem wf_refuses_pair_task : (⟨0, .tdone ⟨0, 4, 0, 0⟩, some (0, .vadd ⟨1, 2, 3⟩)⟩ : Bundle).wf = false := by decide +kernel
theorem wf_accepts_pair : (⟨0, .addi ⟨3, 4, 1023⟩, some (2, .vadd ⟨1, 2, 3⟩)⟩ : Bundle).wf = true := by decide +kernel

/-- A node record of one operand. -/
def rec0 (i : Instr) : NodeRecord :=
  ⟨i, { (default : NRec) with dsta := 0x1044, dstb := 0xFFFF }⟩

theorem wf_refuses_node_scalar : (rec0 (.add ⟨0, 0, 0, 0⟩)).wf = false := by decide +kernel
theorem wf_refuses_node_fields : (rec0 .addNode).wf = false := by decide +kernel
theorem wf_refuses_node_row : (⟨.tdecSelfNode, { (rec0 .tdecSelfNode).r with rnd := 0 }⟩ : NodeRecord).wf = false := by decide +kernel
theorem wf_accepts_node : (decodeSlot markSlot).toOption.map NodeRecord.wf = some true := by decide +kernel

theorem decode_refuses_words :
    refusedAs 0x8000000000000000 .reservedHeader = true ∧ refusedAs 0xC400321400000000 .reservedHeader = true ∧
    refusedAs 0 .opcodeA = true ∧ refusedAs 0x03FFFFFFFFFFFFFF .opcodeA = true ∧ refusedAs 0x0680000000000000 .opcodeA = true ∧
    refusedAs 0x2800021000000000 .extension = true ∧ refusedAs 0x4400321400000001 .longExtension = true ∧
    refusedAs 0x08A0000010000000 .fieldsA = true ∧ refusedAs 0x08A1000000000000 .opcodeA = false ∧
    refusedAs 0x0510321460000000 .fieldsA = true ∧ refusedAs 0x08A0000000400000 .slotB = true := by decide +kernel

theorem decode_refuses_slots :
    slotRefusedAs 0 .opcodeN = true ∧ slotRefusedAs (markSlot ||| 0x1000000000000000000000000) .slotTail = true ∧
    slotRefusedAs (markSlot ||| 0x200000000) .mattr = true ∧ slotRefusedAs (markSlot ^^^ 0x1000000000000000000000) .reservedCode = true := by
  decide +kernel

/-! ## Words written out from the spec's own examples -/

/-- The bundles that R135, R139, R141, R147, R149, R428, R434, R445, R473 and R475 write out. -/
theorem decode_spec_bundles :
    [(0x0510321430000000, Instr.setCond ⟨3, 4, 5, 3⟩), (0x081030FFC0000000, .brp ⟨3, 1, -4⟩),
     (0x0440321400000000, .div ⟨3, 4, 5, 0⟩), (0x48B02214000003E8, .waitf ⟨2, 4, 5, 0, 1000⟩),
     (0x0C00321540000000, .fadd ⟨3, 4, 5, 0x14⟩), (0x3800000070000000, .trap ⟨0, 0, 7⟩), (0x3810000000000000, .eret ⟨0, 0, 0, 0⟩),
     (0x3820500080000000, .mrd ⟨5, 0, 8⟩), (0x7830030450000002, .mwr ⟨0, 6, 0x1045⟩), (0x3C10321420000000, .watch ⟨3, 4, 5, 2⟩),
     (0x3C40530000000000, .histrd ⟨5, 6, 0, 0⟩)].all (fun x : Word × Instr => readsAs x.1 x.2) = true := by decide +kernel

/-- The pairs with TOPK and VQNT in slot B (R164, R176). -/
theorem decode_spec_pairs :
    (decodeBundle 0x08A000000D2C31AE).toOption.map (·.b) = some (some (0, .topk ⟨12, 13, 14⟩)) ∧
    (decodeBundle 0x08A00000044018E8).toOption.map (·.b) = some (some (0, .vqnt ⟨6, 7, 8⟩)) := by decide +kernel

theorem decode_spec_node :
    (decodeSlot markSlot).toOption.map (fun x => (x.op, x.r.dsta, x.r.dstb, x.r.lit32)) = some (.markNode, 0x1044, 0xFFFF, 0x77) := by
  decide +kernel
theorem decode_slotA_class1 :
    [(0x0400321400000000, .add ⟨3, 4, 5, 0⟩),
      (0x0410321400000000, .sub ⟨3, 4, 5, 0⟩),
      (0x0420327FF0000000, .addi ⟨3, 4, -1⟩),
      (0x0430321420000000, .mul ⟨3, 4, 5, 2⟩),
      (0x0440321410000000, .div ⟨3, 4, 5, 1⟩),
      (0x0450321410000000, .rem ⟨3, 4, 5, 1⟩),
      (0x0460321400000000, .andA ⟨3, 4, 5, 0⟩),
      (0x0470321400000000, .orA ⟨3, 4, 5, 0⟩),
      (0x0480321400000000, .xorA ⟨3, 4, 5, 0⟩),
      (0x0490321400000000, .andn ⟨3, 4, 5, 0⟩),
      (0x04A0321400000000, .shl ⟨3, 4, 5, 0⟩),
      (0x04B0321410000000, .shr ⟨3, 4, 5, 1⟩),
      (0x04C0321400000000, .rotl ⟨3, 4, 5, 0⟩),
      (0x04D0320000000000, .clz ⟨3, 4, 0, 0⟩),
      (0x04E0320000000000, .popc ⟨3, 4, 0, 0⟩),
      (0x04F0321410000000, .min ⟨3, 4, 5, 1⟩),
      (0x0500321410000000, .max ⟨3, 4, 5, 1⟩),
      (0x0510321450000000, .setCond ⟨3, 4, 5, 5⟩),
      (0x0520321470000000, .sel ⟨3, 4, 5, 7⟩),
      (0x4530300000000002, .movi ⟨3, 0, 4096⟩),
      (0x0540321410000000, .bfx ⟨3, 4, 5, 1⟩),
      (0x0550321400000000, .bfi ⟨3, 4, 5, 0⟩),
      (0x4560321430FFFFFF, .lea ⟨3, 4, 5, 3, 16777215⟩)].all fun x : Word × Instr => readsAs x.1 x.2 = true := by decide +kernel

theorem decode_slotA_class2 :
    [(0x0800007FC0000000, .br ⟨0, 0, -4⟩),
      (0x081030FFC0000000, .brp ⟨3, 1, -4⟩),
      (0x0820320000000000, .bri ⟨3, 4, 0, 0⟩),
      (0x0830003FF0000000, .call ⟨0, 0, 1023⟩),
      (0x0840000000000000, .ret ⟨0, 0, 0, 0⟩),
      (0x0850721450000000, .pset ⟨7, 4, 5, 5⟩),
      (0x0860139840000000, .plogic ⟨1, 7, 6, 4⟩),
      (0x0870324000000000, .tstart ⟨3, 4, -1024⟩),
      (0x0880000000000000, .tstop ⟨0, 0, 0, 0⟩),
      (0x0890300000000000, .tid ⟨3, 0, 0, 0⟩),
      (0x08A0000000000000, .nop ⟨0, 0, 0, 0⟩),
      (0x48B02214D00003E8, .waitf ⟨2, 4, 5, 13, 1000⟩)].all fun x : Word × Instr => readsAs x.1 x.2 = true := by decide +kernel

theorem decode_slotA_class3 :
    [(0x0C00321540000000, .fadd ⟨3, 4, 5, 20⟩),
      (0x0C10321540000000, .fsub ⟨3, 4, 5, 20⟩),
      (0x0C20321540000000, .fmul ⟨3, 4, 5, 20⟩),
      (0x0C30321540000000, .ffma ⟨3, 4, 5, 20⟩),
      (0x0C40321540000000, .fdiv ⟨3, 4, 5, 20⟩),
      (0x0C50320180000000, .fsqrt ⟨3, 4, 0, 24⟩),
      (0x0C60321600000000, .fmin ⟨3, 4, 5, 32⟩),
      (0x0C70321600000000, .fmax ⟨3, 4, 5, 32⟩),
      (0x0C80721740000000, .fcmp ⟨7, 4, 5, 52⟩),
      (0x0C90321620000000, .fcvt ⟨3, 4, 5, 34⟩),
      (0x0CA0320100000000, .fclass ⟨3, 4, 0, 16⟩)].all fun x : Word × Instr => readsAs x.1 x.2 = true := by decide +kernel

theorem decode_slotA_class6 :
    [(0x1800020070000000, .mshape ⟨0, 4, 0, 7⟩),
      (0x1810321470000000, .mma ⟨3, 4, 5, 7⟩),
      (0x1820321470000000, .mmaz ⟨3, 4, 5, 7⟩),
      (0x1830321470000000, .mmas ⟨3, 4, 5, 7⟩),
      (0x1840321470000000, .mmax ⟨3, 4, 5, 7⟩),
      (0x1850300070000000, .mzero ⟨3, 0, 0, 7⟩),
      (0x18603214F0000000, .mout ⟨3, 4, 5, 15⟩),
      (0x1870320070000000, .mtrn ⟨3, 4, 0, 7⟩),
      (0x1880321400000000, .mfetch ⟨3, 4, 5, 0⟩)].all fun x : Word × Instr => readsAs x.1 x.2 = true := by decide +kernel

theorem decode_slotA_class8 :
    [(0x20003204D0000000, .ld ⟨3, 4, 77⟩),
      (0x2010327E30000000, .st ⟨3, 4, -29⟩),
      (0x2020320060000000, .ldp ⟨3, 4, 6⟩),
      (0x20303200A0000000, .stp ⟨3, 4, 10⟩),
      (0x2080320000000000, .isread ⟨3, 4, 0, 0⟩),
      (0x2090021400000000, .iswrite ⟨0, 4, 5, 0⟩),
      (0x20A0021400000000, .isclr ⟨0, 4, 5, 0⟩),
      (0x20B0020080000000, .pref ⟨0, 4, 8⟩),
      (0x20C0027F80000000, .cflush ⟨0, 4, -8⟩),
      (0x20D0020000000000, .cinv ⟨0, 4, 0⟩)].all fun x : Word × Instr => readsAs x.1 x.2 = true := by decide +kernel

theorem decode_slotA_class9 :
    [(0x2400321470000000, .copy ⟨3, 4, 5, 7⟩),
      (0x2410321470000000, .copy2d ⟨3, 4, 5, 7⟩),
      (0x2420321450000000, .gather ⟨3, 4, 5, 5⟩),
      (0x2430321450000000, .scatter ⟨3, 4, 5, 5⟩),
      (0x2440321450000000, .mcast ⟨3, 4, 5, 5⟩),
      (0x2450321400000000, .chopen ⟨3, 4, 5, 0⟩),
      (0x2460321410000000, .chclose ⟨3, 4, 5, 1⟩),
      (0x2470300070000000, .tlread ⟨3, 0, 0, 7⟩),
      (0x2480320030000000, .tlwait ⟨3, 4, 0, 3⟩),
      (0x2490020030000000, .uiarm ⟨0, 4, 0, 3⟩),
      (0x24A0000000000000, .uiret ⟨0, 0, 0, 0⟩)].all fun x : Word × Instr => readsAs x.1 x.2 = true := by decide +kernel

theorem decode_slotA_class10 :
    [(0x680032141FE80000, .aadd ⟨3, 4, 5, 1, 31, 3, false, true⟩),
      (0x6810321815100000, .afadd ⟨3, 4, 6, 1, 10, 0, true, false⟩),
      (0x6820321432B80000, .amin ⟨3, 4, 5, 3, 5, 1, true, true⟩),
      (0x6830321432B80000, .amax ⟨3, 4, 5, 3, 5, 1, true, true⟩),
      (0x684032141FE80000, .aand ⟨3, 4, 5, 1, 31, 3, false, true⟩),
      (0x685032141FE80000, .aor ⟨3, 4, 5, 1, 31, 3, false, true⟩),
      (0x686032141FE80000, .axor ⟨3, 4, 5, 1, 31, 3, false, true⟩),
      (0x687032141FE80000, .aswap ⟨3, 4, 5, 1, 31, 3, false, true⟩),
      (0x688032141FE80000, .acas ⟨3, 4, 5, 1, 31, 3, false, true⟩),
      (0x68A0021843D00000, .aredn ⟨0, 4, 6, 4, 7, 2, true, false⟩)].all fun x : Word × Instr => readsAs x.1 x.2 = true := by decide +kernel

theorem decode_slotA_class11 :
    [(0x6C0000000FE00000, .fence ⟨0, 0, 0, 0, 31, 3, false, false⟩),
      (0x6C10320005800000, .scopew ⟨3, 4, 0, 0, 11, 0, false, false⟩),
      (0x6C20320016000000, .scoper ⟨3, 4, 0, 1, 12, 0, false, false⟩),
      (0x6C3030000F800000, .scopekill ⟨3, 0, 0, 0, 31, 0, false, false⟩),
      (0x6C40000003C00000, .widen ⟨0, 0, 0, 0, 7, 2, false, false⟩),
      (0x6C50321403600000, .bar ⟨3, 4, 5, 0, 6, 3, false, false⟩),
      (0x6C60321403600000, .barwait ⟨3, 4, 5, 0, 6, 3, false, false⟩)].all fun x : Word × Instr => readsAs x.1 x.2 = true := by decide +kernel

theorem decode_slotA_class12 :
    [(0x3000320000000000, .tspawn ⟨3, 4, 0, 0⟩),
      (0x3010021400000000, .tdec ⟨0, 4, 5, 0⟩),
      (0x3020321400000000, .tsucc ⟨3, 4, 5, 0⟩),
      (0x3030321400000000, .ginst ⟨3, 4, 5, 0⟩),
      (0x3040320000000000, .gfree ⟨3, 4, 0, 0⟩),
      (0x3050020000000000, .tdone ⟨0, 4, 0, 0⟩),
      (0x3060320010000000, .tquery ⟨3, 4, 0, 1⟩),
      (0x3070321400000000, .ttwrite ⟨3, 4, 5, 0⟩),
      (0x3080300040000000, .targ ⟨3, 0, 0, 4⟩)].all fun x : Word × Instr => readsAs x.1 x.2 = true := by decide +kernel

theorem decode_slotA_class13 :
    [(0x3400321400000000, .sxsel ⟨3, 4, 5, 0⟩),
      (0x3410321400000000, .sxapp ⟨3, 4, 5, 0⟩),
      (0x3420321400000000, .sxprop ⟨3, 4, 5, 0⟩),
      (0x3430320030000000, .sxlen ⟨3, 4, 0, 3⟩),
      (0x3440321400000000, .sxsave ⟨3, 4, 5, 0⟩),
      (0x3450321400000000, .sxload ⟨3, 4, 5, 0⟩),
      (0x3460321400000000, .sxwin ⟨3, 4, 5, 0⟩),
      (0x3470020010000000, .sxclr ⟨0, 4, 0, 1⟩),
      (0x3480321400000000, .btprop ⟨3, 4, 5, 0⟩),
      (0x3490300010000000, .btcommit ⟨3, 0, 0, 1⟩),
      (0x34A0300040000000, .btread ⟨3, 0, 0, 4⟩),
      (0x34C0320010000000, .tkmerge ⟨3, 4, 0, 1⟩),
      (0x34D0621400000000, .rngdraw ⟨6, 4, 5, 0⟩),
      (0x34F0320000000000, .vocchk ⟨3, 4, 0, 0⟩)].all fun x : Word × Instr => readsAs x.1 x.2 = true := by decide +kernel

theorem decode_slotA_class14 :
    [(0x3800000070000000, .trap ⟨0, 0, 7⟩),
      (0x3810000000000000, .eret ⟨0, 0, 0, 0⟩),
      (0x3820500080000000, .mrd ⟨5, 0, 8⟩),
      (0x7830030450000002, .mwr ⟨0, 6, 4165⟩),
      (0x3840000000000000, .halt ⟨0, 0, 0, 0⟩),
      (0x3850321400000000, .tlbinv ⟨3, 4, 5, 0⟩),
      (0x3860321400000000, .ctxsave ⟨3, 4, 5, 0⟩),
      (0x3870321400000000, .ctxload ⟨3, 4, 5, 0⟩),
      (0x3880303E80000000, .pwrhint ⟨3, 0, 1000⟩),
      (0x3890021400000000, .swint ⟨0, 4, 5, 0⟩),
      (0x38A0320010000000, .replay ⟨3, 4, 0, 1⟩)].all fun x : Word × Instr => readsAs x.1 x.2 = true := by decide +kernel

theorem decode_slotA_class15 :
    [(0x7C00003CD0000015, .bkpt ⟨0, 0, 43981⟩),
      (0x3C10321430000000, .watch ⟨3, 4, 5, 3⟩),
      (0x3C20021400000000, .trace ⟨0, 4, 5, 0⟩),
      (0x3C30000770000000, .mark ⟨0, 0, 119⟩),
      (0x3C40320000000000, .histrd ⟨3, 4, 0, 0⟩),
      (0x3C50000010000000, .histclr ⟨0, 0, 0, 1⟩)].all fun x : Word × Instr => readsAs x.1 x.2 = true := by decide +kernel

theorem decode_slotB_class4 :
    [(0x08A0000004000C85, .vadd ⟨3, 4, 5⟩),
      (0x08A0000004040C85, .vsub ⟨3, 4, 5⟩),
      (0x08A0000004080C85, .vmul ⟨3, 4, 5⟩),
      (0x08A00000040C0C85, .vfma ⟨3, 4, 5⟩),
      (0x08A0000004100C85, .vmin ⟨3, 4, 5⟩),
      (0x08A0000004140C85, .vmax ⟨3, 4, 5⟩),
      (0x08A0000004180C80, .vabs ⟨3, 4, 0⟩),
      (0x08A00000041C0C80, .vneg ⟨3, 4, 0⟩),
      (0x08A0000004200C85, .vcmp ⟨3, 4, 5⟩),
      (0x08A0000004240C85, .vsel ⟨3, 4, 5⟩),
      (0x08A0000004280C85, .vand ⟨3, 4, 5⟩),
      (0x08A00000042C0C85, .vor ⟨3, 4, 5⟩),
      (0x08A0000004300C85, .vxor ⟨3, 4, 5⟩),
      (0x08A0000004340C85, .vshl ⟨3, 4, 5⟩),
      (0x08A0000004380C85, .vshr ⟨3, 4, 5⟩),
      (0x08A00000043C0C80, .vcvt ⟨3, 4, 0⟩),
      (0x08A0000004400C85, .vqnt ⟨3, 4, 5⟩),
      (0x08A0000004440C80, .vpack ⟨3, 4, 0⟩),
      (0x08A0000004480C80, .vunpack ⟨3, 4, 0⟩),
      (0x08A00000044C0C85, .vclamp ⟨3, 4, 5⟩),
      (0x08A0000004500C80, .vmov ⟨3, 4, 0⟩),
      (0x08A0000004540C00, .viota ⟨3, 0, 0⟩),
      (0x08A0000004580C85, .vshuf ⟨3, 4, 5⟩),
      (0x08A00000045C0C80, .vredsum ⟨3, 4, 0⟩),
      (0x08A0000004600C80, .vredmax ⟨3, 4, 0⟩),
      (0x08A0000004640C80, .vredmin ⟨3, 4, 0⟩),
      (0x08A0000004680C80, .vscan ⟨3, 4, 0⟩),
      (0x08A00000046C0C85, .vdot ⟨3, 4, 5⟩)].all fun x : Word × Instr => slotBReadsAs x.1 x.2 = true := by decide +kernel

theorem decode_slotB_class5 :
    [(0x08A0000005000C80, .vexp ⟨3, 4, 0⟩),
      (0x08A0000005040C80, .vlog2 ⟨3, 4, 0⟩),
      (0x08A0000005080C80, .vrcp ⟨3, 4, 0⟩),
      (0x08A00000050C0C80, .vrsqrt ⟨3, 4, 0⟩),
      (0x08A0000005100C80, .vsqrt ⟨3, 4, 0⟩),
      (0x08A0000005140C80, .vsig ⟨3, 4, 0⟩),
      (0x08A0000005180C80, .vtanh ⟨3, 4, 0⟩),
      (0x08A00000051C0C80, .vsin ⟨3, 4, 0⟩),
      (0x08A0000005200C80, .vcos ⟨3, 4, 0⟩)].all fun x : Word × Instr => slotBReadsAs x.1 x.2 = true := by decide +kernel

theorem decode_slotB_class13 :
    [(0x08A000000D2C0C80, .topk ⟨3, 4, 0⟩)].all fun x : Word × Instr => slotBReadsAs x.1 x.2 = true := by decide +kernel

theorem decode_node_class1 :
    [(0x10288227FFF80009FFFFFFFF, ⟨.addNode, ⟨.two, true, 0x1044, 0xFFFF, .keep, 0, .keep, .i32, 0, true, false, true, 0xFFFFFFFF⟩⟩),
      (0x10688227FFF80009FFFFFFFF, ⟨.subNode, ⟨.two, true, 0x1044, 0xFFFF, .keep, 0, .keep, .i32, 0, true, false, true, 0xFFFFFFFF⟩⟩),
      (0x10908227FFF8000912345678, ⟨.addiNode, ⟨.one, false, 0x1044, 0xFFFF, .keep, 0, .keep, .i32, 0, true, false, true, 0x12345678⟩⟩),
      (0x10E08227FFF8002900000000, ⟨.mulNode, ⟨.two, false, 0x1044, 0xFFFF, .keep, 0, .keep, .i32, 2, true, false, true, 0x0⟩⟩),
      (0x11208227FFF8001900000000, ⟨.divNode, ⟨.two, false, 0x1044, 0xFFFF, .keep, 0, .keep, .i32, 1, true, false, true, 0x0⟩⟩),
      (0x11608227FFF8001900000000, ⟨.remNode, ⟨.two, false, 0x1044, 0xFFFF, .keep, 0, .keep, .i32, 1, true, false, true, 0x0⟩⟩),
      (0x11A88227FFF80009FFFFFFFF, ⟨.andNode, ⟨.two, true, 0x1044, 0xFFFF, .keep, 0, .keep, .i32, 0, true, false, true, 0xFFFFFFFF⟩⟩),
      (0x11E88227FFF80009FFFFFFFF, ⟨.orNode, ⟨.two, true, 0x1044, 0xFFFF, .keep, 0, .keep, .i32, 0, true, false, true, 0xFFFFFFFF⟩⟩),
      (0x12288227FFF80009FFFFFFFF, ⟨.xorNode, ⟨.two, true, 0x1044, 0xFFFF, .keep, 0, .keep, .i32, 0, true, false, true, 0xFFFFFFFF⟩⟩),
      (0x12688227FFF80009FFFFFFFF, ⟨.andnNode, ⟨.two, true, 0x1044, 0xFFFF, .keep, 0, .keep, .i32, 0, true, false, true, 0xFFFFFFFF⟩⟩),
      (0x12A88227FFF80009FFFFFFFF, ⟨.shlNode, ⟨.two, true, 0x1044, 0xFFFF, .keep, 0, .keep, .i32, 0, true, false, true, 0xFFFFFFFF⟩⟩),
      (0x12E08227FFF8001900000000, ⟨.shrNode, ⟨.two, false, 0x1044, 0xFFFF, .keep, 0, .keep, .i32, 1, true, false, true, 0x0⟩⟩),
      (0x13288227FFF80009FFFFFFFF, ⟨.rotlNode, ⟨.two, true, 0x1044, 0xFFFF, .keep, 0, .keep, .i32, 0, true, false, true, 0xFFFFFFFF⟩⟩),
      (0x13508227FFF8000900000000, ⟨.clzNode, ⟨.one, false, 0x1044, 0xFFFF, .keep, 0, .keep, .i32, 0, true, false, true, 0x0⟩⟩),
      (0x13908227FFF8000900000000, ⟨.popcNode, ⟨.one, false, 0x1044, 0xFFFF, .keep, 0, .keep, .i32, 0, true, false, true, 0x0⟩⟩),
      (0x13E08227FFF8001900000000, ⟨.minNode, ⟨.two, false, 0x1044, 0xFFFF, .keep, 0, .keep, .i32, 1, true, false, true, 0x0⟩⟩),
      (0x14208227FFF8001900000000, ⟨.maxNode, ⟨.two, false, 0x1044, 0xFFFF, .keep, 0, .keep, .i32, 1, true, false, true, 0x0⟩⟩),
      (0x14608227FFF8005900000000, ⟨.setNode, ⟨.two, false, 0x1044, 0xFFFF, .keep, 0, .keep, .i32, 5, true, false, true, 0x0⟩⟩),
      (0x14B08227FFF8000900000000, ⟨.selNode, ⟨.three, false, 0x1044, 0xFFFF, .keep, 0, .keep, .i32, 0, true, false, true, 0x0⟩⟩),
      (0x14D08227FFF8000912345678, ⟨.moviNode, ⟨.one, false, 0x1044, 0xFFFF, .keep, 0, .keep, .i32, 0, true, false, true, 0x12345678⟩⟩),
      (0x15208227FFF8001900000000, ⟨.bfxNode, ⟨.two, false, 0x1044, 0xFFFF, .keep, 0, .keep, .i32, 1, true, false, true, 0x0⟩⟩),
      (0x15708227FFF8000900000000, ⟨.bfiNode, ⟨.three, false, 0x1044, 0xFFFF, .keep, 0, .keep, .i32, 0, true, false, true, 0x0⟩⟩),
      (0x15A08227FFF8003900000008, ⟨.leaNode, ⟨.two, false, 0x1044, 0xFFFF, .keep, 0, .keep, .i32, 3, true, false, true, 0x8⟩⟩)].all fun x : BitVec 128 × NodeRecord => slotReadsAs x.1 x.2 = true := by decide +kernel

theorem decode_node_class4 :
    [(0x40288227FFF801793F800000, ⟨.vaddNode, ⟨.two, true, 0x1044, 0xFFFF, .keep, 0, .keep, .fp32, 7, true, false, true, 0x3F800000⟩⟩),
      (0x40688227FFF801793F800000, ⟨.vsubNode, ⟨.two, true, 0x1044, 0xFFFF, .keep, 0, .keep, .fp32, 7, true, false, true, 0x3F800000⟩⟩),
      (0x40A88227FFF801793F800000, ⟨.vmulNode, ⟨.two, true, 0x1044, 0xFFFF, .keep, 0, .keep, .fp32, 7, true, false, true, 0x3F800000⟩⟩),
      (0x40F08227FFF8018900000000, ⟨.vfmaNode, ⟨.three, false, 0x1044, 0xFFFF, .keep, 0, .keep, .bf16, 0, true, false, true, 0x0⟩⟩),
      (0x41208227FFF8058900000000, ⟨.vminNode, ⟨.two, false, 0x1044, 0xFFFF, .keep, 0, .keep, .u8, 0, true, false, true, 0x0⟩⟩),
      (0x41608227FFF8058900000000, ⟨.vmaxNode, ⟨.two, false, 0x1044, 0xFFFF, .keep, 0, .keep, .u8, 0, true, false, true, 0x0⟩⟩),
      (0x41908227FFF8011900000000, ⟨.vabsNode, ⟨.one, false, 0x1044, 0xFFFF, .keep, 0, .keep, .fp32, 1, true, false, true, 0x0⟩⟩),
      (0x41D08227FFF8011900000000, ⟨.vnegNode, ⟨.one, false, 0x1044, 0xFFFF, .keep, 0, .keep, .fp32, 1, true, false, true, 0x0⟩⟩),
      (0x42208227FFF8016900000000, ⟨.vcmpNode, ⟨.two, false, 0x1044, 0xFFFF, .keep, 0, .keep, .fp32, 6, true, false, true, 0x0⟩⟩),
      (0x42708227FFF8010900000000, ⟨.vselNode, ⟨.three, false, 0x1044, 0xFFFF, .keep, 0, .keep, .fp32, 0, true, false, true, 0x0⟩⟩),
      (0x42A08227FFF8058900000000, ⟨.vandNode, ⟨.two, false, 0x1044, 0xFFFF, .keep, 0, .keep, .u8, 0, true, false, true, 0x0⟩⟩),
      (0x42E08227FFF8058900000000, ⟨.vorNode, ⟨.two, false, 0x1044, 0xFFFF, .keep, 0, .keep, .u8, 0, true, false, true, 0x0⟩⟩),
      (0x43208227FFF8058900000000, ⟨.vxorNode, ⟨.two, false, 0x1044, 0xFFFF, .keep, 0, .keep, .u8, 0, true, false, true, 0x0⟩⟩),
      (0x43608227FFF8000900000000, ⟨.vshlNode, ⟨.two, false, 0x1044, 0xFFFF, .keep, 0, .keep, .i32, 0, true, false, true, 0x0⟩⟩),
      (0x43A08227FFF8009900000000, ⟨.vshrNode, ⟨.two, false, 0x1044, 0xFFFF, .keep, 0, .keep, .u32, 1, true, false, true, 0x0⟩⟩),
      (0x43D08227FFF8018900000002, ⟨.vcvtNode, ⟨.one, false, 0x1044, 0xFFFF, .keep, 0, .keep, .bf16, 0, true, false, true, 0x2⟩⟩),
      (0x44208227FFF8032900000000, ⟨.vqntNode, ⟨.two, false, 0x1044, 0xFFFF, .keep, 0, .keep, .e5m2, 2, true, false, true, 0x0⟩⟩),
      (0x44508227FFF8050900000000, ⟨.vpackNode, ⟨.one, false, 0x1044, 0xFFFF, .keep, 0, .keep, .i8, 0, true, false, true, 0x0⟩⟩),
      (0x44908227FFF8050900000000, ⟨.vunpackNode, ⟨.one, false, 0x1044, 0xFFFF, .keep, 0, .keep, .i8, 0, true, false, true, 0x0⟩⟩),
      (0x44F08227FFF8010900000000, ⟨.vclampNode, ⟨.three, false, 0x1044, 0xFFFF, .keep, 0, .keep, .fp32, 0, true, false, true, 0x0⟩⟩),
      (0x45108227FFF8038900000000, ⟨.vmovNode, ⟨.one, false, 0x1044, 0xFFFF, .keep, 0, .keep, .e3m2, 0, true, false, true, 0x0⟩⟩),
      (0x45508227FFF8002900000000, ⟨.viotaNode, ⟨.one, false, 0x1044, 0xFFFF, .keep, 0, .keep, .i32, 2, true, false, true, 0x0⟩⟩),
      (0x45A08227FFF8029900000000, ⟨.vshufNode, ⟨.two, false, 0x1044, 0xFFFF, .keep, 0, .keep, .e4m3, 1, true, false, true, 0x0⟩⟩),
      (0x45D08227FFF8014900000000, ⟨.vredsumNode, ⟨.one, false, 0x1044, 0xFFFF, .keep, 0, .keep, .fp32, 4, true, false, true, 0x0⟩⟩),
      (0x46108227FFF8020900000000, ⟨.vredmaxNode, ⟨.one, false, 0x1044, 0xFFFF, .keep, 0, .keep, .fp16, 0, true, false, true, 0x0⟩⟩),
      (0x46508227FFF8020900000000, ⟨.vredminNode, ⟨.one, false, 0x1044, 0xFFFF, .keep, 0, .keep, .fp16, 0, true, false, true, 0x0⟩⟩),
      (0x46908227FFF8014900000000, ⟨.vscanNode, ⟨.one, false, 0x1044, 0xFFFF, .keep, 0, .keep, .fp32, 4, true, false, true, 0x0⟩⟩),
      (0x46E08227FFF802E900000000, ⟨.vdotNode, ⟨.two, false, 0x1044, 0xFFFF, .keep, 0, .keep, .e4m3, 6, true, false, true, 0x0⟩⟩)].all fun x : BitVec 128 × NodeRecord => slotReadsAs x.1 x.2 = true := by decide +kernel

theorem decode_node_class5 :
    [(0x50108227FFF8011900000000, ⟨.vexpNode, ⟨.one, false, 0x1044, 0xFFFF, .keep, 0, .keep, .fp32, 1, true, false, true, 0x0⟩⟩),
      (0x50508227FFF8011900000000, ⟨.vlog2Node, ⟨.one, false, 0x1044, 0xFFFF, .keep, 0, .keep, .fp32, 1, true, false, true, 0x0⟩⟩),
      (0x50908227FFF8011900000000, ⟨.vrcpNode, ⟨.one, false, 0x1044, 0xFFFF, .keep, 0, .keep, .fp32, 1, true, false, true, 0x0⟩⟩),
      (0x50D08227FFF8011900000000, ⟨.vrsqrtNode, ⟨.one, false, 0x1044, 0xFFFF, .keep, 0, .keep, .fp32, 1, true, false, true, 0x0⟩⟩),
      (0x51108227FFF8011900000000, ⟨.vsqrtNode, ⟨.one, false, 0x1044, 0xFFFF, .keep, 0, .keep, .fp32, 1, true, false, true, 0x0⟩⟩),
      (0x51508227FFF8011900000000, ⟨.vsigNode, ⟨.one, false, 0x1044, 0xFFFF, .keep, 0, .keep, .fp32, 1, true, false, true, 0x0⟩⟩),
      (0x51908227FFF8011900000000, ⟨.vtanhNode, ⟨.one, false, 0x1044, 0xFFFF, .keep, 0, .keep, .fp32, 1, true, false, true, 0x0⟩⟩),
      (0x51D08227FFF8011900000000, ⟨.vsinNode, ⟨.one, false, 0x1044, 0xFFFF, .keep, 0, .keep, .fp32, 1, true, false, true, 0x0⟩⟩),
      (0x52108227FFF8011900000000, ⟨.vcosNode, ⟨.one, false, 0x1044, 0xFFFF, .keep, 0, .keep, .fp32, 1, true, false, true, 0x0⟩⟩)].all fun x : BitVec 128 × NodeRecord => slotReadsAs x.1 x.2 = true := by decide +kernel

theorem decode_node_class6 :
    [(0x60108227FFF8000900000007, ⟨.mshapeNode, ⟨.one, false, 0x1044, 0xFFFF, .keep, 0, .keep, .i32, 0, true, false, true, 0x7⟩⟩),
      (0x60708227FFF8000900004005, ⟨.mmaNode, ⟨.three, false, 0x1044, 0xFFFF, .keep, 0, .keep, .i32, 0, true, false, true, 0x4005⟩⟩),
      (0x60B08227FFF8000900004005, ⟨.mmazNode, ⟨.three, false, 0x1044, 0xFFFF, .keep, 0, .keep, .i32, 0, true, false, true, 0x4005⟩⟩),
      (0x60F08227FFF8000900004005, ⟨.mmasNode, ⟨.three, false, 0x1044, 0xFFFF, .keep, 0, .keep, .i32, 0, true, false, true, 0x4005⟩⟩),
      (0x61308227FFF8000900004005, ⟨.mmaxNode, ⟨.three, false, 0x1044, 0xFFFF, .keep, 0, .keep, .i32, 0, true, false, true, 0x4005⟩⟩),
      (0x61508227FFF8000900000003, ⟨.mzeroNode, ⟨.one, false, 0x1044, 0xFFFF, .keep, 0, .keep, .i32, 0, true, false, true, 0x3⟩⟩),
      (0x61A08227FFF801990000000C, ⟨.moutNode, ⟨.two, false, 0x1044, 0xFFFF, .keep, 0, .keep, .bf16, 1, true, false, true, 0xC⟩⟩),
      (0x61E08227FFF8000900000007, ⟨.mtrnNode, ⟨.two, false, 0x1044, 0xFFFF, .keep, 0, .keep, .i32, 0, true, false, true, 0x7⟩⟩),
      (0x62208227FFF8000900001010, ⟨.mfetchNode, ⟨.two, false, 0x1044, 0xFFFF, .keep, 0, .keep, .i32, 0, true, false, true, 0x1010⟩⟩)].all fun x : BitVec 128 × NodeRecord => slotReadsAs x.1 x.2 = true := by decide +kernel

theorem decode_node_class7 :
    [(0x702082210408000900000000, ⟨.steer, ⟨.two, false, 0x1044, 0x2081, .keep, 0, .keep, .i32, 0, true, false, true, 0x0⟩⟩),
      (0x70708227FFF8000900000000, ⟨.merge, ⟨.three, false, 0x1044, 0xFFFF, .keep, 0, .keep, .i32, 0, true, false, true, 0x0⟩⟩),
      (0x70908227FFF9400900002044, ⟨.wave, ⟨.one, false, 0x1044, 0xFFFF, .inc, 2, .keep, .i32, 0, true, false, true, 0x2044⟩⟩),
      (0x70E08227FFFA000900000040, ⟨.loopent, ⟨.two, false, 0x1044, 0xFFFF, .enter, 0, .keep, .i32, 0, true, false, true, 0x40⟩⟩),
      (0x71108227FFFB000900002044, ⟨.loopexit, ⟨.one, false, 0x1044, 0xFFFF, .exit, 0, .keep, .i32, 0, true, false, true, 0x2044⟩⟩),
      (0x71608227FFFC000900001001, ⟨.callt, ⟨.two, false, 0x1044, 0xFFFF, .call, 0, .keep, .i32, 0, true, false, true, 0x1001⟩⟩),
      (0x7197FFFFFFFD000900000000, ⟨.rett, ⟨.one, false, 0xFFFF, 0xFFFF, .ret, 0, .keep, .i32, 0, true, false, true, 0x0⟩⟩),
      (0x71D7FFFFFFF8000900000000, ⟨.freectx, ⟨.one, false, 0xFFFF, 0xFFFF, .keep, 0, .keep, .i32, 0, true, false, true, 0x0⟩⟩),
      (0x72208227FFF8000900000000, ⟨.repeatTok, ⟨.two, false, 0x1044, 0xFFFF, .keep, 0, .keep, .i32, 0, true, false, true, 0x0⟩⟩),
      (0x726082210408000900000000, ⟨.gate, ⟨.two, false, 0x1044, 0x2081, .keep, 0, .keep, .i32, 0, true, false, true, 0x0⟩⟩),
      (0x72908227FFF800090000FFFF, ⟨.joinTok, ⟨.one, false, 0x1044, 0xFFFF, .keep, 0, .keep, .i32, 0, true, false, true, 0xFFFF⟩⟩),
      (0x72D08227FFFEA009DEADBEEF, ⟨.constTok, ⟨.one, false, 0x1044, 0xFFFF, .setv, 5, .keep, .i32, 0, true, false, true, 0xDEADBEEF⟩⟩),
      (0x73108227FFF8000900082085, ⟨.dup, ⟨.one, false, 0x1044, 0xFFFF, .keep, 0, .keep, .i32, 0, true, false, true, 0x82085⟩⟩),
      (0x73508227FFF8000900000006, ⟨.tagget, ⟨.one, false, 0x1044, 0xFFFF, .keep, 0, .keep, .i32, 0, true, false, true, 0x6⟩⟩),
      (0x73A08227FFF8000900000004, ⟨.tagset, ⟨.two, false, 0x1044, 0xFFFF, .keep, 0, .keep, .i32, 0, true, false, true, 0x4⟩⟩),
      (0x73E7FFFFFFF8000910460012, ⟨.sendTok, ⟨.two, false, 0xFFFF, 0xFFFF, .keep, 0, .keep, .i32, 0, true, false, true, 0x10460012⟩⟩),
      (0x74108227FFF800090C000040, ⟨.recv, ⟨.one, false, 0x1044, 0xFFFF, .keep, 0, .keep, .i32, 0, true, false, true, 0xC000040⟩⟩),
      (0x74508227FFF8000900000000, ⟨.eos, ⟨.one, false, 0x1044, 0xFFFF, .keep, 0, .keep, .i32, 0, true, false, true, 0x0⟩⟩),
      (0x74908227FFF8000900000020, ⟨.runpack, ⟨.one, false, 0x1044, 0xFFFF, .keep, 0, .keep, .i32, 0, true, false, true, 0x20⟩⟩),
      (0x74D08227FFF8000900000010, ⟨.runsplit, ⟨.one, false, 0x1044, 0xFFFF, .keep, 0, .keep, .i32, 0, true, false, true, 0x10⟩⟩)].all fun x : BitVec 128 × NodeRecord => slotReadsAs x.1 x.2 = true := by decide +kernel

theorem decode_node_class8 :
    [(0x81208227FFF8001B01000200, ⟨.ldw, ⟨.two, false, 0x1044, 0xFFFF, .keep, 0, .keep, .i32, 1, true, false, true, 0x1000200⟩⟩),
      (0x8167FFFFFFF8006B02010300, ⟨.stw, ⟨.two, false, 0xFFFF, 0xFFFF, .keep, 0, .keep, .i32, 6, true, false, true, 0x2010300⟩⟩),
      (0x81908227FFF8002B00000000, ⟨.ldx, ⟨.one, false, 0x1044, 0xFFFF, .keep, 0, .keep, .i32, 2, true, false, true, 0x0⟩⟩),
      (0x81F7FFFFFFF8001B00000000, ⟨.stx, ⟨.three, false, 0xFFFF, 0xFFFF, .keep, 0, .keep, .i32, 1, true, false, true, 0x0⟩⟩),
      (0x82108227FFF8000900000000, ⟨.isreadNode, ⟨.one, false, 0x1044, 0xFFFF, .keep, 0, .keep, .i32, 0, true, false, true, 0x0⟩⟩),
      (0x8267FFFFFFF8000900000000, ⟨.iswriteNode, ⟨.two, false, 0xFFFF, 0xFFFF, .keep, 0, .keep, .i32, 0, true, false, true, 0x0⟩⟩),
      (0x82A7FFFFFFF8000900000000, ⟨.isclrNode, ⟨.two, false, 0xFFFF, 0xFFFF, .keep, 0, .keep, .i32, 0, true, false, true, 0x0⟩⟩)].all fun x : BitVec 128 × NodeRecord => slotReadsAs x.1 x.2 = true := by decide +kernel

theorem decode_node_class9 :
    [(0x90208227FFF8006900000000, ⟨.copyNode, ⟨.two, false, 0x1044, 0xFFFF, .keep, 0, .keep, .i32, 6, true, false, true, 0x0⟩⟩),
      (0x90B08227FFF80009000FFFFF, ⟨.gatherNode, ⟨.three, false, 0x1044, 0xFFFF, .keep, 0, .keep, .i32, 0, true, false, true, 0xFFFFF⟩⟩),
      (0x90F08227FFF80009000FFFFF, ⟨.scatterNode, ⟨.three, false, 0x1044, 0xFFFF, .keep, 0, .keep, .i32, 0, true, false, true, 0xFFFFF⟩⟩)].all fun x : BitVec 128 × NodeRecord => slotReadsAs x.1 x.2 = true := by decide +kernel

theorem decode_node_class10 :
    [(0xA0208227FFF8008B00000045, ⟨.aaddNode, ⟨.two, false, 0x1044, 0xFFFF, .keep, 0, .keep, .u32, 0, true, false, true, 0x45⟩⟩),
      (0xA0708227FFF8010F00000087, ⟨.afaddNode, ⟨.three, false, 0x1044, 0xFFFF, .keep, 0, .keep, .fp32, 0, true, true, true, 0x87⟩⟩),
      (0xA0A08227FFF8008B00000045, ⟨.aminNode, ⟨.two, false, 0x1044, 0xFFFF, .keep, 0, .keep, .u32, 0, true, false, true, 0x45⟩⟩),
      (0xA0E08227FFF8008B00000045, ⟨.amaxNode, ⟨.two, false, 0x1044, 0xFFFF, .keep, 0, .keep, .u32, 0, true, false, true, 0x45⟩⟩),
      (0xA1208227FFF8008B00000045, ⟨.aandNode, ⟨.two, false, 0x1044, 0xFFFF, .keep, 0, .keep, .u32, 0, true, false, true, 0x45⟩⟩),
      (0xA1608227FFF8008B00000045, ⟨.aorNode, ⟨.two, false, 0x1044, 0xFFFF, .keep, 0, .keep, .u32, 0, true, false, true, 0x45⟩⟩),
      (0xA1A08227FFF8008B00000045, ⟨.axorNode, ⟨.two, false, 0x1044, 0xFFFF, .keep, 0, .keep, .u32, 0, true, false, true, 0x45⟩⟩),
      (0xA1E08227FFF8008B00000045, ⟨.aswapNode, ⟨.two, false, 0x1044, 0xFFFF, .keep, 0, .keep, .u32, 0, true, false, true, 0x45⟩⟩),
      (0xA2308227FFF8000B0000007F, ⟨.acasNode, ⟨.three, false, 0x1044, 0xFFFF, .keep, 0, .keep, .i32, 0, true, false, true, 0x7F⟩⟩),
      (0xA2608227FFF8011B00000000, ⟨.acomb, ⟨.two, false, 0x1044, 0xFFFF, .keep, 0, .keep, .fp32, 1, true, false, true, 0x0⟩⟩),
      (0xA2A08227FFF8006B00000040, ⟨.arednNode, ⟨.two, false, 0x1044, 0xFFFF, .keep, 0, .keep, .i32, 6, true, false, true, 0x40⟩⟩)].all fun x : BitVec 128 × NodeRecord => slotReadsAs x.1 x.2 = true := by decide +kernel

theorem decode_node_class11 :
    [(0xB0108227FFF8000B00000067, ⟨.fenceNode, ⟨.one, false, 0x1044, 0xFFFF, .keep, 0, .keep, .i32, 0, true, false, true, 0x67⟩⟩),
      (0xB1108227FFF8000B0000005F, ⟨.widenNode, ⟨.one, false, 0x1044, 0xFFFF, .keep, 0, .keep, .i32, 0, true, false, true, 0x5F⟩⟩),
      (0xB1608227FFF8000B05000006, ⟨.barNode, ⟨.two, false, 0x1044, 0xFFFF, .keep, 0, .keep, .i32, 0, true, false, true, 0x5000006⟩⟩)].all fun x : BitVec 128 × NodeRecord => slotReadsAs x.1 x.2 = true := by decide +kernel

theorem decode_node_class12 :
    [(0xC0688227FFF8000900000001, ⟨.tdecNode, ⟨.two, true, 0x1044, 0xFFFF, .keep, 0, .keep, .i32, 0, true, false, true, 0x1⟩⟩),
      (0xC0508227FFF8001900000000, ⟨.tdecSelfNode, ⟨.one, false, 0x1044, 0xFFFF, .keep, 0, .keep, .i32, 1, true, false, true, 0x0⟩⟩)].all fun x : BitVec 128 × NodeRecord => slotReadsAs x.1 x.2 = true := by decide +kernel

theorem decode_node_class13 :
    [(0xD3A08227FFF8000900000007, ⟨.commit, ⟨.two, false, 0x1044, 0xFFFF, .keep, 0, .keep, .i32, 0, true, false, true, 0x7⟩⟩)].all fun x : BitVec 128 × NodeRecord => slotReadsAs x.1 x.2 = true := by decide +kernel

theorem decode_node_class15 :
    [(0xF0908227FFF8000900000000, ⟨.traceNode, ⟨.one, false, 0x1044, 0xFFFF, .keep, 0, .keep, .i32, 0, true, false, true, 0x0⟩⟩),
      (0xF0D08227FFF8000900000077, ⟨.markNode, ⟨.one, false, 0x1044, 0xFFFF, .keep, 0, .keep, .i32, 0, true, false, true, 0x77⟩⟩)].all fun x : BitVec 128 × NodeRecord => slotReadsAs x.1 x.2 = true := by decide +kernel

/-! ## Reset, decoding, stepping -/

/-- The word of a bundle. -/
def enc (x : Bundle) : Nat :=
  match encodeBundle x with
  | some w => w.toNat
  | none => 0

/-- A bundle at 0x8000 of `base`, whose thread has the next turn. -/
def ready (x : Bundle) (g : SMap Word) : State := { regs (base.writeNat 0x8000 8 (enc x)) g with agenda := [.thread 0] }

/-- The state at which thread 0 is asked what holds it. -/
def begun (s : State) : State := (({ s with agenda := [] } : State).elapsed).beginThread 0

/-- What a statement about an issuing thread asks before the guards. -/
def issues (s : State) (x : Bundle) : Bool :=
  let s1 := begun s
  decide (s.agenda = [.thread 0] ∧ ({ s with agenda := [] } : State).elapsed.idle 0 = false ∧ s1.me.deferred = [] ∧
  (s1.me.preempt && !s1.me.hnd) = false ∧ s1.me.userPending = false ∧ s1.me.wait = none ∧ s1.inCode 0 s1.me.pc = true ∧
  ({ s with agenda := [] } : State).elapsed.stopped 0 = false ∧
  (translateAt s1 s1.myTile (s1.taskAsid (s1.me.task.getD 0)) s1.me.pc false).toOption = some 0x8000 ∧ s1.homeUp s1.myDie 0x8000 = true ∧
  (decodeBundle (s1.homeWord s1.myDie 0x8000)).toOption = some x ∧ s1.me.waitsFor (s1.homeWord s1.myDie 0x8000) = false ∧
  matrixFault { s1 with cur := { s1.cur with word := s1.homeWord s1.myDie 0x8000 } } (s1.homeWord s1.myDie 0x8000) = none ∧
  slotBFault s1.me (isMemTile s1.myTile) (s1.homeWord s1.myDie 0x8000) x.b = none)

/-- What a step leaves. -/
def stepped (s : State) : State :=
  match step s with
  | .next t => t
  | _ => State.reset

theorem witness_words_header : 2 ≤ ((0x8000000000000000 : Word).extractLsb' 62 2).toNat ∧ 2 ≤ ((0xC000000000000000 : Word).extractLsb' 62 2).toNat ∧
    ((0 : Word).extractLsb' 62 2).toNat ≤ 1 ∧ (0 : Word).extractLsb' 58 4 = 0 ∧
    ((0x43FFFFFFFFFFFFFF : Word).extractLsb' 62 2).toNat ≤ 1 ∧ (0x43FFFFFFFFFFFFFF : Word).extractLsb' 58 4 = 0 ∧
    (0x08A0000010000000 : Word).extractLsb' 62 2 = 0 ∧ (0x08A0000010000000 : Word).extractLsb' 52 10 = 0x08A ∧
    (0x08A0000010000000 : Word).extractLsb' 28 21 ≠ 0 := by decide +kernel

/-- ADD g3, g4, g5 beside VADD g1, g2, g3, both guards true. -/
def pairAdd : Bundle := ⟨0, .add ⟨3, 4, 5, 0⟩, some (0, .vadd ⟨1, 2, 3⟩)⟩

/-- A settled state as the last clauses of the statement take it. -/
def settled (s : State) : State :=
  let s1 := begun s
  ({ s1 with cur := { s1.cur with word := s1.homeWord s1.myDie 0x8000 } } : State).settleFence 0

theorem witness_step_pair :
    let s := ready pairAdd [(4, 40), (5, 2)]
    let s3 := settled s
    issues s pairAdd = true ∧ s3.me.pred 0 = true ∧ (s3.fenceHolds 0 && fenced pairAdd.a) = false ∧ s3.me.queueFull 1 = false ∧
    (after pairAdd.a s3).cur.held = false ∧ (after pairAdd.a s3).cur.trapped = false ∧
    (stepped s).greg 3 = 42 ∧ (stepped s).me.pc = 0x8008 ∧ ((stepped s).me.queue 1).length = 1 := by decide +kernel

/-- LD with a fifth load is held; a misaligned LD traps and its slot B does not run. -/
theorem witness_step_held_and_trapped :
    let x : Bundle := ⟨0, .ld ⟨3, 4, 0⟩, none⟩
    let y : Bundle := ⟨0, .ld ⟨3, 4, 3⟩, some (0, .vadd ⟨1, 2, 3⟩)⟩
    let s := (ready x [(4, 0x10000)]).modThread 0 fun t => { t with ldout := 4 }
    let s' := ready y [(4, 0x10001)]
    issues s x = true ∧ (settled s).me.pred 0 = true ∧ ((settled s).fenceHolds 0 && fenced x.a) = false ∧
      (after x.a (settled s)).cur.held = true ∧
    issues s' y = true ∧ ((settled s').fenceHolds 0 && fenced y.a) = false ∧ (settled s').me.queueFull 1 = false ∧
      (after y.a (settled s')).cur.held = false ∧ (after y.a (settled s')).cur.trapped = true := by decide +kernel

/-- A bundle that does not decode, and a false guard. -/
theorem witness_no_effect :
    let s := ({ regs (base.writeNat 0x8000 8 0x8000000000000000) [] with agenda := [.thread 0] } : State)
    s.inCode s.cur.th s.me.pc = true ∧ (translateAt s s.myTile (s.taskAsid (s.me.task.getD 0)) s.me.pc false).toOption = some 0x8000 ∧
    s.homeUp s.myDie 0x8000 = true ∧ s.me.waitsFor (s.homeWord s.myDie 0x8000) = false ∧
    matrixFault { s with cur := { s.cur with word := s.homeWord s.myDie 0x8000 } } (s.homeWord s.myDie 0x8000) = none ∧
    (decodeBundle (s.homeWord s.myDie 0x8000)).toOption = none ∧ base.me.pred 3 = false ∧ base.me.fence = [] ∧ base.me.acquire = none ∧
    base.cur.held = false ∧ base.cur.trapped = false := by decide +kernel

/-- Slot B runs beside a slot A that goes on; under a false guard it changes nothing. -/
theorem witness_slot_b :
    let s := ready pairAdd [(4, 40), (5, 2)]
    let x : Bundle := ⟨0, .add ⟨3, 4, 5, 0⟩, some (3, .vadd ⟨1, 2, 3⟩)⟩
    let t := ready x [(4, 40), (5, 2)]
    (settled s).me.pred 0 = true ∧ issues t x = true ∧ (settled t).me.pred 3 = false ∧ (stepped t).me.queue 1 = [] ∧ (stepped t).greg 3 = 42 ∧
    (stepped t).me.pc = 0x8008 := by decide +kernel

/-- A node of one scalar token in entry 0 of PE 0 (R62), with word w on port L. -/
def firing (i : Instr) (n : NRec) (l r c : List TWord) : Firing :=
  { pe := 0, slot := 0, tag := 0, port := 0, l := l, r := r, c := c, eos := false, seq := 0, wait := none, task := 1, node := ⟨i, n⟩ }

/-- The node's record: destination port 0 of entry 9 of PE 0, no second destination. -/
def nrec : NRec := { (default : NRec) with dsta := 0x0012, dstb := 0xFFFF }

/-- The state in which the firing f is about to be made. -/
def atNode (f : Firing) : State :=
  { base with cur := { Cur.reset with fir := f },
              nodes := [(0, { raw := 0, task := 1, va := 0, blocked := false, trapped := false, discarded := false, bad := 0, held := [] })] }

theorem witness_step_fires :
    let f := firing .addNode { nrec with etype := .i32 } [⟨5, false, false, false⟩] [⟨6, false, false, false⟩] []
    let s := ({ atNode f with agenda := [.fire 0], pes := [(0, { Pe.reset with ready := [f] })] } : State)
    let s0 := ({ s with agenda := [] } : State).elapsed
    let s1 := s0.settleNodes (tileOfPe 0)
    s0.stopped (tileOfPe 0) = false ∧ (s1.pe 0).given < (s1.pe 0).weight (s1.pe 0).cls ∧ s1.firstReady 0 (s1.pe 0).cls = some f ∧
      s1.streamHolds f = false ∧ (after f.node.op { s1 with cur := { Cur.reset with fir := f } }).cur.held = false := by decide +kernel

theorem witness_step_event :
    let s := ({ base with agenda := [.event (.requestAdmit 3)] } : State)
    s.agenda = [.event (.requestAdmit 3)] ∧ freeEvent (.requestAdmit 3) = true := by decide +kernel

/-! ## Classes 1 to 3 on carrier A -/

def writes (i : Instr) (s : State) (d : RegNo) (v : Word) : Bool := goesTo i s (s.result d v)
def traps (i : Instr) (s : State) (c : Nat) (v : Word) : Bool := goesTo i s (s.trap c v)

/-- g4 and g5. -/
def ab (x y : Word) : State := regs base [(4, x), (5, y)]

/-- R134 and R136 by hand. -/
theorem test_class1_results :
    writes (.add ⟨3, 4, 5, 0⟩) (ab (-1) 1) 3 0 ∧ writes (.sub ⟨3, 4, 5, 0⟩) (ab 0 1) 3 (-1) ∧
    writes (.addi ⟨3, 4, -5⟩) (ab 3 0) 3 (-2) ∧ writes (.movi ⟨3, 0, -1⟩) base 3 (-1) ∧
    writes (.mul ⟨3, 4, 5, 1⟩) (ab (-1) 2) 3 (-1) ∧ writes (.mul ⟨3, 4, 5, 2⟩) (ab (-1) 2) 3 1 ∧ writes (.mul ⟨3, 4, 5, 0⟩) (ab (-1) 2) 3 (-2) ∧
    writes (.andA ⟨3, 4, 5, 0⟩) (ab 12 10) 3 8 ∧ writes (.orA ⟨3, 4, 5, 0⟩) (ab 12 10) 3 14 ∧ writes (.xorA ⟨3, 4, 5, 0⟩) (ab 12 10) 3 6 ∧
    writes (.andn ⟨3, 4, 5, 0⟩) (ab 12 10) 3 4 ∧ writes (.shl ⟨3, 4, 5, 0⟩) (ab 3 65) 3 6 ∧
    writes (.shr ⟨3, 4, 5, 0⟩) (ab (-1) 63) 3 1 ∧ writes (.shr ⟨3, 4, 5, 1⟩) (ab (-8) 1) 3 (-4) ∧
    writes (.rotl ⟨3, 4, 5, 0⟩) (ab 0x8000000000000001 1) 3 3 ∧ writes (.clz ⟨3, 4, 0, 0⟩) (ab 1 0) 3 63 ∧ writes (.clz ⟨3, 4, 0, 0⟩) (ab 0 0) 3 64 ∧
    writes (.popc ⟨3, 4, 0, 0⟩) (ab (-1) 0) 3 64 ∧ writes (.min ⟨3, 4, 5, 0⟩) (ab (-1) 2) 3 (-1) ∧ writes (.min ⟨3, 4, 5, 1⟩) (ab (-1) 2) 3 2 ∧
    writes (.max ⟨3, 4, 5, 0⟩) (ab (-1) 2) 3 2 ∧ writes (.max ⟨3, 4, 5, 1⟩) (ab (-1) 2) 3 (-1) ∧
    writes (.sel ⟨3, 4, 5, 0⟩) (ab 7 9) 3 7 ∧ writes (.sel ⟨3, 4, 5, 2⟩) (ab 7 9) 3 9 ∧
    writes (.bfx ⟨3, 4, 5, 0⟩) (ab 0xF0 0x304) 3 15 ∧ writes (.bfx ⟨3, 4, 5, 1⟩) (ab 0xF0 0x304) 3 (-1) ∧
    writes (.bfx ⟨3, 4, 5, 0⟩) (ab 0xF000000000000000 0x3F3C) 3 15 ∧
    writes (.lea ⟨3, 4, 5, 3, 0xFFFFFFF⟩) (ab 16 2) 3 31 := by decide +kernel

theorem test_bfi_set_results :
    writes (.bfi ⟨3, 4, 5, 0⟩) (regs base [(3, 0xFF), (4, 0x5), (5, 0x304)]) 3 0x5F ∧
    writes (.setCond ⟨3, 4, 5, 0⟩) (ab 4 4) 3 1 ∧ writes (.setCond ⟨3, 4, 5, 1⟩) (ab 4 4) 3 0 ∧ writes (.setCond ⟨3, 4, 5, 2⟩) (ab (-1) 0) 3 1 ∧
    writes (.setCond ⟨3, 4, 5, 3⟩) (ab (-1) 0) 3 0 ∧ writes (.setCond ⟨3, 4, 5, 4⟩) (ab 0 0) 3 1 ∧ writes (.setCond ⟨3, 4, 5, 5⟩) (ab (-1) 0) 3 0 :=
  by decide +kernel

/-- IDZ flags by default; EXCMODE[11:10] = 2 traps with the dividend (R110, R136). -/
theorem witness_divide :
    writes (.div ⟨3, 4, 5, 0⟩) (ab (-7) 2) 3 (-3) ∧ writes (.rem ⟨3, 4, 5, 0⟩) (ab (-7) 2) 3 (-1) ∧ writes (.div ⟨3, 4, 5, 1⟩) (ab (-7) 2) 3 0x7FFFFFFFFFFFFFFC ∧
    writes (.rem ⟨3, 4, 5, 1⟩) (ab (-7) 2) 3 1 ∧ writes (.div ⟨3, 4, 5, 0⟩) (ab 0x8000000000000000 (-1)) 3 0x8000000000000000 ∧
    (let s := (ab 9 0).modMe fun t => { t with excmode := 0x0005 }
     s.me.excmode.extractLsb' 10 2 ≠ 2 ∧ (after (.div ⟨3, 4, 5, 0⟩) s).greg 3 = BitVec.allOnes 64 ∧ (after (.rem ⟨3, 4, 5, 0⟩) s).greg 3 = 9 ∧
       (after (.div ⟨3, 4, 5, 0⟩) s).me.excmode = 0x200005) ∧
    (let s := (ab 9 0).modMe fun t => { t with excmode := 0x0805, trapvec := 0x9001 }
     s.me.excmode.extractLsb' 10 2 = 2 ∧ (after (.rem ⟨3, 4, 5, 0⟩) s).me.trapval = 9 ∧ (after (.rem ⟨3, 4, 5, 0⟩) s).me.trapcause = 0x13 ∧
       (after (.rem ⟨3, 4, 5, 0⟩) s).me.pc = 0x9000) := by decide +kernel

theorem witness_branches :
    let p (v : BitVec 8) (g : SMap Word) : State := (regs base g).modMe fun t => { t with p := v }
    (after (.br ⟨0, 0, -4⟩) base).me.pc = 0x7FE0 ∧ (after (.call ⟨0, 0, 2⟩) base).me.pc = 0x8010 ∧ (after (.call ⟨0, 0, 2⟩) base).greg 31 = 0x8008 ∧
    (after (.brp ⟨3, 0, 2⟩) (p 8 [])).me.pc = 0x8010 ∧ (after (.brp ⟨3, 0, 2⟩) (p 0 [])).me.pc = 0x8008 ∧
    (after (.brp ⟨3, 1, 2⟩) (p 0 [])).me.pc = 0x8010 ∧ (after (.brp ⟨3, 1, 2⟩) (p 8 [])).me.pc = 0x8008 ∧ (after (.brp ⟨0, 1, 2⟩) (p 0 [])).me.pc = 0x8008 ∧
    (after (.bri ⟨3, 4, 0, 0⟩) (p 0 [(4, 0x8100)])).me.pc = 0x8100 ∧ (after (.bri ⟨3, 4, 0, 0⟩) (p 0 [(4, 0x8100)])).greg 3 = 0x8008 ∧
    (after (.bri ⟨4, 4, 0, 0⟩) (p 0 [(4, 0x8100)])).me.pc = 0x8100 ∧
    traps (.bri ⟨3, 4, 0, 0⟩) (p 0 [(4, 0x8101)]) 0x21 0x8101 ∧ (after (.ret ⟨0, 0, 0, 0⟩) (p 0 [(31, 0x8200)])).me.pc = 0x8200 ∧
    traps (.ret ⟨0, 0, 0, 0⟩) (p 0 [(31, 0x8204)]) 0x21 0x8204 := by decide +kernel

theorem test_predicates :
    (after (.pset ⟨7, 4, 5, 2⟩) (ab (-1) 0)).me.p = 0x80 ∧     (after (.pset ⟨1, 4, 5, 3⟩) ((ab (-1) 0).modMe fun t => { t with p := 2 })).me.p = 0 ∧
    (after (.plogic ⟨1, 0, 6, 4⟩) base).me.p = 2 ∧ (after (.plogic ⟨1, 0, 6, 0⟩) base).me.p = 0 ∧ (after (.plogic ⟨1, 6, 0, 1⟩) base).me.p = 2 ∧
    (after (.plogic ⟨1, 0, 0, 2⟩) base).me.p = 0 ∧ (after (.plogic ⟨1, 6, 0, 3⟩) base).me.p = 2 := by decide +kernel

/-- The thread t5 of m0.d3.x4.y2 (R145). -/
theorem witness_tid :
    let s := ({ base with cur := { base.cur with th := (3 * 256 + 2 * 16 + 4) * 8 + 5 } } : State)
    s.cur.th = (3 * 256 + 2 * 16 + 4) * 8 + 5 ∧ s.cur.th < 576 * 32768 ∧ (after (.tid ⟨3, 0, 0, 0⟩) s).greg 3 = 0x00032405 ∧
    (let w : Word := 0x0890300010000000
     w.extractLsb' 62 2 = 0 ∧ w.extractLsb' 52 10 = 0x089 ∧ w.extractLsb' 28 16 ≠ 0) := by decide +kernel

theorem witness_nop_fields :
    let s := base.writeNat 0x8000 8 0x08A0100000000000
    let w := s.homeWord s.myDie 0x8000
    s.inCode s.cur.th s.me.pc = true ∧ (translateAt s s.myTile (s.taskAsid (s.me.task.getD 0)) s.me.pc false).toOption = some 0x8000 ∧ s.homeUp s.myDie 0x8000 = true ∧
    s.me.waitsFor w = false ∧ w.extractLsb' 62 2 = 0 ∧ w.extractLsb' 52 10 = 0x08A ∧ w.extractLsb' 28 21 ≠ 0 := by decide +kernel

/-- A second thread of the task's allotment (R377). -/
def two : State :=
  base.modDie 0 fun d => { d with runs := [(1, { run1 with tiles := [(0, { TaskTile.reset with thrCount := 2 })] })] }

theorem witness_thread_start :
    let s := two
    let full := s.modThread 1 fun t => { t with running := true }
    s.inCode 0 (s.cur.pc + 8 * (2 : BitVec 39).signExtend 64) = true ∧ s.me.task = some 1 ∧
    (s.allotted 1 s.myTile).find? (fun x => !(s.thread x).running) = some 1 ∧ (1 : Nat) ≠ s.cur.th ∧
    ((after (.tstart ⟨3, 4, 2⟩) s).thread 1).running = true ∧ ((after (.tstart ⟨3, 4, 2⟩) s).thread 1).pc = 0x8010 ∧
    (after (.tstart ⟨3, 4, 2⟩) s).greg 3 = 1 ∧
    (∀ th ∈ full.allotted 1 full.myTile, (full.thread th).running = true) ∧ writes (.tstart ⟨3, 4, 2⟩) full 3 (BitVec.allOnes 64) ∧
    s.inCode 0 (s.cur.pc + 8 * (-2 : BitVec 39).signExtend 64) = false ∧ traps (.tstart ⟨3, 4, -2⟩) s 0x21 0x7FF0 ∧
    (after (.tstop ⟨0, 0, 0, 0⟩) s).me.running = false := by decide +kernel

/-- WAITF on a SCRATCH word that holds 5 (R147). -/
def waiting (v : Nat) : State := (regs base [(4, 0x100), (5, 5)]).poolWrite 0 0x100 (natToBytes 8 v)

theorem witness_waitf :
    let s := waiting 5
    let u := waiting 6
    let w : Wait := { addr := 0x100, f := 0, y := 5, dest := .g 3, start := u.cycleOf 0, timeout := 0 }
    poolOk s s.myTask s.myTile 0x100 4 false = true ∧ s.waitReady 0 w = true ∧ u.waitReady 0 w = false ∧
    poolOk s s.myTask s.myTile 0x1000000 4 false = false ∧ (0x102 : Word).toNat % 4 ≠ 0 ∧
    (after (.waitf ⟨3, 4, 5, 0, 1⟩) s).greg 3 = 1 ∧ (after (.waitf ⟨3, 4, 5, 0, 0⟩) u).greg 3 = 0 ∧ (after (.waitf ⟨3, 4, 5, 0, 0⟩) u).me.pc = 0x8008 ∧
    (after (.waitf ⟨3, 4, 5, 0, 1⟩) u).me.pc = 0x8000 ∧ ((after (.waitf ⟨3, 4, 5, 0, 1⟩) u).me.wait).isSome = true ∧
    (let v := u.modMe fun t => { t with wait := some w }
     v.me.wait = some w ∧ w.timeout ≤ v.cycleOf v.myTile - w.start ∧ (after .waitfTimeout v).greg 3 = 0 ∧ (after .waitfTimeout v).me.wait = none ∧
       after .waitfSatisfied v = v) ∧
    (let v := s.modMe fun t => { t with wait := some w }
     v.me.wait = some w ∧ v.waitReady 0 w = true ∧ (after .waitfSatisfied v).greg 3 = 1 ∧ (after .waitfSatisfied v).me.pc = 0x8008) := by
  decide +kernel

/-- FP32 in f (R148): 1.5 + 2.25, 1 / 3, sqrt of -1; INV in TRAP mode. -/
theorem witness_float :
    writes (.fadd ⟨3, 4, 5, 16⟩) (ab 0x3FC00000 0x40100000) 3 0x40700000 ∧ writes (.fsub ⟨3, 4, 5, 16⟩) (ab 0x3FC00000 0x40100000) 3 0xBF400000 ∧
    writes (.fmul ⟨3, 4, 5, 16⟩) (ab 0x3FC00000 0x40000000) 3 0x40400000 ∧
    (after (.fdiv ⟨3, 4, 5, 16⟩) (ab 0x3F800000 0x40400000)).greg 3 = 0x3EAAAAAB ∧
    (after (.fsqrt ⟨3, 4, 0, 16⟩) (ab 0x40800000 0)).greg 3 = 0x40000000 ∧
    (after (.ffma ⟨3, 4, 5, 16⟩) (regs base [(3, 0x3F800000), (4, 0x40000000), (5, 0x40400000)])).greg 3 = 0x40E00000 ∧
    (let s := (ab 0xBF800000 0).modMe fun t => { t with excmode := 0x0006 }
     judge s.me.modes (xsqrt ((scalarType 16).read s.me.ftz 0xBF800000)).raised = .trap 0x10 ∧
       (after (.fsqrt ⟨3, 4, 0, 16⟩) s).me.trapval = 0xBF800000 ∧ (after (.fsqrt ⟨3, 4, 0, 16⟩) s).me.trapcause = 0x10) := by decide +kernel

theorem witness_float_select :
    let t := scalarType 16
    (t.read base.me.ftz 0x7FC00000).isNaN = true ∧ (t.read base.me.ftz 0x40000000).isNaN = false ∧
    writes (.fmin ⟨3, 4, 5, 16⟩) (ab 0x7FC00000 0x40000000) 3 0x40000000 ∧ writes (.fmax ⟨3, 4, 5, 16⟩) (ab 0x40000000 0x7FC00000) 3 0x40000000 ∧
    writes (.fmin ⟨3, 4, 5, 16⟩) (ab 0x80000000 0) 3 0x80000000 ∧ writes (.fmax ⟨3, 4, 5, 16⟩) (ab 0x80000000 0) 3 0 ∧
    (base.me.excmode.extractLsb' 0 2 ≠ 2) ∧ (after (.fcmp ⟨1, 4, 5, 17⟩) (ab 0x7FC00000 0)).me.excmode = 0x10405 ∧
    (after (.fcmp ⟨1, 4, 5, 16⟩) (ab 0x80000000 0)).me.p = 2 ∧ (after (.fcmp ⟨1, 4, 5, 17⟩) (ab 0xBF800000 0)).me.p = 2 ∧
    (after (.fcmp ⟨1, 4, 5, 18⟩) (ab 0 0)).me.p = 2 ∧ (after (.fcmp ⟨1, 4, 5, 19⟩) (ab 0 0x7FC00000)).me.p = 2 ∧ (after (.fcmp ⟨1, 4, 5, 20⟩) (ab 0 0)).me.p = 0 ∧
    writes (.fclass ⟨3, 4, 0, 16⟩) (ab 0x7FC00000 0) 3 0x100 ∧
    (let s := ab 0x3FC00000 0
     let v := fcvtValue 0 5 ⟨.rne, false⟩ s.me.ftz 0x3FC00000
     judge s.me.modes v.2 = .clean) := by decide +kernel

/-! ## Traps and interrupts -/

theorem witness_trap_entry :
    let s := base.modMe fun t => { t with trapvec := 0x9001, p := 0x82, uih := true }
    let u := s.takeTrap 0 0x21 false false 0x8000 5
    let v := u.takeTrap 0 0xB0 false true 0x9000 6
    s.me.hnd = false ∧ s.me.trapvec.getLsbD 0 = true ∧ u.me.hnd = true ∧ u.me.pc = 0x9000 ∧ u.me.trapcause = 0x41040021 ∧
    v.me.running = false ∧ v.me.hnd = false ∧ v.net.length = 1 ∧ base.me.trapvec.getLsbD 0 = false := by decide +kernel

theorem witness_trap_return :
    let s := base.modMe fun t => { t with hnd := true, trappc := 0x8100, trapcause := 0x82040010, p := 0 }
    base.me.hnd = false ∧ s.me.hnd = true ∧ s.me.trapcause.getLsbD 16 = false ∧ traps (.eret ⟨0, 0, 0, 0⟩) base 1 0x1234 ∧
    (after (.eret ⟨0, 0, 0, 0⟩) s).me.pc = 0x8100 ∧ (after (.eret ⟨0, 0, 0, 0⟩) s).me.p = 4 ∧ (after (.eret ⟨0, 0, 0, 0⟩) s).me.uih = true ∧
    (after (.eret ⟨0, 0, 0, 0⟩) s).me.hnd = false ∧ traps (.trap ⟨0, 0, -7⟩) base 0xB0 (-7) := by decide +kernel

theorem witness_interrupts :
    let d : Deferred := { code := 0x0031, va := 0x4000, req := some 9 }
    let s := base.modMe fun t => { t with deferred := [d], trapvec := 0x9001 }
    let u := base.modMe fun t => { t with preempt := true, trapvec := 0x9001 }
    let v := base.modMe fun t => { t with uivec := 0x9101, uistat := 0x23, p := 0x82, pend := 8 }
    s.me.deferred = [d] ∧ (after .deferredTrapEntry s).me.trapcause = 0x00010031 ∧ (after .deferredTrapEntry s).me.trappc = 0x8000 ∧
    u.me.preempt = true ∧ u.me.hnd = false ∧ (after .preemptInterruptTake u).me.trapcause = 0xB2 ∧
    v.me.uivec.getLsbD 0 = true ∧ v.me.uistat.extractLsb' 4 4 ≠ 0 ∧ v.me.uih = false ∧
    mapGet 0 (after .userInterruptTake v).me.h 0 = 0x8000 ∧ (mapGet 0 (after .userInterruptTake v).me.h 1).extractLsb' 0 11 = 0x412 ∧
    (after .userInterruptTake v).me.pc = 0x9100 ∧ (after .userInterruptTake v).me.uistat = 3 := by decide +kernel

/-! ## Nodes of classes 1, 4 and 5 -/

/-- The firing at hand. -/
def fireOf (i : Instr) (n : NRec) (l r c : List TWord) : State := atNode (firing i n l r c)

def nw (x : Word) : TWord := ⟨x, false, false, false⟩

def emits (i : Instr) (s : State) (ws : List TWord) : Bool :=
  goesTo i s (((s.beginFire).traceFire s.cur.fir s.cur.fir.tag ws).emit s.cur.fir s.cur.fir.tag ws)

theorem witness_integer_nodes :
    let n := { nrec with etype := .i32, rnd := 1 }
    let s := fireOf .addNode n [nw 5, nw (-1)] [nw 6, nw 2] [nw 1, nw 0]
    let z := fireOf .addNode n [nw 5] [nw 0] []
    let f := s.cur.fir
    f.eos = false ∧ f.nul = false ∧ emits .addNode s [nw 11, nw 1] ∧ emits .mulNode s [nw 0, nw 0xFFFFFFFF] ∧
    emits .selNode s [nw 5, nw 2] ∧ emits .clzNode s [nw 29, nw 0] ∧
    z.cur.fir.eos = false ∧ z.cur.fir.nul = false ∧ z.beginFire.taskModes 1 / 4 ^ 5 % 4 ≠ 2 ∧
    emits .remNode z [⟨5, z.beginFire.taskModes 1 / 4 ^ 5 % 4 == 1, false, false⟩] := by decide +kernel

theorem witness_node_end_and_null :
    let e := (fireOf .addNode nrec [nw 3] [] [])
    let s := { e with cur := { e.cur with fir := { e.cur.fir with eos := true } } }
    let u := fireOf .addNode nrec [nw 3] [⟨0, true, true, false⟩] []
    s.cur.fir.eos = true ∧ u.cur.fir.eos = false ∧ u.cur.fir.nul = true ∧ emits .vaddNode u [⟨0, true, true, false⟩] ∧
    goesTo .vsinNode s ((s.beginFire.traceFire s.cur.fir 0 [nw 3]).emitE s.cur.fir 0 3 false) := by decide +kernel

theorem witness_vector_nodes :
    let s := fireOf .vaddNode { nrec with etype := .fp32 } [nw 0x3F800000, nw 0x40000000] [nw 0x3F800000, nw 0x40400000] []
    let f := s.cur.fir
    let ws := packElems .fp32 (mapElemsN (eAdd .fp32 (nodeRnd 0) (s.beginFire.taskFtz 1)) (unpackWords .fp32 (words32 f.l))
      (unpackWords .fp32 (words32 f.r)) [])
    let v := eRedSum .fp32 (nodeRnd 0) (s.beginFire.taskFtz 1) (unpackWords .fp32 (words32 f.l))
    f.eos = false ∧ f.nul = false ∧ (∀ w ∈ ws, judge (s.beginFire.taskModes 1) w.2 = .clean) ∧ emits .vaddNode s [nw 0x40000000, nw 0x40A00000] ∧
    judge (s.beginFire.taskModes 1) v.2 = .clean ∧ emits .vredsumNode s [nw 0x40400000] ∧
    (∀ w ∈ packElems .fp32 (eScan .fp32 (nodeRnd 0) (s.beginFire.taskFtz 1) (unpackWords .fp32 (words32 f.l))), judge (s.beginFire.taskModes 1) w.2 = .clean) ∧
    emits .vscanNode s [nw 0x3F800000, nw 0x40400000] ∧ emits .vpackNode s [nw 0x3F800000, nw 0x40000000] ∧
    (∀ x ∈ spreadNode .fp32 clean s.beginFire f, ∀ w ∈ x.2, judge (s.beginFire.taskModes 1) w.2 = .clean) ∧
    emits .vunpackNode s [nw 0x3F800000, nw 0x40000000] ∧ emits .viotaNode s [nw 0, nw 0x3F800000] := by decide +kernel

/-! ## Commands of the vector and matrix engines -/

/-- The task's tile with shape 0: M = N = 16, K = 32, FP16 both, strides 64 bytes (R182). -/
def shape0 : Word := 3 <<< 11 ||| 3 <<< 15 ||| 4 <<< 20 ||| 4 <<< 32

def shaped (g : SMap Word) : State :=
  (regs base g).modDie 0 fun d =>
    { d with runs := [(1, { run1 with tiles := [(0, { TaskTile.reset with shapes := [(0, shape0 ||| 0x8000000000000000)] })] })] }

/-- On a memory tile. -/
def onMem : State :=
  { base with threads := [(8, thread1)], tiles := [(1, tile1)], cur := { base.cur with th := 8 } }

/-- The thread's queue of an engine holds two commands. -/
def filled (e : Nat) (s : State) : State := s.modMe fun t => t.setQueue e [default, default]

theorem witness_sweeps :
    let s := regs base [(6, 0x0020010080004000), (7, 0x0020200080008000), (8, 0x002000008000C000)]
    let bad := regs base [(6, 0x1020010080004000)]
    let i := Instr.vadd ⟨6, 7, 8⟩
    isMemTile s.myTile = false ∧ descError i (s.greg 6) (s.greg 7) (s.greg 8) = none ∧ (s.me.queue 1).length < 2 ∧
    ((after i s).me.queue 1).length = 1 ∧ (after i s).me.issued 1 = 1 ∧ (after i s).me.pc = 0x8000 ∧
    2 ≤ ((filled 1 s).me.queue 1).length ∧ (after i (filled 1 s)).cur.held = true ∧
    descError i (bad.greg 6) (bad.greg 7) (bad.greg 8) = some 0x1020010080004000 ∧ traps i bad 3 0x1020010080004000 ∧
    isMemTile onMem.myTile = true ∧ traps i onMem 1 0x1234 := by decide +kernel

theorem witness_vector_engine :
    let i := Instr.vadd ⟨6, 7, 8⟩
    let s := after i (regs base [(6, 0x0020010080004000), (7, 0x0020200080008000), (8, 0x002000008000C000)])
    let c := ((s.me.queue 1).head?).getD default
    let t := after (.vectorEngineTake 0) s
    s.stopped 0 = false ∧ (s.tile 0).vecRun = none ∧ nextServed s 0 (s.tile 0).vecLast 1 = some 0 ∧ s.me.queue 1 = [c] ∧ c.th = some 0 ∧
    (t.tile 0).vecRun = some c ∧ t.stopped 0 = false ∧ t.me.tlOut = [] ∧ BitVec.ofNat 64 c.num = t.me.counter 1 + 1 ∧
    (after (.vectorCommandComplete 0) t).me.counter 1 = 1 ∧ ((s.modMe fun t => { t with err := [(1, 0x10000)] }).me.errValid 1) = true := by
  decide +kernel

theorem witness_pool_write :
    let s := base.poolWrite 0 0x1FFFFE [1, 2]
    memWf base.mem = true ∧ poolKey base 0 0x1FFFFE ≠ poolKey base 0 0x1FFFFF ∧ s.poolByte 0 0x1FFFFF = 2 ∧ s.poolByte 0 0x1FFFFE = 1 := by decide +kernel

theorem witness_matrix_issue :
    let s := shaped [(3, 0x4000), (4, 0x8000), (5, 0xC000)]
    let i := Instr.mma ⟨3, 4, 5, 0⟩
    let sh := s.shape (s.myTask.getD 0) s.myTile 0
    isMemTile s.myTile = false ∧ mtxError i sh 0x4000 0x8000 0xC000 = none ∧ (s.me.queue 2).length < 2 ∧
    ((after i s).me.queue 2).length = 1 ∧ 2 ≤ ((filled 2 s).me.queue 2).length ∧ (after i (filled 2 s)).cur.held = true ∧
    mtxError (.mma ⟨3, 4, 5, 1⟩) (s.shape 1 0 1) 0x4000 0x8000 0xC000 = some 0 ∧ traps (.mma ⟨3, 4, 5, 1⟩) s 3 0 ∧
    traps i onMem 1 0x1234 ∧ traps (.mshape ⟨0, 4, 0, 1⟩) onMem 1 0x1234 := by decide +kernel

theorem witness_mshape :
    let s := regs base [(4, shape0)]
    shapeValid shape0 = true ∧ s.myTask = some 1 ∧ (s.run? 1).isSome = true ∧
    (after (.mshape ⟨0, 4, 0, 7⟩) s).shape 1 0 7 = shape0 ||| 0x8000000000000000 ∧ shapeValid (shape0 ||| 0x80000) = false ∧
    traps (.mshape ⟨0, 4, 0, 7⟩) (regs base [(4, shape0 ||| 0x80000)]) 3 (shape0 ||| 0x80000) := by decide +kernel

/-- A matrix node on one scalar token: L and R are the two addresses, C the accumulator (R179). -/
def mtxFiring (i : Instr) (l r c : List TWord) : State :=
  let s := shaped []
  { s with cur := { Cur.reset with fir := firing i { nrec with arity := .three, etype := .i32 } l r c } }

theorem witness_matrix_nodes :
    let s := mtxFiring .mmaNode [nw 0x8000] [nw 0xC000] [nw 0x4000]
    let f := s.cur.fir
    let full := s.modTile 0 fun x => { x with mtxNode := [default, default] }
    let late := s.setPlaces 0 2 ⟨[], s.cycleOf 0, f.pe + 1⟩
    s.placed 0 2 = [] ∧ (s.places 0 2).pe ≤ f.pe ∧ (late.places 0 2).cycle = late.cycleOf 0 ∧ f.pe < (late.places 0 2).pe ∧
    (after .mmaNode late).cur.held = true ∧ ((after .mmaNode full).places 0 2).held.length = 1 ∧ f.eos = false ∧ 2 ≤ (full.tile 0).mtxNode.length ∧ (s.tile 0).mtxNode.length < 2 ∧ (s.scalars f).map (fun g => (g.nul, g.anyP)) = [(false, false)] ∧
    (∀ g ∈ s.scalars f, (mtxNodeOps (.mma (nodeAR f)) g).excess = none ∧
      mtxError (.mma (nodeAR f)) (s.shape 1 0 0) (mtxNodeOps (.mma (nodeAR f)) g).d (mtxNodeOps (.mma (nodeAR f)) g).a (mtxNodeOps (.mma (nodeAR f)) g).b = none) ∧
    ((after .mmaNode s).tile 0).mtxNode.length = 1 ∧ (after .mmaNode full).cur.held = true := by decide +kernel

theorem witness_mshape_node :
    let s := mtxFiring .mshapeNode [⟨shape0, false, false, true⟩] [] []
    let f := s.cur.fir
    f.eos = false ∧ (∀ g ∈ s.scalars f, g.nul = false ∧ g.anyP = false ∧ shapeValid (nodeShape g) = true) ∧ (s.scalars f).length = 1 ∧
    (s.run? 1).isSome = true ∧ (after .mshapeNode s).shape 1 0 0 = shape0 ||| 0x8000000000000000 := by decide +kernel

theorem witness_matrix_engine :
    let s0 := after (.mzero ⟨3, 0, 0, 0⟩) (shaped [(3, 0x4000)])
    let c := ((s0.me.queue 2).head?).getD default
    let s := (s0.modMe fun t => t.setQueue 2 []).modTile 0 fun x => { x with mtxSeq := [c], mtxSeqNext := true, poolpart := 0xFFFFFFFFFFFFFFFF }
    let u := after (.matrixEngineTake 0) s
    let d := ((u.tile 0).mtxRun.head?).getD default
    s.stopped 0 = false ∧ isMemTile 0 = false ∧ (mtxFeed 0 2 s).tile 0 = s.tile 0 ∧
    (s.tile 0).mtxSeq = [c] ∧ isFetch c = false ∧ (s.tile 0).mtxRun = [] ∧ (mtxPerform c 0 s).toOption.isSome = true ∧ (u.tile 0).mtxRun[0]? = some d ∧ d.th = some 0 ∧ u.me.tlOut = [] ∧
    BitVec.ofNat 64 d.num = u.me.counter 2 + 1 ∧ (after (.matrixOperationComplete 0 0) u).me.counter 2 = 1 := by decide +kernel

theorem witness_matrix_node_completion :
    let f := (mtxFiring .mzeroNode [nw 0] [nw 0] [nw 0x4000]).cur.fir
    let c : EngCmd := { (default : EngCmd) with op := .mzero (nodeAR f), d := 0x4000, fir := f, aux := [] }
    let s := (shaped []).modTile 0 fun x => { x with mtxRun := [c] }
    s.stopped 0 = false ∧ (s.tile 0).mtxRun[0]? = some c ∧ c.th = none ∧ c.aux.getD 2 0 = 0 ∧
    ((after (.matrixOperationComplete 0 0) s).tile 0).mtxRun = [] := by decide +kernel

/-- MZERO clears 1 KiB at 0x4000 and nothing else. -/
theorem witness_mzero :
    let s := ((shaped []).modTile 0 fun x => { x with poolpart := 0xFFFFFFFFFFFFFFFF }).poolWrite 0 0x3FFF [7, 7]
    let c : EngCmd := { (default : EngCmd) with op := .mzero ⟨3, 0, 0, 0⟩, d := 0x4000, shape := shape0 ||| 0x8000000000000000, task := 1, th := some 0 }
    memWf s.mem = true ∧ c.op = .mzero ⟨3, 0, 0, 0⟩ ∧
    (match mtxPerform c 0 s with
     | .ok (u, r) => r == 0 && u.poolByte 0 0x4000 == 0 && u.poolByte 0 0x3FFF == 7
     | .error _ => false) = true := by decide +kernel

/-! ## Memory -/

theorem noWatch_of (s : State) (tile asid : Nat) (h : ∀ n, n < 4 → s.dbg tile (0x48 + 16 * n) = 0) : NoWatch s tile asid := by
  intro kind pool va n
  simp only [State.watchMatch, List.find?_eq_none, List.mem_range]
  intro k hk
  simp [h k hk]

theorem base_noWatch : NoWatch base 0 1 := noWatch_of base 0 1 (by decide +kernel)

def lastReq (s : State) : Req := (s.reqs.getLast?).getD default

/-- The instruction puts in one request and goes on. -/
def sends (i : Instr) (s : State) (op : ReqOp) (va : Word) (dest : Option RegNo) : Bool :=
  let t := after i s
  let r := lastReq t
  t.reqs.length == s.reqs.length + 1 && r.op == op && r.va == va && r.stage == .walk && r.slot && t.me.pc == s.cur.pc + 8 && t.me.g == s.me.g &&
    t.mem == s.mem && t.tiles == s.tiles && t.dies == s.dies &&
    match dest with
    | some d => r.who == .thread s.cur.th (s.me.preg d) true && t.me.ldout == s.me.ldout + 1 && t.me.pending (s.me.preg d)
    | none => r.who == .thread s.cur.th .none false && t.me.ldout == s.me.ldout && t.me.pend == s.me.pend

theorem witness_global_access :
    let s := regs base [(3, 0x55), (4, 0x10000), (5, 4096)]
    let full := s.modMe fun t => { t with ldout := 4 }
    let imm (k c : Nat) : BitVec 39 := BitVec.ofNat 39 (8 * k + c)
    s.slotFree s.myTile = true ∧ s.bankFree s.myTile (s.peekPa s.myDie s.myAsid 0x10008 false) = true ∧
    s.bankFree s.myTile (s.peekPa s.myDie s.myAsid 0x10008 true) = true ∧ s.me.flush = [] ∧ s.me.ldout < 4 ∧ 4 ≤ full.me.ldout ∧
    sends (.ld ⟨6, 4, imm 8 3⟩) s (.load 8 false) 0x10008 (some 6) ∧ sends (.ld ⟨6, 4, imm 1 4⟩) s (.load 1 true) 0x10001 (some 6) ∧
    sends (.st ⟨3, 4, imm 6 1⟩) s (.store 2 0x55) 0x10006 none ∧ (after (.ld ⟨6, 4, imm 8 3⟩) full).cur.held = true ∧
    traps (.ld ⟨6, 4, imm 4 3⟩) s 0x21 0x10004 ∧ traps (.st ⟨6, 5, imm 0 3⟩) (regs base [(5, 0x0100000000000000)]) 0x21 0x0100000000000000 ∧
    sends (.isread ⟨6, 4, 0, 0⟩) s .isread 0x10000 (some 6) ∧ sends (.iswrite ⟨0, 4, 3, 0⟩) s (.iswrite 0x55) 0x10000 none ∧
    sends (.isclr ⟨0, 4, 5, 0⟩) s (.isclr 4096 4096) 0x10000 none ∧ traps (.isclr ⟨0, 4, 6, 0⟩) s 0x21 0 ∧
    traps (.isclr ⟨0, 4, 5, 0⟩) (regs base [(4, 0x10000), (5, 4097)]) 0x21 4097 ∧ traps (.isread ⟨6, 4, 0, 0⟩) (regs base [(4, 0x10004)]) 0x21 0x10004 := by
  decide +kernel

theorem witness_pool_access :
    let s := (regs base [(3, 0x8081828384858687), (4, 0x100)]).poolWrite 0 0x100 [0x80, 0x01]
    let imm (k c : Nat) : BitVec 39 := BitVec.ofNat 39 (8 * k + c)
    memWf s.mem = true ∧ poolOk s s.myTask s.myTile 0x100 8 false = true ∧ poolOk s s.myTask s.myTile 0x200000 1 false = false ∧
    s.poolPoisoned 0 0x100 8 = false ∧ (({ s with ecc := [poolKey s 0 0x100 / 8] } : State).poolPoisoned 0 0x100 1 = true) ∧
    s.writable (poolKey s 0 0x100) 8 = true ∧
    writes (.ldp ⟨6, 4, imm 0 0⟩) s 6 0x80 ∧ writes (.ldp ⟨6, 4, imm 0 4⟩) s 6 0xFFFFFFFFFFFFFF80 ∧ writes (.ldp ⟨6, 4, imm 0 1⟩) s 6 0x180 ∧
    (after (.stp ⟨3, 4, imm 2 1⟩) s).poolByte 0 0x102 = 0x87 ∧ (after (.stp ⟨3, 4, imm 2 1⟩) s).poolByte 0 0x103 = 0x86 ∧
    (after (.stp ⟨3, 4, imm 2 1⟩) s).poolByte 0 0x101 = 1 ∧ (after (.stp ⟨3, 4, imm 2 1⟩) s).poolByte 0 0x104 = 0 ∧
    traps (.ldp ⟨6, 4, imm 1 1⟩) s 0x21 0x101 ∧ traps (.stp ⟨6, 4, imm 0x1FFF00 0⟩) s 0x21 0x200000 ∧
    traps (.ldp ⟨6, 4, imm 0 0⟩) { s with ecc := [poolKey s 0 0x100 / 8] } 0xC0 0x100 := by decide +kernel

/-- A line of a cache bank: the memory tile 1 next to tile 0 holds line 0x10000 / 128. -/
def cached : State :=
  (regs base [(4, 0x10000)]).modTile 1 fun x => { x with mrole := 2, cache := [(0x10000 / 128, List.replicate 128 9)] }

theorem witness_cache :
    let s := cached
    s.slotFree s.myTile = true ∧ s.bankFree s.myTile (s.peekPa s.myDie s.myAsid 0x10000 false) = true ∧ (0x10000 : Word).extractLsb' 56 8 = 0 ∧
    s.peekPa s.myDie s.myAsid 0x10000 false = some 0x10000 ∧ (s.reqs.all fun r => r.thread? != some s.cur.th) = true ∧
    ((after (.pref ⟨0, 4, 0⟩) s).reqs.map (·.op)) = [.pref] ∧ (after (.pref ⟨0, 4, 0⟩) s).me.pc = 0x8008 ∧
    goesTo (.pref ⟨0, 4, 0⟩) (regs base [(4, 0x0100000000000000)]) (regs base [(4, 0x0100000000000000)]).advance ∧
    ((after (.cinv ⟨0, 4, 0⟩) s).tile 1).cache = [] ∧ ((after (.cflush ⟨0, 4, 0⟩) s).tile 1).cache = [] ∧
    (after (.cflush ⟨0, 4, 0⟩) s).me.pc = 0x8008 := by decide +kernel

/-- A class-8 firing of one scalar: the global address 0x10000 on L and a datum on R. -/
def memFiring (i : Instr) (rnd : BitVec 3) (l r : TWord) : State :=
  fireOf i { nrec with arity := .two, etype := .i32, rnd := rnd } [l] [r] []

def wide (x : Word) : TWord := ⟨x, false, false, true⟩

theorem memFiring_noWatch : NoWatch (memFiring .ldx 3 (wide 0x10000) (wide 7)) 0 1 := noWatch_of _ 0 1 (by decide +kernel)

/-- What a node's one request is. -/
def asks (i : Instr) (s : State) (op : ReqOp) (va : Word) (wave : Bool) : Bool :=
  let t := after i s
  let r := lastReq t
  t.reqs.length == s.reqs.length + 1 && r.op == op && r.va == va && r.tile == tileOfPe s.cur.fir.pe && t.mem == s.mem &&
    (r.slot == (r.stage != .held)) && match r.who with
      | .node _ w => w == wave
      | _ => false

theorem witness_memory_nodes :
    let s := memFiring .ldx 3 (wide 0x10000) (wide 7)
    let w := memFiring .ldw 3 (wide 0x10000) (wide 7)
    let x := memFiring .stw 2 (wide 0x10004) (wide 7)
    let f := s.cur.fir
    f.eos = false ∧ s.contextHolds f = false ∧ s.queueLen 0 < 64 ∧ (s.scalars f).length = 1 ∧ (s.scalars f).all (fun g => !g.nul) = true ∧
    (f.l ++ f.r).any (·.p) = false ∧ wordOf f.l = 0x10000 ∧ asks .ldx s (.load 8 false) 0x10000 false ∧ asks .stx s (.store 8 7) 0x10000 false ∧
    (s.tile 0).waves = [] ∧ f.node.r.litWpred = 0 ∧ s.waveRoom 0 = true ∧ w.cur.fir.node.op = .ldw ∧ asks .ldw w (.load 8 false) 0x10000 true ∧
    asks .stw x (.store 4 7) 0x10004 true ∧
    asks .isreadNode s .isread 0x10000 false ∧ asks .iswriteNode s (.iswrite 7) 0x10000 false ∧ asks .isclrNode s (.isclr 7 7) 0x10000 false := by
  decide +kernel

/-- A wave operation with a predecessor waits in its wave; a fence of its context holds a later access (R253, R324). -/
theorem witness_wave_and_fence_hold :
    let w := fireOf .ldw { nrec with arity := .two, etype := .i32, rnd := 3, lit32 := 0x03020000 } [wide 0x10000] [wide 7] []
    let t := after .ldw w
    let s := memFiring .ldx 3 (wide 0x10000) (wide 7)
    let n : NodeFence := { fir := s.cur.fir, th := none, act := .done, reqs := [9], firs := [], cmds := [], snap := default }
    let h := s.modTile 0 fun x => { x with fences := [n] }
    w.contextHolds w.cur.fir = false ∧ (w.tile 0).waves = [] ∧ w.cur.fir.node.r.litWpred = 2 ∧ w.cur.fir.node.r.litWown = 3 ∧
    (w.scalars w.cur.fir).length = 1 ∧ (t.tile 0).waves.map (fun x => (x.waiting.length, x.admitted)) = [(1, true)] ∧ t.reqs = [] ∧
    h.contextHolds h.cur.fir = true ∧ (after .ldx h).cur.held = true ∧ h.cur.fir.eos = false := by decide +kernel

theorem witness_memory_nodes_poison_pool_end :
    let s := memFiring .ldx 3 ⟨0x10000, true, false, true⟩ (wide 7)
    let p := memFiring .ldx 6 (nw 0x104) (wide 7)
    let e := { s with cur := { s.cur with fir := { s.cur.fir with eos := true } } }
    let c := memFiring .stx 3 (wide 0x10000) (wide 7)
    let full := { c with reqs := (List.range 240).map fun k => { (default : Req) with id := k, who := .node c.cur.fir false, tile := 0, stage := if k < 176 then .transit else .held, slot := k < 176 } }
    s.cur.fir.l.any (·.p) = true ∧ poolOk p (some 1) 0 0x104 4 false = true ∧ asks .ldx p (.load 4 false) 0x104 false ∧
    e.cur.fir.eos = true ∧ full.contextHolds full.cur.fir = false ∧ 64 < ((full.scalars full.cur.fir).foldl (plainAccess nodeStore) full).queueLen 0 ∧ (after .stx full).cur.held = true ∧
    goesTo .ldx s ((s.clearPass s.cur.fir).beginFire.traceFire s.cur.fir 0 s.cur.fir.l |>.nodeResult
      (((s.scalars s.cur.fir).head?).getD default) 0 true false) := by decide +kernel

/-- Request 7 of thread 0, for a register, at an address that maps to itself. -/
def req7 (op : ReqOp) (st : Stage) : Req :=
  { (default : Req) with id := 7, who := .thread 0 (.g 6) true, tile := 0, task := 1, asid := 1, op := op, va := 0x10000, pa := 0x10000, stage := st, slot := true }

def withReq (r : Req) : State := { (base.modMe fun t => { t with ldout := 1, pend := 64 }) with reqs := [r] }

theorem witness_admit :
    let q := { req7 (.load 8 false) .held with slot := false }
    let s := withReq q
    memWf s.mem = true ∧ s.req? 7 = some q ∧ q.stage = .held ∧ s.slotFree q.tile = true ∧ s.stopped q.tile = false ∧
    ((s.reqs.find? fun x => x.tile == q.tile && x.stage == .held && s.bankFree x.tile (s.reqPa x)).map (·.id)) = some 7 ∧
    (after (.requestAdmit 7) s).reqs.map (fun r => (r.id, r.stage, r.slot)) = [(7, .walk, true)] := by decide +kernel

theorem witness_walk :
    let q := req7 (.store 8 5) .walk
    let f := { q with va := 0x40000000 }
    let s := withReq q
    let u := withReq f
    s.req? 7 = some q ∧ q.stage = .walk ∧ q.after = [] ∧ s.stopped q.tile = false ∧
    lookupPage u 0 1 0x40000000 (Config.freeNat u.tick 1) (Config.freeNat u.tick 2) = .fault cPageFault ∧
    (match lookupPage s 0 1 0x10000 (Config.freeNat s.tick 1) (Config.freeNat s.tick 2) with
      | .page e => (checkPage (s.holdPage 0 e) 0 e 0x10000 true).toOption == some 0x10000 && (s.holdPage 0 e).isPeer 0 0x10000 == false
      | _ => false) = true ∧
    (after (.translationWalkComplete 7) s).reqs.map (fun r => (r.stage, r.pa)) = [(.transit, 0x10000)] ∧
    (after (.translationWalkComplete 7) s).net.length = 1 ∧
    (after (.translationWalkComplete 7) u).me.deferred.map (·.code) = [cPageFault] := by decide +kernel

theorem witness_region_load_store :
    let q := req7 (.load 2 true) .region
    let r := req7 (.store 8 0x1234) .region
    let s := (withReq q).writeNat 0x10000 2 0x8001
    let u := withReq r
    s.accepts q = true ∧ q.bank = none ∧ s.poisoned 0x10000 2 = false ∧ u.accepts r = true ∧ u.writable 0x10000 8 = true ∧
    ((after (.regionAccessApply 7) s).reqs.map (·.stage)) = [.reply 0xFFFFFFFFFFFF8001 false] ∧
    (after (.regionAccessApply 7) u).readNat 0x10000 8 = 0x1234 ∧ (after (.regionAccessApply 7) u).readNat 0x10008 1 = 0 := by decide +kernel

theorem witness_structure_words :
    let q := req7 .isread .region
    let w := req7 (.iswrite 9) .region
    let c := req7 (.isclr 1 1) .region
    let full (r : Req) : State := ((withReq r).writeNat 0x10000 8 5).setWordState 0x10000 1
    let empty (r : Req) : State := (withReq r).setWordState 0x10000 0
    (full q).accepts q = true ∧ (full q).wordState q.pa = 1 ∧ (full q).poisoned q.pa 8 = false ∧ (empty q).wordState q.pa = 0 ∧
    (freePlace 4096 ((empty q).readerRecords (regionOf false q.tile q.pa).2)).isSome = true ∧ (full c).accepts c = true ∧
    (after (.structureOperationApply 7) (full q)).reqs.map (·.stage) = [.reply 5 false] ∧
    (after (.structureOperationApply 7) (empty q)).reqs.map (·.stage) = [.queued] ∧ (after (.structureOperationApply 7) (empty q)).wordState 0x10000 = 2 ∧
    (after (.structureOperationApply 7) (empty w)).wordState 0x10000 = 1 ∧ (after (.structureOperationApply 7) (empty w)).readNat 0x10000 8 = 9 ∧
    ((after (.structureOperationApply 7) (full w)).net.filter fun p => match p.body with
      | .fault f => f.code == 0x70
      | _ => false).length = 1 ∧ (after (.structureOperationApply 7) (full w)).readNat 0x10000 8 = 5 ∧
    (after (.structureOperationApply 7) (full c)).wordState 0x10000 = 0 ∧ (after (.structureOperationApply 7) (full c)).readNat 0x10000 8 = 0 := by
  decide +kernel

theorem witness_cache_fill :
    let q := { req7 (.load 8 false) .region with bank := some 1 }
    let s := (withReq q).writeNat 0x10000 8 77
    q.bank = some 1 ∧ s.cacheLine? 1 (q.pa / 128) = none ∧ s.stopped 1 = false ∧ s.poisoned (q.pa / 128 * 128) 128 = false ∧
    ((after (.cacheBankFill 7) s).tile 1).cache.map (fun x => (x.1, x.2.head?)) = [(512, some 77)] := by decide +kernel

theorem witness_reply_and_retry :
    let q := req7 (.load 8 false) (.reply 77 false)
    let s := withReq q
    let z := withReq (req7 (.load 8 false) (.refused 0))
    s.stopped 0 = false ∧ s.readerAhead q = false ∧ q.who = .thread 0 (.g 6) true ∧ (after (.memoryReplyArrival 7) s).greg 6 = 77 ∧
    (after (.memoryReplyArrival 7) s).me.ldout = 0 ∧ (after (.memoryReplyArrival 7) s).me.pend = 0 ∧ (after (.memoryReplyArrival 7) s).reqs = [] ∧
    0 ≤ z.cycleOf 0 ∧ (after (.requestRetry 7) z).reqs.map (·.stage) = [.region] := by decide +kernel

/-! ## Copy and gather engines, timelines, channels -/

theorem witness_engine_issue :
    let s := regs base [(3, 0x4000), (4, 0x8000), (5, 64)]
    let i := Instr.copy ⟨3, 4, 5, 3⟩
    isMemTile s.myTile = false ∧ engError i 0x4000 0x8000 64 = none ∧ engFar i 0x4000 0x8000 = none ∧ (s.me.queue 0).length < 2 ∧
    ((after i s).me.queue 0).map (·.num) = [1] ∧ 2 ≤ ((filled 0 s).me.queue 0).length ∧ (after i (filled 0 s)).cur.held = true ∧
    engError i 0x4000 0x8000 0x100000000 = some 0x100000000 ∧ engFar (.copy ⟨3, 4, 5, 2⟩) 0x4000 0x0100000000000000 = some 0x0100000000000000 ∧
    traps i onMem 1 0x1234 ∧ traps (.copy ⟨3, 4, 5, 2⟩) (regs base [(3, 0x4000), (4, 0x0100000000000000), (5, 1)]) 0x21 0x0100000000000000 ∧
    engError (.copy2d ⟨3, 4, 6, 3⟩) 0x4000 0x8000 0x20008000001 = some 0x20008000001 ∧
    engError (.copy2d ⟨3, 4, 6, 3⟩) 0x4000 0x8000 0x2000001 = none ∧ engError (.mcast ⟨3, 4, 6, 1⟩) 0x1101000000 0x8000 1 = none ∧
    engError (.gather ⟨3, 4, 6, 0⟩) 0x4000 0x8000 0x8000 = none := by decide +kernel

/-- A copy node of one scalar: destination on R, source on L, 64 bytes, pool to pool. -/
def copyFiring : State := fireOf .copyNode { nrec with arity := .two, etype := .i32, rnd := 6, lit32 := 64 } [nw 0x8000] [nw 0x4000] []

theorem witness_engine_nodes :
    let s := copyFiring
    let f := s.cur.fir
    let full := s.modTile 0 fun x => { x with copyNode := [default, default] }
    let late := s.setPlaces 0 0 ⟨[], s.cycleOf 0, f.pe + 1⟩
    f.eos = false ∧ (s.places 0 0).pe ≤ f.pe ∧ s.placed 0 0 = [] ∧ ((s.tile 0).engNode 0).length < 2 ∧ 2 ≤ ((full.tile 0).engNode 0).length ∧
    (s.scalars f).map (fun g => (g.nul, g.anyP, (engNodeOps (fun o => .copy o) g).excess)) = [(false, false, none)] ∧
    (s.scalars f).all (fun g => let x := engNodeOps (fun o => .copy o) g
      engError x.op x.d x.a x.b == none && engFar x.op x.d x.a == none) = true ∧
    ((after .copyNode s).tile 0).copyNode.map (fun c => (c.d, c.a, c.b)) = [(0x4000, 0x8000, 64)] ∧ (after .copyNode full).cur.held = true ∧
    ((after .copyNode full).places 0 0).held.length = 1 ∧ (late.places 0 0).cycle = late.cycleOf 0 ∧ f.pe < (late.places 0 0).pe ∧
    (after .copyNode late).cur.held = true := by decide +kernel

theorem witness_engine_run :
    let s := after (.copy ⟨3, 4, 5, 3⟩) ((regs base [(3, 0x4000), (4, 0x8000), (5, 2)]).poolWrite 0 0x8000 [7, 9])
    let c := ((s.me.queue 0).head?).getD default
    let s0 := s.modTile 0 fun x => { x with copySeqNext := true }
    let s1 := s0.engineGo 0 0
    let t := after (.copyEngineTake 0) s0
    let j := ((t.tile 0).engRun.head?).getD default
    let dst (k : Nat) := poolKey s 0 (0x4000 + k)
    s0.stopped 0 = false ∧ isMemTile 0 = false ∧ engBusy s1 0 0 < 8 ∧ (s1.tile 0).engParked = [] ∧ (s1.tile 0).copySeqNext = true ∧
    nextServed s1 0 (s1.tile 0).copyLast 0 = some 0 ∧ (s1.thread 0).queue 0 = [c] ∧ engReady s1 0 c = true ∧ c.th = some 0 ∧
    (s1.thread 0).errValid (engineOf c.op) = false ∧ c.op = .copy ⟨3, 4, 5, 3⟩ ∧ memWf s1.mem = true ∧ (s1.tile 0).engRun = [] ∧ s1.engOut 0 c.id = false ∧
    0 < c.b.toNat ∧ c.b.toNat ≤ 4096 ∧ c.d.toNat + 2 ≤ c.a.toNat ∧ locBad s1 c.task 2 [⟨true, 0, c.d.toNat⟩, ⟨true, 0, c.a.toNat⟩] = none ∧
    s1.poolPoisoned 0 c.a.toNat 2 = false ∧ (List.range 2).all (fun k => s1.wordState (dst k) == 3) = true ∧ dst 0 ≠ dst 1 ∧
    j.cmd = c ∧ j.over_ = true ∧ t.poolByte 0 0x4000 = 7 ∧ t.poolByte 0 0x4001 = 9 ∧ t.poolByte 0 0x4002 = 0 ∧ t.me.tlOut = [] ∧
    BitVec.ofNat 64 c.num = t.me.counter (engineOf c.op) + 1 ∧ (after (.engineCommandComplete 0 0) t).me.counter 0 = 1 := by decide +kernel

theorem witness_engine_suppressed_and_gather :
    let s0 := after (.gather ⟨3, 4, 5, 0⟩) (regs base [(3, 0x4000), (4, 0x10000), (5, 0x8000)])
    let c := ((s0.me.queue 3).head?).getD default
    let s := s0.modTile 0 fun x => { x with gathSeqNext := true }
    let e := base.modMe fun t => { t with err := [(3, 0x10000)] }
    let again := s0.modTile 0 fun x => { x with engParked := [{ c with aux := [0, 2, 1] }] }
    engBusy (s.engineGo 0 3) 0 3 < 4 ∧ (s.tile 0).gathSeqNext = true ∧ nextServed s 0 (s.tile 0).gathLast 3 = some 0 ∧ s.me.queue 3 = [c] ∧
    c.th = some 0 ∧ ((after (.gatherEngineTake 0) s).tile 0).engRun.map (fun j => (j.cmd, j.over_)) = [(c, true)] ∧ e.me.errValid (engineOf c.op) = true ∧
    ((runEngine c 0 e).tile 0).engRun.map (fun j => (j.cmd, j.over_)) = [(c, true)] ∧ ((after (.gatherEngineTake 0) again).tile 0).engParked = [] ∧
    (let n : EngCmd := { (default : EngCmd) with op := .gather ⟨0, 0, 0, 0⟩, d := 0x4000, fir := copyFiring.cur.fir }
     let j : EngJob := { cmd := n, xs := [], next := 0, moves := [], stop := none, held := false, over_ := true, tails := [] }
     let u (j : EngJob) : State := base.modTile 0 fun x => { x with engRun := [j] }
     ((u j).tile 0).engRun[0]? = some j ∧ n.th = none ∧ ((after (.engineCommandComplete 0 0) (u j)).tile 0).engRun = [] ∧
     goesTo (.engineCommandComplete 0 0) (u { j with over_ := false }) (u { j with over_ := false }) = true) := by decide +kernel

theorem witness_timelines :
    let tl (done issued : Word) : State := base.modMe fun t => { t with tlDone := [(1, done)], tlIssued := [(1, issued)], g := [(4, 5)] }
    let s := tl 4 6
    isMemTile s.myTile = false ∧ writes (.tlread ⟨3, 0, 0, 1⟩) s 3 4 ∧ writes (.tlread ⟨3, 0, 0, 5⟩) s 3 6 ∧
    (after (.tlwait ⟨3, 4, 0, 1⟩) s).cur.held = true ∧ writes (.tlwait ⟨3, 4, 0, 1⟩) (tl 5 6) 3 5 ∧ writes (.tlwait ⟨3, 4, 0, 1⟩) (tl 4 4) 3 4 ∧
    s.greg 4 ≠ 0 ∧ base.greg 4 = 0 ∧ (after (.uiarm ⟨0, 4, 0, 1⟩) s).me.uistat = 2 ∧ (after (.uiarm ⟨0, 4, 0, 1⟩) (tl 5 6)).me.uistat = 0x20 ∧
    (after (.uiarm ⟨0, 3, 0, 1⟩) (s.modMe fun t => { t with uistat := 0x22 })).me.uistat = 0 ∧
    traps (.tlread ⟨3, 0, 0, 1⟩) onMem 1 0x1234 := by decide +kernel

theorem witness_uiret :
    let s := base.modMe fun t => { t with uih := true, h := [(0, 0x8100), (1, 0x410)] }
    base.me.uih = false ∧ s.me.uih = true ∧ (mapGet 0 s.me.h 0).extractLsb' 0 3 = 0 ∧ traps (.uiret ⟨0, 0, 0, 0⟩) base 1 0x1234 ∧
    (after (.uiret ⟨0, 0, 0, 0⟩) s).me.pc = 0x8100 ∧ (after (.uiret ⟨0, 0, 0, 0⟩) s).me.uih = false ∧
    (after (.uiret ⟨0, 0, 0, 0⟩) s).me.p.extractLsb' 1 7 = 0x41 := by decide +kernel

/-- Inbound port 2 of tile 0 without an address, of task 1; the ring word names 4 slots at 0x100. -/
def port2 : Port :=
  { task := 1, circuit := none, graph := none, addr := none, ring := none, part := 0, credits := 0, beats := [], deliv := 0, stop := false, fifo := [] }

def ring4 : Word := 0x2000100

def withPort (p : Port) : State := (regs base [(4, 2), (5, ring4)]).setPort 0 2 p

theorem witness_channels :
    let s := withPort port2
    let b := withPort { port2 with ring := some (0, ring4, 9) }
    (0x22 : Word).extractLsb' 5 59 ≠ 0 ∧ ringWordOk ring4 = true ∧ s.openPort? 2 = some port2 ∧ s.openPort? 3 = none ∧
    poolOk s s.myTask s.myTile 0x100 (16 + 16 * 2 ^ 2) false = true ∧ (after (.chopen ⟨3, 4, 5, 0⟩) s).greg 3 = 1 ∧
    ((after (.chopen ⟨3, 4, 5, 0⟩) s).port? 0 2).map (·.ring) = some (some (0, ring4, 0)) ∧ writes (.chopen ⟨3, 4, 5, 0⟩) b 3 0 ∧
    writes (.chclose ⟨3, 4, 0, 0⟩) s 3 0 ∧ (after (.chclose ⟨3, 4, 0, 0⟩) b).greg 3 = 9 ∧
    ((after (.chclose ⟨3, 4, 0, 0⟩) b).port? 0 2).map (·.ring) = some none ∧ traps (.chopen ⟨3, 5, 5, 0⟩) s 3 ring4 ∧
    traps (.chclose ⟨3, 4, 0, 0⟩) (regs base [(4, 2)]) 0x21 2 ∧ (2 : Word).getLsbD 4 = false := by decide +kernel

/-! ## Streams -/

/-- A header of a one-word token and its data beat (R284). -/
def head1 : Beat := 0
def data1 : Beat := 0x55

/-- Circuit 3 from port 16 of tile 0 to port 2 of tile 2. -/
def wire3 (x : Circuit) (out inn : Port) : State :=
  { (base.setPort 0 16 out).setPort 2 2 inn with circuits := [(3, x)] }

def circ3 : Circuit := { src := (0, 16), dst := (2, 2), width := 1, wire := [], creds := 0, route := [], moving := false, broken := false }

theorem witness_stream_beats :
    let inn := { port2 with circuit := some 3 }
    let s := wire3 { circ3 with wire := [head1] } port2 inn
    let n := wire3 { circ3 with wire := [head1] } port2 port2
    let f := wire3 { circ3 with wire := [head1] } port2 { inn with beats := List.replicate 64 data1, stop := true }
    let c := wire3 { circ3 with creds := 1 } { inn with beats := [data1] } inn
    s.circuit? 3 = some { circ3 with wire := [head1] } ∧ s.port? 2 2 = some inn ∧ s.stopped 2 = false ∧
    ((after (.streamBeatArrival 3) s).port? 2 2).map (·.beats) = some [head1] ∧ ((after (.streamBeatArrival 3) s).circuit? 3).map (·.wire) = some [] ∧
    (n.port? 2 2).map (·.circuit) = some none ∧ ((after (.streamBeatArrival 3) n).port? 2 2).map (·.beats) = some [] ∧
    ((after (.streamBeatArrival 3) n).circuit? 3).map (fun x => (x.wire, x.creds)) = some ([], 1) ∧
    ((after (.streamBeatArrival 3) f).port? 2 2).map (·.beats.length) = some 64 ∧ tileModule 0 = tileModule 2 ∧
    ((after (.streamCreditReturn 3) c).circuit? 3).map (fun x => (x.wire, x.creds)) = some ([data1], 0) ∧
    ((after (.streamCreditReturn 3) c).port? 0 16).map (fun x => (x.beats, x.credits)) = some ([], 0) := by decide +kernel

/-- Circuit 3 from module 0 to module 1: a credit lets its beat out as a STRM packet to the IO die of the way. -/
theorem witness_stream_between_modules :
    let out := { port2 with circuit := some 3, beats := [data1] }
    let far := { circ3 with dst := (4098, 2), creds := 1 }
    let s := { (base.setPort 0 16 out) with circuits := [(3, far)] }
    tileModule 0 ≠ tileModule 4098 ∧ ((after (.streamCreditReturn 3) s).circuit? 3).map (·.wire) = some [] ∧
    (after (.streamCreditReturn 3) s).net.map (fun p => (p.cls, p.body)) = [(clsStrm, .beats 3 [data1])] := by decide +kernel

theorem witness_fifo :
    let s := (base.modTile 1 fun x => { x with mrole := 1, ports := [(2, { port2 with fifo := [head1, data1] }), (18, port2)] })
    let t := after (.fifoForward 1 2) s
    s.stopped 1 = false ∧ isMemTile 1 = true ∧ (s.tile 1).mrole = 1 ∧ beatData head1 = 1 ∧ (t.port? 1 2).map (·.fifo) = some [] ∧
    (t.port? 1 18).map (·.beats.length) = some 2 := by decide +kernel

theorem witness_ring_scan :
    let p := { port2 with ring := some (0, ring4, 9), beats := [head1, data1] }
    let s := withPort p
    let t := after (.channelRingScan 0 2 false) s
    s.stopped 0 = false ∧ s.port? 0 2 = some p ∧ (firstToken p.beats).map (fun x => (x.1.words.length, x.2)) = some (1, []) ∧
    (s.ringTail 0 ring4 + 2 ^ 32 - s.ringHead 0 ring4) % 2 ^ 32 < ringSlots ring4 ∧
    (t.port? 0 2).map (fun q => (q.beats, q.part, q.ring)) = some ([], 0, some (0, ring4, 10)) ∧ t.ringTail 0 ring4 = 1 ∧ t.poolLoad 0 0x118 1 = 0x55 := by
  decide +kernel

theorem witness_role_swap :
    let s := (base.poolWrite 1 0 [7]).modTile 1 fun x => { x with fill := some 0 }
    let c := wire3 { circ3 with moving := true } port2 port2
    (s.tile 1).fill = some 0 ∧ 0 ≤ s.cycleOf 1 ∧ s.stopped 1 = false ∧ ((after (.roleSwapFillComplete 1) s).tile 1).fill = none ∧
    (after (.roleSwapFillComplete 1) s).plainByte (sramKey 1 0) = 0 ∧ (c.circuit? 3).map (fun x => (x.moving, x.wire)) = some (true, []) := by decide +kernel

/-! ## Scopes and atomics -/

/-- Entry 11 of the task's scope table on tile 0 (R305), live. -/
def scoped1 (e : ScopeEntry) (g : SMap Word) : State :=
  (regs base g).modDie 0 fun d => { d with runs := [(1, { run1 with tiles := [(0, { TaskTile.reset with scopes := [(11, e)] })] })] }

def entry11 : ScopeEntry := { live := true, gen := 3, updating := false, image := natToBytes 48 0x10001, mods := [] }

def adr : SMap Word := [(3, 2), (4, 0x10000), (5, 7), (6, 5)]

/-- Fields of class 10: AADD.64 g3, g4, g5 over entry 11, ORDER 11. -/
def ax : AX := ⟨3, 4, 5, 1, 11, 3, false, false⟩

theorem witness_atomic_issue :
    let s := scoped1 entry11 adr
    let m := scoped1 { entry11 with updating := true } adr
    let x : ScopeSnap := { idx := 11, image := entry11.image, mods := [] }
    let args (op : AOp) : AtomArgs := { op := op, sg := false, wide := true, v := 7, e := 2, ret := true, repro := false, nocomb := false, count := 0, key := [1, 0, 0, 0, 0, 0] }
    s.scopeHolds 1 0 11 = false ∧ s.snapScope 1 0 11 = some x ∧ s.slotFree 0 = true ∧ s.bankFree 0 (s.peekPa 0 1 0x10000 true) = true ∧ s.me.ldout < 4 ∧
    m.scopeHolds 1 0 11 = true ∧ (after (.aadd ax) m).cur.held = true ∧ base.snapScope 1 0 11 = none ∧
    traps (.acas ax) (regs base adr) 0x30 11 ∧ traps (.aadd ax) (regs base [(4, 0x10004)]) 0x21 0x10004 ∧
    traps (.aadd ax) (regs base [(4, 0x0100000000000000)]) 0x21 0x0100000000000000 ∧
    sends (.aadd ax) s (.atomic (args .add)) 0x10000 (some 3) ∧ sends (.acas ax) s (.atomic (args .cas)) 0x10000 (some 3) ∧
    (lastReq (after (.aswap ax) s)).snap = x ∧ (lastReq (after (.aswap ax) s)).order = 3 := by decide +kernel

theorem witness_aredn_and_repro :
    let s := scoped1 entry11 adr
    let o : AX := { ax with f := 0x15, order := 2 }
    let r : AX := { ax with repro := true, f := 0 }
    (o.f.extractLsb' 2 3).toNat = 5 ∧
    sends (.aredn o) s (.atomic { op := .or, sg := false, wide := true, v := 7, e := 2, ret := false, repro := false, nocomb := false, count := 0, key := [1, 0, 0, 0, 0, 0] }) 0x10000 none ∧
    r.repro = true ∧ (0x10000 : Word).toNat % 4 = 0 ∧ traps (.afadd r) (regs base [(4, 0x10000), (6, 0)]) 3 0 ∧
    traps (.afadd r) (regs base [(4, 0x10000), (6, 4097)]) 3 4097 := by decide +kernel

theorem witness_barrier_issue :
    let s := scoped1 entry11 adr
    sends (.bar { ax with f := 0 }) s (.bar 7 none) 0x10000 (some 3) ∧ sends (.barwait { ax with f := 0 }) s (.barwait 7) 0x10000 (some 3) ∧
    traps (.bar ax) (regs base [(5, 0)]) 3 0 ∧ traps (.bar ax) (regs base [(5, 0x100000000)]) 3 0x100000000 ∧
    traps (.barwait ax) (regs base [(5, 0x100000000)]) 3 0x100000000 ∧ (7 : Word).toNat < 2 ^ 32 := by decide +kernel

theorem witness_fences :
    let s := scoped1 entry11 adr
    let u := { s with reqs := [{ req7 (.store 8 1) .transit with who := .thread 0 .none false }] }
    let x : ScopeSnap := { idx := 4, image := [], mods := [] }
    let o : AX := { ax with scope := 4, order := 3 }
    s.snapScope 1 0 4 = some x ∧ s.threadBefore 0 3 x = [] ∧ (after (.fence o) s).me.pc = 0x8008 ∧ (after (.fence o) s).me.fence = [] ∧
    u.threadBefore 0 3 x = [7] ∧ (u.reqs.map (·.unperformed)) = [true] ∧ (after (.widen o) u).me.fence = [(7, false)] ∧
    (after (.fence o) u).fenceHolds 0 = true ∧ traps (.fence ax) (regs base adr) 0x30 11 ∧
    (after (.widen ax) (scoped1 { entry11 with updating := true } adr)).cur.held = true := by decide +kernel

/-- An image of one die with tiles 0 and 1, at pool address 0x200 (R308). -/
def imaged (img : Nat) : State := (scoped1 entry11 [(4, 0x200)]).poolWrite 0 0x200 (natToBytes 48 img)

theorem witness_scope_updates :
    let s := imaged (1 + 3 * 2 ^ 128)
    let b := imaged (1 + 2 ^ 56)
    let o : AX := { ax with f := 0 }
    let started (t : State) : Bool :=
      t.me.ldout == 1 && t.me.pc == 0x8008 && (t.die 0).updates.length == 1 && t.net.length == s.net.length + (s.region 1).length && t.mem == s.mem
    s.me.ldout < 4 ∧ (s.die 0).updates = [] ∧ s.region 1 = [0] ∧ s.imageAt 0x200 0 = true ∧ s.poolLoad 0 0x200 2 = 1 ∧ s.imageAt 0x200 1 = true ∧
    s.poolPoisoned 0 0x200 48 = false ∧ imageValid (natToBytes 48 (1 + 3 * 2 ^ 128)) = true ∧ imagePlist (natToBytes 48 1) = 0 ∧
    started (after (.scopew o) s) ∧ started (after (.scopekill o) s) ∧ imageValid (natToBytes 48 (1 + 2 ^ 56)) = false ∧ traps (.scopew o) b 3 0x200 ∧
    s.imageAt 0x208 0 = false ∧ traps (.scopew o) (regs base [(4, 0x208)]) 0x21 0x208 ∧
    (after (.scopekill o) (s.modMe fun t => { t with ldout := 4 })).cur.held = true := by decide +kernel

theorem test_scoper :
    let s := scoped1 entry11 []
    writes (.scoper { ax with f := 0, scope := 10 }) s 3 0x0005000000000000 ∧ writes (.scoper { ax with f := 0 }) s 3 0x0001030000010001 ∧
    writes (.scoper { ax with f := 0, scope := 12 }) s 3 0 := by decide +kernel

/-- A class-10 node on one scalar over the scope TILE: the address on L, 7 on R, a compare value on C. -/
def atomFiring (i : Instr) (lit : BitVec 32) (r : TWord) : State :=
  fireOf i { nrec with arity := .three, etype := .u32, rnd := 0, lit32 := lit } [wide 0x10000] [r] [nw 2]

theorem witness_scoped_nodes :
    let s := atomFiring .aaddNode 4 (nw 7)
    let f := s.cur.fir
    let g := ((s.scalars f).head?).getD default
    f.eos = false ∧ s.scopeHolds f.task 0 f.node.r.litScope.toNat = false ∧ s.contextHolds f = false ∧ s.queueLen 0 < 64 ∧ (s.tile 0).waves = [] ∧ (s.scalars f).length = 1 ∧ g.nul = false ∧
    (g.l ++ g.r ++ g.c).any (·.p) = false ∧ ((s.beginFire.traceFire f f.tag f.l).snapScope g.task 0 f.node.r.litScope.toNat).isSome = true ∧
    g.node.r.repro = false ∧
    (match (lastReq (after .acasNode s)).op with
     | .atomic x => x.op == .cas && x.ret && !x.wide && x.v == 7 && x.e == 2 && !x.sg
     | _ => false) = true ∧
    (match (lastReq (after .arednNode s)).op with
     | .atomic x => x.op == .add && !x.ret
     | _ => false) = true ∧
    (lastReq (after .barNode s)).op = .bar 7 none ∧ (s.tile 0).fences = [] ∧ s.cmdsBefore g systemSnap = [] ∧
    (after .fenceNode s).net = s.net ∧ ((after .widenNode s).tile 0).fences = [] := by decide +kernel

theorem witness_scoped_node_end_hold_comb :
    let s := atomFiring .fenceNode 4 (nw 7)
    let e := { s with cur := { s.cur with fir := { s.cur.fir with eos := true } } }
    let m : State := { scoped1 { entry11 with updating := true } [] with cur := (atomFiring .fenceNode 11 (nw 7)).cur }
    let a := fireOf .acomb { nrec with arity := .two, etype := .u32 } [nw 9] [nw 1] []
    let f := a.cur.fir
    e.cur.fir.eos = true ∧ m.cur.fir.node.r.litScope.toNat = 11 ∧ m.scopeHolds 1 0 11 = true ∧ (after .widenNode m).cur.held = true ∧
    f.eos = false ∧ (a.beginFire.traceFire f f.tag f.l).acombEntry 0 0 (a.keyOf 1 0) = none ∧ (1 : Word) &&& 0xFFFFFFFF = 1 ∧
    emits .acomb a [nw 9] := by decide +kernel

/-- An atomic at its region. -/
def atomic7 (op : AOp) (v e : Word) : Req :=
  { req7 (.atomic { op := op, sg := true, wide := false, v := v, e := e, ret := true, repro := false, nocomb := false, count := 0, key := [] }) .region with
      snap := { idx := 4, image := [], mods := [] } }

theorem witness_atomics_at_region :
    let s (op : AOp) (v e : Word) : State := (withReq (atomic7 op v e)).writeNat 0x10000 4 0xFFFFFFFF
    let new (op : AOp) (v e : Word) : Nat := (after (.atomicApply 7) (s op v e)).readNat 0x10000 4
    memWf (s .add 2 0).mem = true ∧ (s .add 2 0).turnAt (atomic7 .add 2 0) = true ∧ (s .add 2 0).writable 0x10000 4 = true ∧
    (s .add 2 0).poisoned 0x10000 4 = false ∧ new .add 2 0 = 1 ∧ new .and 6 0 = 6 ∧ new .or 6 0 = 0xFFFFFFFF ∧ new .xor 1 0 = 0xFFFFFFFE ∧
    new .swap 4 0 = 4 ∧ new .cas 4 0xFFFFFFFF = 4 ∧ new .cas 4 1 = 0xFFFFFFFF ∧ new .min 4 0 = 0xFFFFFFFF ∧ new .max 4 0 = 4 ∧
    (after (.atomicApply 7) (s .add 2 0)).reqs.map (·.stage) = [.reply 0xFFFFFFFF false] := by decide +kernel

theorem witness_barrier_at_region :
    let q := { req7 (.bar 2 none) .region with snap := { idx := 4, image := [], mods := [] } }
    let s := (withReq q).writeNat 0x10000 8 0x500000001
    let u := (withReq q).writeNat 0x10000 8 0x500000000
    s.turnAt q = true ∧ s.writable 0x10000 8 = true ∧ s.poisoned 0x10000 8 = false ∧ (after (.barrierArrivalApply 7) s).readNat 0x10000 8 = 0x600000000 ∧
    (after (.barrierArrivalApply 7) u).readNat 0x10000 8 = 0x500000001 ∧ (after (.barrierArrivalApply 7) s).reqs.map (·.stage) = [.reply 5 false] := by
  decide +kernel

theorem witness_repro :
    let q := { atomic7 .fadd 0x3F800000 0 with op := .atomic { op := .fadd, sg := false, wide := false, v := 0x3F800000, e := 0, ret := true, repro := true, nocomb := false, count := 2, key := [0] } }
    let s := withReq q
    s.turnAt q = true ∧ s.writable q.pa 4 = true ∧ s.contribs = [] ∧ (after (.reproContributionArrival 7) s).contribs.map (fun c => (c.pa, c.n, c.v)) = [(0x10000, 2, 0x3F800000)] := by
  decide +kernel

theorem witness_combining :
    let q1 : Req := { atomic7 .add 2 0 with stage := .transit }
    let q2 : Req := { q1 with id := 8, op := .atomic { (default : AtomArgs) with op := .add, sg := true, v := 5, ret := true, key := [0] } }
    let p1 : Packet := { pkt 50 clsReq 0 0 0 (.req 7) with inp := 1 }
    let p2 : Packet := pkt 51 clsReq 0 0 0 (.req 8)
    let s : State := { base with reqs := [q1, q2], net := [p1, p2] }
    let t := after (.combiningJoin 7 8) s
    s.req? 7 = some q1 ∧ s.packetOf 7 = some p1 ∧ s.packetOf 8 = some p2 ∧ s.canJoin p1 p2 q1 q2 = true ∧
    s.bobbinHere ((s.queueOf p1 q1).getD default) q2 = none ∧ s.tableRoom ((s.queueOf p1 q1).getD default) = true ∧ s.reqs.all (fun z => z.id < s.nextId) = true ∧
    t.bobbins.map (fun b => (b.1, b.2.reqs)) = [(100, [⟨8, 5, 0, 0⟩, ⟨7, 2, 0, 1⟩])] ∧ (t.req? 7).map (·.stage) = some .joined ∧
    (match (t.req? 101).map (·.op) with
     | some (.atomic x) => x.v == 7
     | _ => false) = true := by decide +kernel

/-- Requests 7 and 8 joined in bobbin 100 whose combined request 101 has come back. -/
def bobbed (st : Stage) (w : Bool) : State :=
  let a : AtomArgs := { (default : AtomArgs) with op := .add, wide := w, ret := true }
  let q (id : Nat) (who : Who) (st : Stage) : Req := { req7 (.atomic a) st with id := id, who := who }
  { base with reqs := [q 7 (.thread 0 (.g 6) true) .joined, q 8 (.thread 0 (.g 7) true) .joined, q 101 (.bobbin 100) st],
              bobbins := [(100, { (default : Bobbin) with reqs := [⟨8, 5, 0, 0⟩, ⟨7, 2, 0, 0⟩], creq := 101, lost := false, lostIds := [] })] }

theorem witness_combined_answers :
    let s := bobbed (.reply 1000 false) true
    let f := bobbed (.flt 0x21) true
    s.bobbins.map (·.1) = [100] ∧ (s.req? 101).map (·.stage) = some (.reply 1000 false) ∧ (after (.combinedReplySplit 100) s).bobbins = [] ∧
    (after (.combinedReplySplit 100) s).reqs.map (fun r => (r.id, r.stage)) = [(7, .reply 1005 false), (8, .reply 1000 false)] ∧
    (after (.combinedFaultCopy 100) f).reqs.map (fun r => (r.id, r.stage)) = [(7, .flt 0x21), (8, .flt 0x21)] := by decide +kernel

theorem witness_abandon :
    let c : Contrib := { (default : Contrib) with pa := 0x10000, n := 2, cycle := 0, region := regionOf false 0 0x10000 }
    let s := (base.modDie 0 fun d => { d with cycle := 2 ^ 23 })
    let s : State := { s with contribs := [c] }
    s.contribs[0]? = some c ∧ ((((s.contribs.filter fun d => d.pa == c.pa && d.n == c.n).head?.map (·.cycle)).getD 0) + 2 ^ 23 ≤ (s.die (dieOfRegion c.region)).cycle) ∧
    (after (.reproGroupAbandon 0) s).contribs = [] ∧ (after (.reproGroupAbandon 0) s).net.length = 1 := by decide +kernel

theorem witness_scope_messages :
    let m : Packet := (pkt 60 clsCtl 0 0 0 (.data 1 [1, 11, 0]))
    let i : Packet := (pkt 60 clsCtl 0 0 0 (.data 3 ([1, 11, 0, 4, 1, 0] ++ [1, 0, 0, 0])))
    let a : Packet := (pkt 60 clsCtl 0 0 0 (.data 2 [1, 11, 0]))
    let u : ScopeUpd := ⟨1, 11, 0, .g 3, some ([1, 0, 0, 0], []), true, true, [0], 4⟩
    let s (p : Packet) : State := { scoped1 entry11 [] with net := [p] }
    let v := (s a).modDie 0 fun d => { d with updates := [u] }
    (s m).packet? 60 = some m ∧ (s m).stopped 0 = false ∧ ((s m).run? 1).isSome = true ∧
    ((after (.scopeMarkArrival 60) (s m)).scopeEntry 1 0 11).updating = true ∧ ((after (.scopeMarkArrival 60) (s m)).tile 0).marks = [(1, 11)] ∧
    (after (.scopeInstallArrival 60) (s i)).scopeEntry 1 0 11 = ⟨true, 4, false, [1, 0, 0, 0], []⟩ ∧
    (v.die (dieOfTask 1)).updates = [u] ∧ u.begun = true ∧ u.waits = [0] ∧ u.installing = true ∧
    ((after (.scopeUpdateAckArrival 60) v).die 0).updates = [] ∧ (after (.scopeUpdateAckArrival 60) v).greg 3 = 4 := by decide +kernel

theorem witness_mark_acknowledge :
    let s := (scoped1 { entry11 with updating := true } []).modTile 0 fun x => { x with marks := [(1, 11)] }
    (s.tile 0).marks[0]? = some (1, 11) ∧ s.stopped 0 = false ∧ (s.tile 0).fences = [] ∧
    (List.range 8).all (fun i => (s.thread i).fence == [] && (s.thread i).acquire == none) = true ∧ s.reqs = [] ∧
    ((after (.scopeMarkAcknowledge 0 0) s).tile 0).marks = [] ∧ (after (.scopeMarkAcknowledge 0 0) s).net.length = 1 := by decide +kernel

theorem witness_scope_miss :
    let q := req7 (.load 8 false) .miss
    let s := withReq q
    s.req? 7 = some q ∧ s.stopped q.tile = false ∧ (s.taskTile q.task q.tile).missring.getLsbD 28 = false ∧
    (after (.scopeMissReply 7) s).reqs.map (·.stage) = [.parked] ∧ (after (.scopeMissReply 7) s).me.deferred.map (·.code) = [0x31] := by decide +kernel

/-- The miss ring of the task on tile 0: 4 records at 0x100 (R315), request 7 published as record 0 and taken with index 0. -/
theorem witness_miss_reissue :
    let q := req7 (.load 8 false) .parked
    let y : TaskTile := { TaskTile.reset with missring := 0x12000100, misses := [⟨7, some 0⟩], missHead := 0 }
    let s0 := (withReq q).modDie 0 fun d => { d with runs := [(1, { run1 with tiles := [(0, y)] })] }
    let s := (s0.poolWriteNat 0 0x100 4 1).poolWriteNat 0 0x104 4 1
    s.stopped 0 = false ∧ (s.taskTile 1 0).missring.getLsbD 28 = true ∧ s.missHeadWord 1 0 = ((s.taskTile 1 0).missHead + 1) % 2 ^ 32 ∧
    s.missTail 1 0 ≠ (s.taskTile 1 0).missHead ∧
    s.poolLoad 0 (missRingAddr y.missring + 16 + 32 * (y.missHead % missRingSize y.missring) + 23) 1 = 0 ∧ q.slot = true ∧
    (s.snapScope q.task q.tile 0).isSome = true ∧ (after (.missRingReissue 0 1) s).reqs.map (·.stage) = [.walk] ∧
    ((after (.missRingReissue 0 1) s).taskTile 1 0).misses = [] ∧ ((after (.missRingReissue 0 1) s).taskTile 1 0).missHead = 1 := by decide +kernel

/-! ## The dataflow fabric -/

/-- An element of task 1 that holds a record. -/
def elem (i : Instr) (n : NRec) : NodeSlot :=
  { raw := (encodeSlot ⟨i, n⟩).getD 0, task := 1, va := 0, blocked := false, trapped := false, discarded := false, bad := 0, held := [] }

/-- The result goes to entry 9 of PE 1. -/
def quiet : NRec := { (default : NRec) with dsta := 0x0026, dstb := 0xFFFF }

def tokFiring (i : Instr) (n : NRec) (l r c : List TWord) : State := fireOf i n l r c

theorem witness_token_nodes :
    let s := tokFiring .steer nrec [nw 9] [nw 1] [nw 0]
    let z := tokFiring .steer nrec [nw 9] [nw 0] []
    let f := s.cur.fir
    let g := ((s.scalars f).head?).getD default
    let e := { s with cur := { s.cur with fir := { f with eos := true } } }
    f.eos = false ∧ (s.scalars f).length = 1 ∧ (nw 9).n = false ∧ f.r = [nw 1] ∧ (nw 1).w ≠ 0 ∧ (nw 0).w = 0 ∧ f.c = [nw 0] ∧ f.nul = false ∧
    e.cur.fir.eos = true ∧ z.cur.fir.c = [] ∧
    goesTo .gate s (s.beginToken.emitAt f false g.tag [nw 9] [0x0012, 0xFFFF]) ∧
    goesTo .gate z z.beginToken ∧
    goesTo .merge s (s.beginToken.emitAt f false g.tag [nw 1] [0x0012, 0xFFFF]) ∧
    goesTo .merge z (z.beginToken.emitAt z.cur.fir false 0 [nw 9] [0x0012, 0xFFFF]) ∧
    goesTo .steer e (e.beginToken.passE e.cur.fir) := by decide +kernel

theorem witness_token_nodes_one_word :
    let s := tokFiring .constTok { nrec with lit32 := 3, lit := true } [nw 9] [] []
    let f := s.cur.fir
    let u := tokFiring .recv nrec [⟨0, false, true, false⟩] [] []
    let s0 := s.beginFire.traceFire f f.tag f.l
    f.eos = false ∧ f.l = [nw 9] ∧ f.nul = false ∧ u.cur.fir.nul = true ∧ goesTo .constTok s (s0.emit f 0 [nw 3]) ∧ goesTo .recv s (s0.emit f 0 [nw 9]) ∧
    goesTo .eos s (s0.emitE f 0 9 false) ∧ goesTo .tagget s (s0.emit f 0 [nw 0]) ∧ f.node.r.lit = true ∧ (3 : Nat) ≤ 2 ^ (s0.fieldAt 1 0).1 ∧
    goesTo .repeatTok s ((s0.emit f 0 (List.replicate 3 (nw 9))).emitE f 0 3 false) ∧ goesTo .runsplit s (s0.emit f 0 [nw 9]) ∧
    f.r = [] ∧ f.c = [] ∧ goesTo .dup s (s0.emitAt f false 0 f.l [0x0012, 0xFFFF, 3, 0]) := by decide +kernel

theorem witness_joins :
    let j := tokFiring .joinTok { nrec with arity := .one, lit32 := 1 } [nw 9] [] []
    let k := tokFiring .joinTok { nrec with arity := .two } [nw 9] [nw 1] []
    let p := tokFiring .runpack { nrec with lit32 := 2 } [nw 9] [] []
    j.cur.fir.node.r.arity = .one ∧ k.cur.fir.node.r.arity ≠ .one ∧ ((j.beginFire).pe 0).entries = [] ∧
    goesTo .joinTok j (j.beginToken.emit j.cur.fir 0 [nw 1]) ∧
    goesTo .joinTok k (k.beginToken.emit k.cur.fir 0 [nw 9]) ∧
    2 ≤ (p.cur.fir.node.r.lit32.extractLsb' 0 6).toNat ∧
    (p.beginFire.placeOf 0 (p.beginFire.newEntry 0 1 0 0 0 0 (.gathered [(0, nw 9)] none) []) p.cur.fir.tag [nw 9]).1 = true ∧ ((after .runpack p).pe 0).entries.length = 1 := by
  decide +kernel

/-- A live loop at element 0 (R223). -/
def looped : WEntry :=
  { (default : WEntry) with kind := .loop 0 [] none, slot := 0, tag := 0, task := 1, level := .matching }

theorem witness_loops :
    let l := tokFiring .loopent { nrec with lit32 := 4 } [nw 9] [] []
    let m := { l with cur := { l.cur with fir := { l.cur.fir with port := 1 } } }
    let w0 := tokFiring .wave nrec [nw 9] [] []
    let w : State := { w0 with nodes := [(0, elem .loopent { quiet with arity := .two, lit32 := 4, act := .enter })], pes := [(0, { Pe.reset with entries := [looped] })] }
    let x := { w with pes := [(0, { Pe.reset with entries := [{ looped with kind := .loop 2 [] none }] })] }
    let f := w.cur.fir
    l.loopEntry 0 0 (l.loopKey l.cur.fir) = none ∧ m.cur.fir.port = 1 ∧ l.cur.fir.port = 0 ∧
    (l.beginFire.placeOf 0 (l.beginFire.newEntry 0 1 0 0 0 (l.loopKey l.cur.fir) (.loop 0 [] none) []) l.cur.fir.tag l.cur.fir.l).1 = true ∧ ((after .loopent l).pe 0).entries.length = 1 ∧
    (after .loopent m).net.length = 1 ∧ w0.loopEntry 0 (w0.loopSlot f) (w0.loopKey f) = none ∧ (after .wave w0).net.length = 1 ∧
    w.loopEntry 0 (w.loopSlot f) (w.loopKey f) = some looped ∧ w.loopBound (w.loopSlot f) = 4 ∧
    (w.loopIter f + 1 + w.loopMod f - 0) % w.loopMod f < 4 ∧ emits .wave w [nw 9] ∧ (0 : Nat) ≠ (w.loopIter f + 1) % w.loopMod f ∧
    ((after .loopexit w).pe 0).entries.map (·.kind) = [.loop 0 [] (some 0)] ∧
    (x.loopEntry 0 (x.loopSlot f) (x.loopKey f)).isSome = true := by decide +kernel

/-- Tile 0 with a FRAME granule of task 1 (R216). -/
def framed (s : State) : State := s.modTile 0 fun x => { x with poolpart := 0xAAAAAAAAAAAAAAA9 }

theorem witness_calls :
    let s := framed (tokFiring .callt { nrec with arity := .one, lit32 := 0x20 } [nw 9] [] [])
    let f := s.cur.fir
    let u := after .callt s
    let r := (tokFiring .rett nrec [nw 9] [] []).modPe 0 fun p =>
      { p with entries := [{ looped with kind := .linkage 0 0x0012, tag := 0x0001000000000000, slot := 0 }] }
    let r : State := { r with cur := { r.cur with fir := { r.cur.fir with tag := 0x0001000000000000 } }, tiles := [(0, { tile1 with ctx := [(1, 1)] })] }
    f.eos = false ∧ f.node.r.arity ≠ .two ∧ s.freeCtx? 1 0 = some 1 ∧
    (s.beginFire.placeOf 0 (s.beginFire.newEntry 0 1 0 0 0 0x0001000000000000 (.linkage 0 0x20) []) s.cur.fir.tag (s.cur.fir.l ++ s.cur.fir.r)).1 = true ∧ (u.tile 0).ctx = [(1, 1)] ∧
    s.linkOf 0 0 = none ∧ (after .rett s).net.length = 1 ∧ (after .freectx s).net.length = 1 ∧ (r.linkOf 0 1).isSome = true ∧
    ((after .rett r).tile 0).ctx = [] ∧ ((after .freectx r).tile 0).ctx = [] ∧ ((after .rett r).pe 0).entries = [] := by decide +kernel

theorem witness_send :
    let s := tokFiring .sendTok { nrec with arity := .one, lit32 := 0 } [nw 9] [] []
    let m := tokFiring .sendTok { nrec with arity := .one, lit32 := 1 } [nw 9] [] []
    isMemTile 0 = false ∧ (s.region 1).contains 0 = true ∧ isMemTile 1 = true ∧ (after .sendTok m).net.length = 1 ∧ s.cur.fir.node.r.arity ≠ .two := by
  decide +kernel

/-- A token for port 0 of element 0, on context 0 which task 1 holds on tile 0. -/
def tok9 : Token := { tag := 0, dest := 0, words := [nw 9], eos := false }

def inbound (i : Instr) (n : NRec) : State :=
  { (base.modTile 0 fun x => { x with ctx := [(0, 1)] }) with
      nodes := [(0, elem i n)], pes := [(0, { Pe.reset with input := [⟨0, tok9, false⟩] })] }

theorem witness_token_arrival :
    let n := { quiet with arity := .one, lit32 := 7 }
    let s := inbound .constTok n
    let d := s.modTile 0 fun x => { x with ctx := [] }
    let r := s.modTile 0 fun x => { x with ctx := [], ctxRec := [0] }
    (s.pe 0).input[0]? = some ⟨0, tok9, false⟩ ∧ s.stopped 0 = false ∧ s.ctxTask 0 0 = some 1 ∧ d.ctxTask 0 0 = none ∧ (r.tile 0).ctxRec.contains 0 = true ∧
    (d.tile 0).ctxRec.contains 0 = false ∧ (after (.tokenArrival 0 0) d).net.length = 1 ∧ (after (.tokenArrival 0 0) r).net = [] ∧
    s.inputHeld 0 1 = false ∧ s.element? (s.nodeKey 1 0 0) = some (elem .constTok n) ∧ (elem .constTok n).rcd = some ⟨.constTok, n⟩ ∧
    direct ⟨.constTok, n⟩ = true ∧ s.tokenMatch 0 1 tok9 = none ∧ ((after (.tokenArrival 0 0) s).pe 0).ready.map (·.l) = [[nw 9]] := by decide +kernel

theorem witness_matching_events :
    let n := { quiet with arity := .two, etype := .i32 }
    let d : DeepPiece := { set := 5, slot := 0, tok := tok9, seq := 0, task := 1, cycle := 0, record := none }
    let s : State := { inbound .addNode n with pes := [(0, { Pe.reset with deep := [d] })] }
    let e : WEntry := { looped with kind := .operand, level := .frame, set := 3 }
    let w : State := { s with pes := [(0, { Pe.reset with entries := [e] })] }
    (s.pe 0).deep.filter (fun d => d.set == 5) = [d] ∧ s.element? d.slot = some (elem .addNode n) ∧ (elem .addNode n).rcd = some ⟨.addNode, n⟩ ∧
    ((after (.deepLookupComplete 0 5) s).pe 0).deep = [] ∧
    freePlace 8 (((w.pe 0).entries.filter fun e => e.set == 3 && e.level == .matching).map (·.pos)) = some 0 ∧
    ((after (.matchingWayRefill 0 3) w).pe 0).entries = [{ e with level := .matching, pos := 0 }] := by decide +kernel

theorem witness_weights_and_packer :
    let f := (tokFiring .addNode nrec [nw 9] [] []).cur.fir
    let q : Packer := { tok := tok9, remote := none, cycle := 0 }
    let s : State := { base with pes := [(0, { Pe.reset with fires := 256, ready := [f] })] }
    let p := ({ base with pes := [(0, { Pe.reset with packers := [q] })] } : State).modDie 0 fun d => { d with cycle := 8 }
    256 ≤ (s.pe 0).fires ∧ 0 < ((List.range 4).map (s.occupancy 0)).sum ∧ (after (.firingWeightUpdate 0) s).pes.map (·.2.fires) = [0] ∧
    ((after (.firingWeightUpdate 0) s).pe 0).weights.sum = 15 ∧ (p.pe 0).packers[0]? = some q ∧ q.cycle + 8 ≤ p.cycleOf 0 ∧
    p.packerAt 0 q.tok.dest q.remote = some q ∧ ((after (.packerFlush 0 0) p).pe 0).packers = [] := by decide +kernel

theorem witness_mailbox :
    let n := { quiet with arity := .one, lit32 := 0x02000100 }
    let s := (({ inbound .recv n with pes := [] } : State).poolWriteNat 0 0x100 4 1).poolWriteNat 0 0x118 4 77
    s.element? 0 = some (elem .recv n) ∧ (elem .recv n).rcd = some ⟨.recv, n⟩ ∧ s.stopped 0 = false ∧ s.inputHeld 0 1 = false ∧
    s.poolLoad 0 0x100 4 ≠ s.poolLoad 0 0x104 4 ∧ poolOk s (some 1) 0 0x100 80 false = true ∧
    ((after (.mailboxScan 0 0) s).pe 0).input.map (·.tok.words.map (·.w)) = [[77]] ∧ (after (.mailboxScan 0 0) s).poolLoad 0 0x104 4 = 1 := by decide +kernel

/-! ## Tasks -/

/-- The result of a unit's operation is on its way to g[d]. -/
def answers (i : Instr) (s : State) (d : RegNo) (v : Word) : Bool :=
  let t := after i s
  let r := lastReq t
  t.reqs.length == s.reqs.length + 1 && r.stage == .reply v false && r.who == .thread s.cur.th (s.me.preg d) true && t.me.ldout == s.me.ldout + 1 &&
    t.me.pc == s.cur.pc + 8 && t.me.g == s.me.g && t.mem == s.mem

/-- Die 0 with type 1 and instance 2 beside the running task 1; the record image of a task that waits for one decrement at pool
address 0x400, a type image at 0x800 (R361, R366). -/
def taskDie : State :=
  let s := regs base [(4, 0x400), (5, 1), (6, 0x800), (7, 1), (8, 0x10000)]
  let s := s.modDie 0 fun d => { d with types := [(1, type1)], insts := [(2, { (default : Inst) with live := 1 })] }
  (s.poolWrite 0 0x400 (natToBytes 64 (1 + 1 * 2 ^ 12 + 1 * 2 ^ 34))).poolWrite 0 0x800 (type1.flatMap fun w => natToBytes 8 w.toNat)

theorem witness_spawn :
    let s := taskDie
    let i := Instr.tspawn ⟨3, 4, 0, 0⟩
    let bs := natToBytes 64 (s.poolLoad 0 0x400 64)
    let done := s.poolWrite 0 0x401 [0x70]
    isMemTile s.myTile = false ∧ s.poolArg 0x400 64 64 = true ∧ s.poolPoisoned 0 0x400 64 = false ∧ s.me.ldout < 4 ∧ s.slotFree 0 = true ∧
    s.freeSlots 0 ((recOfBytes bs).ncont + 1) = some 2 ∧ s.spawnOk (recOfBytes bs) = true ∧ answers i s 3 2 ∧ (recOfBytes bs).count ≠ 0 ∧
    ((after i s).record? 2).map (·.count) = some 1 ∧ done.spawnOk (recOfBytes (natToBytes 64 (done.poolLoad 0 0x400 64))) = false ∧
    answers i done 3 (-2) ∧ (after i (s.modMe fun t => { t with ldout := 4 })).cur.held = true ∧ s.poolArg 0x401 64 64 = false ∧
    traps i (regs base [(4, 0x401)]) 0x21 0x401 ∧ traps i onMem 1 0x1234 := by decide +kernel

theorem witness_type_write :
    let s := taskDie
    let i := Instr.ttwrite ⟨3, 6, 7, 0⟩
    let u := s.modDie 0 fun d => { d with roots := [(1, (0x1000, false))] }
    let busy := s.modDie 0 fun d => { d with tasks := [(1, .record { rec1 with hdr := 0x5001 })] }
    wordsOfBytes (natToBytes 64 (s.poolLoad 0 0x800 64)) 8 = type1 ∧ typeImageOk type1 = true ∧ s.privileged 0 = true ∧ s.typeBusy 0 1 = false ∧
    answers i s 3 1 ∧ mapGet [] ((after i s).die 0).types 1 = type1 ∧ busy.typeBusy 0 1 = true ∧ answers i busy 3 0 ∧
    u.privileged 0 = false ∧ traps i u 0x21 1 ∧ (4096 : Word).toNat ≥ 4096 ∧ traps (.ttwrite ⟨3, 6, 8, 0⟩) s 3 0x10000 ∧
    typeImageOk (wordsOfBytes (natToBytes 64 (s.poolLoad 0 0x400 64)) 8) = false ∧ traps (.ttwrite ⟨3, 4, 7, 0⟩) s 3 0x400 := by decide +kernel

theorem witness_decrement_and_successor :
    let rec2 : TaskRec := { hdr := 0x1000 ||| 1 <<< 34, succ := [], opd := [], arg0 := 0, arg1 := 0 }
    let s := (regs base [(4, 2), (5, 1), (6, 0x400000000), (7, 0)]).modDie 0 fun d => { d with tasks := [(1, .record rec1), (2, .record rec2)] }
    let z := (regs base [(4, 9), (5, 1)])
    let f := (regs base [(4, 2), (5, 1)]).modDie 0 fun d => { d with tasks := [(2, .record { rec2 with hdr := 0x7000 })] }
    (s.greg 4).extractLsb' 34 30 = 0 ∧ s.admits 0 (succOfWord 2).module = true ∧ (s.tile 0).fences = [] ∧ s.reqs = [] ∧
    (after (.tdec ⟨0, 4, 5, 0⟩) s).net.map (fun p => (p.dst, p.body)) = [(0, .decrement 2 1)] ∧ (s.greg 6).extractLsb' 34 30 ≠ 0 ∧
    traps (.tdec ⟨0, 6, 5, 0⟩) s 3 0x400000000 ∧ traps (.tdec ⟨0, 4, 7, 0⟩) s 3 0 ∧ traps (.tsucc ⟨3, 6, 5, 0⟩) s 3 0x400000000 ∧
    s.record? (taskKey 0 2) = some rec2 ∧ 1 ≤ rec2.state ∧ rec2.nsucc < 8 ∧ answers (.tsucc ⟨3, 4, 5, 0⟩) s 3 1 ∧
    ((after (.tsucc ⟨3, 4, 5, 0⟩) s).record? 2).map (·.nsucc) = some 1 ∧ z.record? (taskKey 0 9) = none ∧ answers (.tsucc ⟨3, 4, 5, 0⟩) z 3 (-1) ∧
    answers (.tsucc ⟨3, 4, 5, 0⟩) f 3 3 := by decide +kernel

/-- A template of one record at 0x10000 (R385, R386): its header with NSLOT and NTASK 1, then the record image. -/
def template : State :=
  ((regs base [(4, 0x10000), (5, 0x200), (6, 0x40000000), (7, 2)]).writeNat 0x10000 8 0x0000000100000001).writeNat 0x10040 8 (1 + 2 ^ 12 + 2 ^ 34) |>.modDie 0 fun d =>
    { d with types := [(1, type1)] }

theorem witness_instances :
    let s := template
    let run (a : Nat) : InstEnd × State := s.instantiate 0 (s.taskAsid 1) 0 a (wordsOfBytes (natToBytes 128 (s.poolLoad 0 0x200 128)) 16) none
    let e := s.modDie 0 fun d => { d with insts := [(2, { (default : Inst) with live := 1 })] }
    s.poolArg 0x200 8 128 = true ∧ s.poolPoisoned 0 0x200 128 = false ∧ (run 0x10000).1 = .made 0 ∧ (run 0x40000000).1 = .bad cPageFault 0x40000000 ∧
    answers (.ginst ⟨3, 4, 5, 0⟩) s 3 0 ∧ answers (.ginst ⟨3, 6, 5, 0⟩) s 3 (-2) ∧ (0x10001 : Word).toNat % 64 ≠ 0 ∧
    traps (.ginst ⟨3, 5, 5, 0⟩) (regs base [(5, 0x201)]) 0x21 0x201 ∧ answers (.gfree ⟨3, 7, 0, 0⟩) e 3 0 ∧
    traps (.gfree ⟨3, 5, 0, 0⟩) (regs base [(5, 0x400)]) 3 0x400 := by decide +kernel

theorem witness_task_registers :
    let s := (regs base [(4, 1), (5, 7), (6, 0x40000)]).modDie 0 fun d => { d with tasks := [(1, .record rec1), (2, .cont [1])] }
    let c := regs s [(4, 2)]
    s.slot? 0 1 = some (.record rec1) ∧ answers (.tquery ⟨3, 4, 0, 0⟩) s 3 0x5000 ∧ s.slot? 0 7 = none ∧ answers (.tquery ⟨3, 5, 0, 0⟩) s 3 0 ∧
    answers (.tquery ⟨3, 4, 0, 0⟩) c 3 (-1) ∧ s.inst? 0 1 = none ∧ answers (.tquery ⟨3, 4, 0, 1⟩) s 3 0 ∧ traps (.tquery ⟨3, 6, 0, 0⟩) s 3 0x40000 ∧
    s.record? 1 = some rec1 ∧ writes (.targ ⟨3, 0, 0, 0⟩) s 3 7 ∧ writes (.targ ⟨3, 0, 0, 1⟩) s 3 9 ∧ writes (.targ ⟨3, 0, 0, 3⟩) s 3 0 ∧
    (after (.tdone ⟨0, 0, 0, 0⟩) s).me.running = false ∧ (after (.tdone ⟨0, 5, 0, 0⟩) s).me.running = false ∧
    (after (.tdone ⟨0, 5, 0, 0⟩) s).run? 1 ≠ s.run? 1 := by decide +kernel

/-! ## The dispatcher -/

def waits2 : TaskRec := { hdr := 0x1001 ||| 2 <<< 34, succ := [], opd := [], arg0 := 0, arg1 := 0 }

theorem witness_decrement_arrival :
    let p (a : Nat) : Packet := (pkt 60 clsCtl 0 0 0 (.decrement 2 a))
    let s (a : Nat) : State := { base.modDie 0 fun d => { d with tasks := [(1, .record rec1), (2, .record waits2)], types := [(1, type1)], insts := [(0, { (default : Inst) with live := 2 })] } with net := [p a] }
    (s 1).packet? 60 = some (p 1) ∧ (s 1).placeStopped 0 = false ∧ (s 1).record? 2 = some waits2 ∧ waits2.state = 1 ∧ waits2.count = 2 ∧
    ((after (.decrementArrival 60) (s 1)).record? 2).map (·.count) = some 1 ∧
    ((after (.decrementArrival 60) (s 2)).record? 2).map (fun r => (r.count, r.state)) = some (0, 2) ∧
    (((s 3).inst? 0 waits2.inst).map (·.ending)).getD false = false ∧ (after (.decrementArrival 60) (s 3)).net.length = 1 ∧
    ((s 3).record? (taskKey 0 5) = none) := by decide +kernel

/-- Task 2 is pending with the region of tile 2, or ready. -/
def pend2 (st : Nat) : State :=
  let r : TaskRec := { waits2 with hdr := BitVec.ofNat 64 (1 + st * 2 ^ 12 + 2 * 2 ^ 18) }
  base.modDie 0 fun d => { d with
    tasks := [(1, .record rec1), (2, .record r)], types := [(1, type1)],
    runs := [(1, run1), (2, { run1 with tiles := [] })],
    pending := if st = 2 then [(7, [2])] else [], ready := if st = 4 then [(7, [2])] else [] }

theorem witness_pending_and_ready :
    let s := pend2 2
    let u := pend2 4
    let r := ((s.record? 2)).getD rec1
    (s.die 0).tripped = false ∧ mapGet [] (s.die 0).pending 7 = [2] ∧ s.neverFits 2 (s.taskType 2) = false ∧ s.poolFits 2 (s.taskType 2) = true ∧
    r.opds = [] ∧ ((after (.pendingPass 0) s).record? 2).map (·.state) = some 4 ∧
    u.windowDue 0 = false ∧ (u.die 0).exq = none ∧ (u.die 0).readyHeads = [(7, 2)] ∧ (u.fits (taskKey 0 2)).isSome = true ∧
    typeEnergy (u.taskType 2) = 1000 ∧ u.windowDue 0 = false ∧ ((u.modDie 0 fun d => { d with cycle := 65536 }).windowDue 0) = true := by decide +kernel

theorem witness_energy_and_completion :
    let s := base.modDie 0 fun d => { d with cycle := 65536 }
    let c := base.modDie 0 fun d => { d with runs := [(1, { run1 with stopping := true })] }
    s.windowDue 0 = true ∧ ((after (.energyWindowStart 0) s).die 0).window = 1 ∧ (c.run? 1).map (·.stopping) = some true ∧ c.taskDrained 1 = true ∧
    c.savePhase 1 = 0 ∧ (c.die 0).tripped = false ∧ ((after (.taskCompletion 0 1) c).run? 1) = none := by decide +kernel

theorem witness_operand_landing :
    let o : HWord := 1
    let r : TaskRec := { rec1 with hdr := 0x3001, opd := [o] }
    let s := base.modDie 0 fun d => { d with tasks := [(1, .record r)], insts := [(0, { (default : Inst) with bufs := [0x20000], asid := 1, live := 1 })],
                                             runs := [(1, { run1 with prefetch := [0] })] }
    let two := s.modRun 1 fun x => { x with prefetch := [0, 1] }
    (r.opds.find? (fun o => o.j == 0)).isSome = true ∧ (s.run? 1).map (fun x => (x.prefetch, x.prefParked, x.stopping)) = some ([0], [], false) ∧
    (match r.opds.head? with
     | some x => match s.landOpd 1 r x with
       | .ok _ => true
       | .error _ => false
     | none => false) = true ∧
    ((after (.prefetchOperandLand 0 1 0) two).run? 1).map (·.prefetch) = some [1] := by decide +kernel

/-- A decrement node: the descriptor on L, the amount on R. -/
def decFiring (i : Instr) : State := fireOf i { nrec with arity := .two, etype := .i32 } [nw 5] [nw 1] []

theorem witness_decrement_nodes :
    let s := decFiring .tdecNode
    let f := s.cur.fir
    let g := ((s.scalars f).head?).getD default
    let e := { s with cur := { s.cur with fir := { f with eos := true } } }
    let s0 := s.beginFire.traceFire f f.tag f.l
    f.eos = false ∧ (s.scalars f).length = 1 ∧ g.nul = false ∧ g.anyP = false ∧ (s0.tile 0).fences = [] ∧ s0.nodesBefore g 2 systemSnap = [] ∧
    s0.cmdsBefore g systemSnap = [] ∧ (nodeSucc g).map (fun x => (x.idx, x.module)) = some (5, 0) ∧ s0.admits 0 0 = true ∧ e.cur.fir.eos = true ∧
    (after .tdecNode s).net.map (·.body) = [.decrement 5 1] ∧ ((after .tdecSelfNode s).tile 0).fences = [] := by decide +kernel

/-! ## Generation -/

/-- An open slot of address space 1 with two ids (R401). -/
def pslot : PSlot :=
  { arena := 0x100000, rebuild := none, asid := 1, cap := 1024, w := 512, base := 0, count := 2, hist := [7, 8], held := [], mlen := 0, mpos := 0,
    lastn := 0, lastcut := false }

/-- Slot 5 of die 0 is open; the arena of R402 lies at 0x100000. -/
def slotted (g : SMap Word) : State :=
  (regs base ([(4, 5)] ++ g)).modDie 0 fun d => { d with arena := some ⟨0x100000, 0x100000⟩, pslots := [(5, pslot)] }

theorem witness_slot_select :
    let s := slotted [(5, 1024), (6, 9), (8, 0x100000)]
    let z := regs base [(5, 1024), (6, 9)]
    (s.greg 5).toNat % 1024 = 0 ∧ s.slotHolds 0 5 = false ∧ (s.pslot? 0 5).isSome = true ∧ answers (.sxsel ⟨3, 4, 5, 0⟩) s 3 (-1) ∧ s.pslot? 0 9 = none ∧
    s.arenaFor 0 1024 = some 0x110000 ∧ answers (.sxsel ⟨3, 6, 5, 0⟩) s 3 1 ∧
    ((after (.sxsel ⟨3, 6, 5, 0⟩) s).openSlot? 0 9 1).map (fun x => (x.arena, x.cap, x.w, x.count)) = some (0x110000, 1024, 1024, 0) ∧
    z.pslot? 0 9 = none ∧ z.arenaFor 0 1024 = none ∧ answers (.sxsel ⟨3, 6, 5, 0⟩) z 3 0 ∧ s.arenaFor 0 0x100000 = none ∧
    traps (.sxsel ⟨3, 8, 5, 0⟩) s 3 0x100000 := by decide +kernel

theorem witness_slot_append :
    let s := slotted [(5, 0x0000000200000009), (6, 0x0000001300000009), (7, 4)]
    let w := s.modDie 0 fun d => { d with pslots := [(5, { pslot with base := 1, hist := [8] })] }
    let l := regs w [(4, 5), (5, 9)]
    s.openSlot? 0 5 1 = some pslot ∧ pslot.held = [] ∧ pslot.base + pslot.hist.length = pslot.count ∧ answers (.sxapp ⟨3, 4, 5, 0⟩) s 3 0 ∧
    ((after (.sxapp ⟨3, 4, 5, 0⟩) s).pslot? 0 5).map (fun x => (x.count, x.hist)) = some (3, [7, 8, 9]) ∧ pslot.count + 17 ≤ ((0x13 : Nat)) ∧
    answers (.sxapp ⟨3, 4, 6, 0⟩) s 3 5 ∧ answers (.sxapp ⟨3, 4, 5, 0⟩) l 3 3 ∧ s.openSlot? 0 4 1 = none ∧ answers (.sxapp ⟨3, 7, 5, 0⟩) s 3 (-1) ∧
    goesTo (.sxapp ⟨0, 7, 5, 0⟩) s s.advance := by decide +kernel

theorem witness_slot_length_window_clear :
    let s := slotted [(5, 1), (6, 1025), (7, 4)]
    let due := { s with reqs := [{ req7 (.sxprop 5 1 []) .queued with slot := false }] }
    s.openSlot? 0 5 1 = some pslot ∧ answers (.sxlen ⟨3, 4, 0, 0⟩) s 3 2 ∧ answers (.sxlen ⟨3, 4, 0, 1⟩) s 3 0 ∧ answers (.sxlen ⟨3, 4, 0, 3⟩) s 3 0x40000000200 ∧
    answers (.sxwin ⟨3, 4, 5, 0⟩) s 3 1 ∧ ((after (.sxwin ⟨3, 4, 5, 0⟩) s).pslot? 0 5).map (fun x => (x.w, x.base)) = some (1, 1) ∧
    answers (.sxwin ⟨3, 4, 6, 0⟩) s 3 0 ∧ goesTo (.sxclr ⟨0, 7, 0, 0⟩) s s.advance ∧ (after (.sxclr ⟨0, 4, 0, 1⟩) s).pslot? 0 5 = none ∧
    ((after (.sxclr ⟨0, 4, 0, 0⟩) s).pslot? 0 5).map (fun x => (x.count, x.hist)) = some (0, []) ∧ due.slotHolds 0 5 = true ∧
    (after (.sxclr ⟨0, 4, 0, 0⟩) due).cur.held = true ∧ (after (.sxapp ⟨3, 4, 5, 0⟩) due).cur.held = true := by decide +kernel

theorem witness_slot_propose :
    let s := slotted [(5, 0x0001000400000002), (6, 0x0001001100000002), (7, 0x0001010400000002)]
    let i := Instr.sxprop ⟨3, 4, 5, 0⟩
    ((s.greg 5).extractLsb' 32 5).toNat ≤ 16 ∧ (s.greg 5).extractLsb' 37 3 = 0 ∧ s.poolArg 0x100 64 64 = true ∧ (s.sxWaiting 0).length < 64 ∧
    s.reqs = [] ∧ (s.openSlot? 0 5 1).isSome = true ∧ ((after i s).req? 100).map (fun r => (r.stage, r.op)) = some (.queued, .sxprop 5 0x0001000400000002 s.me.sxRegs) ∧
    16 < ((s.greg 6).extractLsb' 32 5).toNat ∧ traps (.sxprop ⟨3, 4, 6, 0⟩) s 3 0x0001001100000002 ∧ s.poolArg 0x101 64 64 = false ∧
    traps (.sxprop ⟨3, 4, 7, 0⟩) s 0x21 0x101 := by decide +kernel

/-- The image of an empty slot of window 512 (R409), its CRC-32C at byte 60. -/
def imgHead : List Byte := natToBytes 4 1 ++ natToBytes 4 0 ++ natToBytes 4 0 ++ natToBytes 4 512 ++ List.replicate 44 0
def slotImage : List Byte := imgHead ++ natToBytes 4 0xF12FB075 ++ List.replicate 128 0

theorem crc_head : (imgHead ++ [0, 0, 0, 0]).foldl crcByte 0xFFFFFFFF = 4201221782#32 := by decide +kernel
theorem crc_middle : (List.replicate 64 (0 : Byte)).foldl crcByte 4201221782#32 = 908066075#32 := by decide +kernel
theorem crc_tail : (List.replicate 64 (0 : Byte)).foldl crcByte 908066075#32 = 248532874#32 := by decide +kernel

theorem slotImage_crc : imageCrc slotImage = 0xF12FB075 := by
  have h : slotImage.take 60 ++ [0, 0, 0, 0] ++ slotImage.drop 64 =
      (imgHead ++ [0, 0, 0, 0]) ++ (List.replicate 64 (0 : Byte) ++ List.replicate 64 (0 : Byte)) := by decide +kernel
  rw [imageCrc, h, crc32c, List.foldl_append, List.foldl_append, crc_head, crc_middle, crc_tail]
  decide

theorem witness_image_whole : imageOk slotImage = true := by
  simp only [imageOk, slotImage_crc]
  decide +kernel

theorem witness_slot_images :
    let s := slotted [(5, 0x20000), (6, 0x20001)]
    let img := s.writeBytes 0x20000 slotImage
    vaArgOk 0x20000 = true ∧ (match s.readImage 0x20000 with
      | .ok bs => imageOk bs
      | .error _ => true) = false ∧ answers (.sxload ⟨3, 4, 5, 0⟩) s 3 0 ∧
    imageField slotImage 12 4 ≤ pslot.cap ∧ (256 : Nat) < imageField slotImage 12 4 ∧ (match img.readImage 0x20000 with
      | .ok bs => bs == slotImage
      | .error _ => false) = true ∧ traps (.sxsave ⟨3, 4, 6, 0⟩) s 0x21 0x20001 ∧
    (match s.writeVirt 0 1 0x20000 [1, 2] with
      | .ok u => u.readNat 0x20000 2
      | .error _ => 0) = 0x201 := by decide +kernel

theorem witness_vocabulary_and_merge :
    let s := regs base [(3, 0x02000300), (4, 0x0000000002000400), (5, 31999)]
    let v := s.modMe fun t => { t with vocab := 32000, padlo := 31990, padhi := 31995 }
    writes (.vocchk ⟨6, 5, 0, 0⟩) v 6 1 ∧ writes (.vocchk ⟨6, 4, 0, 0⟩) (regs v [(4, 31990)]) 6 0 ∧ writes (.vocchk ⟨6, 4, 0, 0⟩) (regs v [(4, 32000)]) 6 0 ∧
    isMemTile s.myTile = false ∧ (s.me.queue 1).length < 2 ∧ poolOk s s.myTask s.myTile 0x300 16 false = true ∧
    poolOk s s.myTask s.myTile 0x400 16 false = true ∧ ((after (.tkmerge ⟨3, 4, 0, 0⟩) s).me.queue 1).length = 1 := by decide +kernel

theorem witness_draw_issue :
    let s := regs base [(4, 1), (5, 0x0000000300000002), (6, 0x0000010000000000)]
    (s.greg 5).extractLsb' 40 24 = 0 ∧ s.me.ldout < 4 ∧ s.slotFree 0 = true ∧ (s.draws 0).length < 256 ∧ s.reqs = [] ∧
    ((after (.rngdraw ⟨10, 4, 5, 0⟩) s).req? 100).map (fun r => (r.stage, r.op)) = some (.queued, .draw 1 0x0000000300000002) ∧
    (s.greg 6).extractLsb' 40 24 ≠ 0 ∧ traps (.rngdraw ⟨10, 4, 6, 0⟩) s 3 0x0000010000000000 := by decide +kernel

/-- A table entry of a decoding sequence in slot 5 at position 2 (R410). -/
def btImage : List Byte := natToBytes 8 (1 * 2 ^ 32 + 5 * 2 ^ 48) ++ natToBytes 24 2

/-- Die 0 coordinates a group of itself alone at iteration 8 (R411); its entry 3 is live. -/
def batched (x : Option BtTxn) : State :=
  (regs base [(4, 0x400), (5, 1), (6, 3), (7, 65), (8, 0x1000)]).modDie 0 fun d =>
    { d with btgrp := 0x3000, btset := [0], iter := 8, btab := [(3, btImage)], btTxn := x }

def txn (phase : Nat) : BtTxn := { phase := phase, iter := 9, delta := [], req := 7, waits := [0], reasons := [], start := 0 }

theorem witness_batch_issue :
    let s := batched none
    let out := regs base [(4, 0x400), (5, 1)]
    s.poolArg 0x400 64 64 = true ∧ s.poolPoisoned 0 0x400 64 = false ∧ s.me.ldout < 4 ∧ s.slotFree 0 = true ∧
    ((out.die 0).btgrp.testBit 13 && (out.die 0).btgrp.testBit 12) = false ∧ ((s.die 0).btgrp.testBit 13 = true ∧ (s.die 0).btgrp.testBit 12 = true) ∧
    (s.die 0).btTxn = none ∧ (s.tile 0).fences = [] ∧ s.reqs = [] ∧ ((batched (some (txn 1))).die 0).btTxn.isSome = true ∧
    ((after (.btprop ⟨3, 4, 5, 0⟩) s).die 0).btTxn.map (fun x => (x.phase, x.iter)) = some (1, 9) ∧
    (after (.btprop ⟨3, 4, 5, 0⟩) s).net.length = 1 ∧ traps (.btprop ⟨3, 4, 7, 0⟩) s 3 65 := by decide +kernel

theorem witness_batch_commit_read :
    let s := batched (some (txn 2))
    ((batched none).die 0).btTxn = none ∧ (s.die 0).btTxn = some (txn 2) ∧ (txn 2).phase = 2 ∧ (1 : BitVec 6).getLsbD 0 = true ∧
    answers (.btcommit ⟨3, 0, 0, 1⟩) s 3 (btStatus 0 0 0 9) ∧ ((after (.btcommit ⟨3, 0, 0, 1⟩) s).die 0).btTxn = none ∧
    ((after (.btcommit ⟨3, 0, 0, 0⟩) s).die 0).btTxn.map (·.phase) = some 3 ∧ answers (.btread ⟨3, 6, 0, 4⟩) s 3 8 ∧
    answers (.btread ⟨3, 6, 0, 0⟩) s 3 0x0005000100000000 ∧ answers (.btread ⟨3, 6, 0, 1⟩) s 3 2 ∧ traps (.btread ⟨3, 8, 0, 0⟩) s 3 0x1000 := by decide +kernel

/-- A queued request 7 of thread 0 at a unit of die 0. -/
def queued7 (op : ReqOp) : Req := { req7 op .queued with recNo := 1 }

theorem witness_proposal_steps :
    let w : Word := 0x0001000400000002
    let q := queued7 (.sxprop 5 w [0xFFFFFFFF, 0, 0, 1, 64])
    let s : State := { slotted [] with reqs := [q] }
    let z : State := { base with reqs := [q] }
    let t := after (.sxpropEvaluate 0 7) s
    s.req? 7 = some q ∧ dieOfTile q.tile = 0 ∧ (s.die 0).tripped = false ∧ s.sxWaiting 0 = [q] ∧ s.openSlot? 0 5 1 = some pslot ∧ pslot.rebuild = none ∧
    (w.extractLsb' 0 32).toNat ≤ pslot.count ∧ s.writable (poolKey s 0 0x100) 64 = true ∧ z.openSlot? 0 5 1 = none ∧ z.pslot? 0 5 = none ∧
    (after (.sxpropEvaluate 0 7) z).reqs.map (·.stage) = [.reply (-1) false] ∧
    (match t.req? 7 with
      | some r => (match r.op, r.stage with
          | .sxwords a bs, .reply _ false => a == 0x100 && !t.replyOut 7 && s.poolLoad 0 0x100 4 == 0 &&
              (after (.memoryReplyArrival 7) { t with net := [] }).poolLoad 0 0x100 4 == 0xFFFFFFFF && bs.length == 64
          | _, _ => false)
      | none => false) = true := by decide +kernel

theorem witness_rebuild :
    let x := { pslot with rebuild := some (7, slotImage) }
    let s := (slotted []).modDie 0 fun d => { d with pslots := [(5, x)] }
    let s : State := { s with reqs := [queued7 .unit] }
    s.pslot? 0 5 = some x ∧ (s.req? 7).isSome = true ∧ (after (.sxloadRebuildComplete 0 5) s).reqs.map (·.stage) = [.reply 1 false] ∧
    ((after (.sxloadRebuildComplete 0 5) s).pslot? 0 5).map (fun x => (x.count, x.rebuild)) = some (0, none) := by decide +kernel

/-- A delta of one record: entry 3 takes an image at position 2 (R412). -/
def delta1 : List Nat := [3, 0, 0] ++ List.replicate 29 0 ++ btImage.map BitVec.toNat

theorem witness_batch_messages :
    let p (ds : List Nat) (k : Nat) : Packet := (pkt 60 clsCtl 0 0 0 (.data k ds))
    let s (x : Packet) : State := { batched none with net := [x] }
    let prop := s (p (0 :: 0 :: 9 :: delta1) 4)
    let bad := s (p (0 :: 0 :: 11 :: delta1) 4)
    let held := ((s (p [0, 0, 9] 7)).modDie 0 fun d => { d with btPrepared := some (9, delta1.map (BitVec.ofNat 8)) })
    let stop := ((s (p [0, 0, 9] 6)).modDie 0 fun d => { d with btPrepared := some (9, []) })
    prop.packet? 60 = some (p (0 :: 0 :: 9 :: delta1) 4) ∧ prop.placeStopped 0 = false ∧
    ((after (.btProposalArrival 60) prop).die 0).btPrepared = some (9, delta1.map (BitVec.ofNat 8)) ∧
    (after (.btProposalArrival 60) prop).net.map (·.body) = [.data 5 [0, 0, 9, 1]] ∧ (after (.btProposalArrival 60) bad).net.map (·.body) = [.data 5 [0, 5, 11, 1]] ∧
    ((after (.btCommitArrival 60) held).die 0).iter = 9 ∧ ((after (.btAbortArrival 60) stop).die 0).btPrepared = none := by decide +kernel

theorem witness_batch_acknowledgements :
    let p : Packet := (pkt 60 clsCtl 0 0 0 (.data 5 [0, 0, 9, 1]))
    let s : State := { batched (some (txn 1)) with net := [p], reqs := [queued7 .unit] }
    let late : State := { (batched (some (txn 3))).modDie 0 fun d => { d with cycle := 2 ^ 24 } with reqs := [queued7 .unit] }
    (s.die 0).btTxn = some (txn 1) ∧ (s.req? 7).isSome = true ∧ ((after (.batchingAcknowledgement 60) s).die 0).btTxn.map (·.phase) = some 2 ∧
    (txn 3).start + 2 ^ 24 ≤ (late.die 0).cycle ∧ ((after (.btReplicaTimeout 0) late).die 0).btTxn = none ∧
    (after (.btReplicaTimeout 0) late).reqs.map (·.stage) = [.reply (btStatus 4 0 0 9) false] := by decide +kernel

theorem witness_commit_node :
    let s0 := batched none
    let f := (fireOf .commit { nrec with arity := .two, lit32 := 1 } [nw 9] [nw 3] []).cur
    let s : State := { s0 with cur := f }
    let due : State := { slotted [] with cur := f, reqs := [queued7 (.sxprop 5 1 [])] }
    s.slotsHeld 0 = false ∧ f.fir.eos = false ∧ (s.scalars f.fir).length = 1 ∧ due.slotsHeld 0 = true ∧ (after .commit due).cur.held = true ∧
    btState (base.btEntry 0 3) ≠ 1 := by decide +kernel

theorem witness_draw :
    let q := { queued7 (.draw 1 0x0000000300000002) with who := .threadPair 0 (.g 10) (.g 11) }
    let s : State := { base.modDie 0 (fun d => { d with keys := [(3, List.replicate 32 0)] }) with reqs := [q] }
    (s.die 0).tripped = false ∧ s.draws 0 = [q] ∧ s.req? 7 = some q ∧ q.stage ≠ .region ∧ dieOfTile q.tile = 0 ∧
    (mapFind? (s.die 0).keys ((0x0000000300000002 : Word).extractLsb' 32 8).toNat).isSome = true := by decide +kernel

/-! ## Class 14 -/

theorem witness_machine_register_access :
    let s := regs base [(4, 77)]
    let u := base.modDie 0 fun d => { d with roots := [(1, (0x1000, false))] }
    let w := (two.modTile 0 fun x => { x with testctl := 1 }).modThread 1 fun t => { t with g := [(5, 99)] }
    let m := regs { onMem with tiles := [(1, tile1)] } [(4, 77)]
    inMap 0x016 = false ∧ traps (.mrd ⟨3, 0, 0x016⟩) s 1 0x1234 ∧ inMap 0x100 = true ∧ readPriv 0x100 = true ∧ u.privileged 0 = false ∧
    traps (.mrd ⟨3, 0, 0x100⟩) u 0x21 0x100 ∧ writePriv 0x058 = true ∧ traps (.mwr ⟨0, 4, 0x058⟩) u 0x21 0x058 ∧ isWindow 0x1045 = true ∧
    s.privileged 0 = true ∧ s.windowOk 0x1045 = false ∧ traps (.mrd ⟨3, 0, 0x1045⟩) s 0x21 0x1045 ∧ w.windowOk 0x1045 = true ∧
    writes (.mrd ⟨3, 0, 0x1045⟩) w 3 99 ∧ (isMemTile m.myTile && computeReg 0x010) = true ∧ writes (.mrd ⟨3, 0, 0x010⟩) m 3 0 ∧
    goesTo (.mwr ⟨0, 4, 0x010⟩) m m.advance ∧ writes (.mrd ⟨3, 0, 0x004⟩) s 3 0x405 ∧ (after (.mwr ⟨0, 4, 0x00C⟩) s).me.trapscr = 77 ∧
    (after (.mwr ⟨0, 4, 0x00C⟩) s).me.pc = 0x8008 := by decide +kernel

theorem witness_miss_ring_write :
    let s := base
    let busy := (base.modDie 0 fun d => { d with runs := [(1, { run1 with tiles := [(0, { TaskTile.reset with missring := 0x12000100 })] })] }).poolWriteNat 0 0x100 4 1
    s.ringOk 1 0 0x12000100 = true ∧ s.ringOk 1 0 0x11000100 = false ∧ (s.taskTile 1 0).misses = [] ∧ (s.run? 1).isSome = true ∧
    ((after (.missringWrite 0x12000100) s).taskTile 1 0).missring = 0x12000100 ∧ goesTo (.missringWrite 0x11000100) s s ∧
    (busy.taskTile 1 0).missring.getLsbD 28 = true ∧ busy.missTail 1 0 ≠ (busy.taskTile 1 0).missHead ∧ goesTo (.missringWrite 0) busy busy := by decide +kernel

theorem witness_system_writes :
    let s := regs base [(4, 77)]
    let q := filled 1 s
    scratchOk s 1 0 0x140 260 = true ∧ ((after (.ntrapctlWrite 0x1000140) s).taskTile 1 0).ntrapctl = 0x1000140 ∧
    scratchOk s 1 0 0x1FFF80 260 = false ∧ goesTo (.ntrapctlWrite 0x11FFF80) s s ∧ goesTo (.ntrapctlWrite 0x1000120) s s ∧
    mapGet 0 ((after (.repairWrite 127 0xFFF) s).tile 0).repair 127 = 0x7FF ∧ s.engineBusy 0 1 = false ∧ q.engineBusy 0 1 = true ∧
    goesTo (.timelineCounterWrite 1 9) q q ∧ (after (.timelineCounterWrite 1 9) s).me.counter 1 = 9 ∧
    (after (.errorRegisterClear 0x022 0x10000) (s.modMe fun t => { t with err := [(0, 0x10021), (1, 5)] })).me.err = [(1, 5)] ∧
    goesTo (.errorRegisterClear 0x022 0xFFFEFFFF) s s ∧ (after (.machineRegisterWrite 0x004 0x10000C) (s.modMe fun t => { t with excmode := 0x310406 })).me.excmode = 0x210004 ∧
    ((after (.machineRegisterWrite 0x058 5) s).die 0).fltlost = 5 ∧ ((after (.machineRegisterWrite 0x080 3) s).tile 0).testctl = 1 ∧
    (after (.machineRegisterWrite 0x043 64) s).me.sxlmin = 64 ∧ goesTo (.machineRegisterWrite 0x043 65) s s ∧ goesTo (.machineRegisterWrite 0x044 0) s s ∧
    ((after (.machineRegisterWrite 0x1068 0x1FF) s).thread 1).p = 0xFE := by decide +kernel

theorem witness_halt_and_invalidate :
    let e (asid : Nat) : TlbEntry := { asid := asid, va := 0x4000, size := 4096, pa := 0x4000, rd := true, wr := true, rc := false }
    let s := (regs base [(4, 0x4000), (5, 1), (6, 0x1000)]).modDie 0 fun d => { d with tlb := [e 1, e 2] }
    let u := base.modDie 0 fun d => { d with roots := [(1, (0x1000, false))] }
    (after (.halt ⟨0, 0, 0, 0⟩) s).me.running = false ∧ u.privileged 0 = false ∧ traps (.tlbinv ⟨3, 4, 5, 0⟩) u 0x21 0 ∧ s.privileged 0 = true ∧
    (s.greg 6).extractLsb' 12 52 ≠ 0 ∧ traps (.tlbinv ⟨3, 4, 6, 1⟩) s 3 0x1000 ∧ (after (.tlbinv ⟨3, 4, 5, 0⟩) (s.modMe fun t => { t with ldout := 4 })).cur.held = true ∧
    answers (.tlbinv ⟨3, 4, 5, 0⟩) s 3 1 ∧ ((after (.tlbinv ⟨3, 4, 5, 0⟩) s).die 0).tlb = [e 2] ∧ ((after (.tlbinv ⟨3, 4, 5, 2⟩) s).die 0).tlb = [] := by
  decide +kernel

/-- Another running task, 2, on tile 2. -/
def running2 (saving : Bool) (g : SMap Word) : State :=
  (regs base g).modDie 0 fun d => { d with
    tasks := [(1, .record rec1), (2, .record { rec1 with hdr := 0x5001 ||| 2 <<< 18 })],
    runs := [(1, run1), (2, { run1 with tiles := [(2, TaskTile.reset)], saving := saving })] }

theorem witness_save_and_load_issue :
    let s := running2 false [(4, 2), (5, 0x20000), (6, 1), (7, 9), (8, 0x20800), (9, 0x1000), (10, 0x33)]
    let o := (running2 true [(4, 0x20000), (5, 0x23), (6, 0x1000)]).writeNat 0x20018 8 2
    s.privileged 0 = true ∧ s.taskById 2 = some 2 ∧ s.mayPreempt 2 = true ∧ s.myTask ≠ some 2 ∧ moduleOfDie (dieOfTask 2) = moduleOfDie 0 ∧
    ((after (.ctxsave ⟨3, 4, 5, 0⟩) s).die 0).saves.map (fun j => (j.task, j.area)) = [(2, 0x20000)] ∧ (after (.ctxsave ⟨3, 4, 5, 0⟩) s).greg 3 = 1 ∧
    s.taskById 9 = none ∧ writes (.ctxsave ⟨3, 7, 5, 0⟩) s 3 0 ∧ s.taskById 1 = some 1 ∧ s.myTask = some 1 ∧ writes (.ctxsave ⟨3, 6, 5, 0⟩) s 3 0 ∧
    traps (.ctxsave ⟨3, 4, 8, 0⟩) s 3 0x20800 ∧ traps (.ctxload ⟨3, 8, 10, 0⟩) s 3 0x20800 ∧ traps (.ctxload ⟨3, 4, 6, 0⟩) o 3 0x1000 ∧
    s.areaTask 0 1 0x20000 = none ∧ writes (.ctxload ⟨3, 5, 10, 0⟩) s 3 0 ∧ o.areaTask 0 1 0x20000 = some 2 ∧ o.savedOut 2 = true ∧
    ((after (.ctxload ⟨3, 4, 5, 0⟩) o).die 0).loads.map (fun j => (j.task, j.ax, j.ay)) = [(2, 3, 2)] := by decide +kernel

theorem witness_power_and_doorbell :
    let s := (regs base [(4, 3), (5, 99), (6, 0x100)]).modDie 0 fun d => { d with budget := some 1000, remain := some 900, doorbell := some ⟨0x40000, 0x5000⟩ }
    let full := s.writeNat 0x40000 8 1024
    (0x7FFFFFFFFF : BitVec 39).msb = true ∧ traps (.pwrhint ⟨3, 0, -1⟩) s 1 0x1234 ∧ s.windowDue 0 = false ∧ (s.run? 1).isSome = true ∧
    (after (.pwrhint ⟨3, 0, 500⟩) s).greg 3 = 100 ∧ (after (.pwrhint ⟨3, 0, 500⟩) s).remain 0 = 1000 ∧
    (base.die 0).doorbell = none ∧ traps (.swint ⟨0, 3, 4, 0⟩) base 0x21 0 ∧ traps (.swint ⟨0, 6, 5, 0⟩) s 3 0x100 ∧
    full.bellsFull 0 ⟨0x40000, 0x5000⟩ = true ∧ (after (.swint ⟨0, 4, 5, 0⟩) full).cur.held = true ∧ s.bellsFull 0 ⟨0x40000, 0x5000⟩ = false ∧
    s.reqs = [] ∧ (s.tile 0).fences = [] ∧ 0x40000 % 4096 = 0 ∧ (after (.swint ⟨0, 4, 5, 0⟩) s).readNat 0x40000 8 = 1 ∧
    (after (.swint ⟨0, 4, 5, 0⟩) s).readNat 0x40040 8 = 99 := by decide +kernel

theorem witness_replay :
    let f := (fireOf .addNode nrec [nw 1] [nw 2] []).cur.fir
    let e : NodeSlot := { elem .addNode { quiet with arity := .two, etype := .i32 } with trapped := true, held := [f] }
    let s : State := { regs base [(4, 0), (5, 9)] with nodes := [(0, e)] }
    let z : State := { s with nodes := [(0, { e with trapped := false })] }
    let p : Req := { req7 (.load 8 false) .parked with who := .node f false }
    let q : State := { s with reqs := [p] }
    let u := (regs base [(5, 9)]).modDie 0 fun d => { d with roots := [(1, (0x1000, false))] }
    (after (.replay ⟨3, 4, 0, 1⟩) s).greg 3 = 1 ∧ ((after (.replay ⟨3, 4, 0, 1⟩) s).pe 0).ready.length = 1 ∧
    z.element? (z.nodeKey 1 0 0) = some { e with trapped := false } ∧ writes (.replay ⟨3, 4, 0, 1⟩) z 3 0 ∧
    (q.parkedOps 1).any q.resubmitHolds = false ∧ (after (.replay ⟨3, 4, 0, 0⟩) q).greg 3 = 1 ∧ (after (.replay ⟨3, 4, 0, 0⟩) q).reqs.map (·.stage) ≠ [.parked] ∧
    u.privileged 0 = false ∧ (9 : Word) ≠ u.instanceId 1 ∧ traps (.replay ⟨3, 5, 0, 0⟩) u 0x21 9 ∧ s.taskById 9 = none ∧
    writes (.replay ⟨3, 5, 0, 0⟩) s 3 0 := by decide +kernel

/-! ## Saves and restores -/

/-- Type 1 in class S. -/
def typeS : List Word := [0x20000, 0x8000, 0x8000, 0x8000008000000000, 0x02000200000003E8, 0x2110, 0, 0]

/-- Task 2 of running2 with its thread, being saved. -/
def saving2 (type : List Word) (phase start : Nat) (th : Thread) : State :=
  let s := (running2 true []).modDie 0 fun d => { d with
    cycle := 2 ^ 25, runs := [(2, { run1 with type := type, tiles := [(2, { TaskTile.reset with thrCount := 1 })], saving := true })],
    saves := [⟨2, phase, 0, 1, 0x20000, start, none⟩] }
  { s with threads := [(16, { th with task := some 2 })] }

def waitingTh : Thread := { thread1 with wait := some ⟨0x10000, 0, 5, .g 3, 0, 0⟩, trapvec := 0x9001 }

theorem witness_class_g_save :
    let s := saving2 type1 0 0 waitingTh
    let t := after (.classGSave 0 0) s
    let s1 := saving2 type1 1 0 thread1
    let open_ := { s1.modTile 2 (fun x => { x with ctx := [(9, 2)] }) with pes := [(32, { Pe.reset with packers := [⟨{ (default : Token) with tag := 9 * 2 ^ 48 }, none, 0⟩] })] }
    let busy : State := { s1 with reqs := [{ req7 (.load 8 false) .queued with task := 2 }] }
    let stop := s.modDie 0 fun d => { d with runs := [(2, { run1 with stopping := true, saving := true })] }
    (s.saveJob? 0 0 false).isSome = true ∧ (s.die 0).tripped = false ∧ s.regionRuns 2 = true ∧ dieOfTask 2 = 0 ∧ s.taskThreads 2 = [16] ∧
    (t.die 0).saves.map (fun x => (x.phase, x.start)) = [(1, 2 ^ 25)] ∧ (t.thread 16).wait = none ∧ t.readNat 0x2000C 4 = 0xFFFFFFFF ∧
    (stop.saveJob? 0 0 false).isSome = true ∧ ((after (.classGSave 0 0) stop).die 0).saves = [] ∧
    (s1.regionPes 2).any (fun pe => !(s1.openRuns 2 pe).isEmpty) = false ∧ s1.saveDrained 2 = true ∧
    (open_.regionPes 2).any (fun pe => !(open_.openRuns 2 pe).isEmpty) = true ∧ ((after (.classGSave 0 0) open_).pe 32).packers = [] ∧
    busy.saveDrained 2 = false ∧ goesTo (.classGSave 0 0) busy busy := by decide +kernel

theorem witness_class_s_save :
    let s := saving2 typeS 0 0 waitingTh
    let t := after (.classSSave 0 0) s
    let s1 := saving2 typeS 1 0 thread1
    let ack := saving2 typeS 1 0 { thread1 with running := false, acked := true, trapvec := 0x9001 }
    let s2 := saving2 typeS 2 0 { thread1 with running := false }
    (s.saveJob? 0 0 true).isSome = true ∧ (t.thread 16).preempt = true ∧ (t.thread 16).wait = waitingTh.wait ∧
    (∃ th ∈ s1.taskThreads 2, (s1.thread th).running = true) ∧ goesTo (.classSSave 0 0) s1 s1 ∧
    (∀ th ∈ ack.taskThreads 2, (ack.thread th).running = false) ∧ ((after (.classSSave 0 0) ack).die 0).saves.map (·.phase) = [2] ∧
    ((ack.resumeAll 2).thread 16).trapcause = 0xB3 ∧ ((ack.resumeAll 2).thread 16).pc = 0x9000 ∧ s2.saveDrained 2 = true := by decide +kernel

theorem witness_save_timeouts :
    let held (s : State) : State := { s with reqs := [{ req7 (.barwait 0) .queued with task := 2 }] }
    let g := held (saving2 type1 1 0 thread1)
    let a := saving2 typeS 1 0 thread1
    let early := saving2 typeS 1 (2 ^ 25) thread1
    typeClassS (g.taskType 2) = false ∧ (∃ q ∈ g.reqs, q.task = 2 ∧ q.heldAtRegion = true) ∧
    (after (.saveHeldRequestTimeout 0 0) g).readNat 0x2000C 4 = 3 ∧ ((after (.saveHeldRequestTimeout 0 0) g).die 0).saves = [] ∧
    goesTo (.saveHeldRequestTimeout 0 0) (held early) (held early) ∧ goesTo (.preemptAckTimeout 0 0) early early ∧
    (a.saveJob? 0 0 true).isSome = true ∧ (after (.preemptAckTimeout 0 0) a).readNat 0x2000C 4 = 5 ∧
    ((after (.preemptAckTimeout 0 0) a).die 0).saves = [] := by decide +kernel

/-- A save whose area is not mapped ends with status 2. -/
theorem witness_scan_out_fault :
    let s := saving2 type1 1 0 thread1
    let j : SaveJob := ⟨2, 1, 0, 1, 0x7000000000, 0, none⟩
    (match s.writeVirt j.die j.asid j.area (imageHead (s.saveImage 2 run1 rec1).tail) with | .error _ => true | .ok _ => false) = true := by
  decide +kernel

/-- Restores: an area that is not there, the wrong type or instance, another die. -/
theorem witness_restore_refused :
    let j (area : Nat) : LoadJob := ⟨2, 0, 1, area, 3, 2, none⟩
    let s := (running2 true []).modDie 0 fun d => { d with loads := [j 0x20000] }
    s.readArea 0 1 0x20000 = none ∧ (after (.contextRestore 0 0) s).readNat 0x20010 4 = 1 ∧ ((after (.contextRestore 0 0) s).die 0).loads = [] ∧
    (after (.contextRestore 0 0) s).net.length = 1 := by decide +kernel

/-! ### A restore that goes through -/

def rec2 : TaskRec := { hdr := 0x5001 ||| 2 <<< 18, succ := List.replicate 8 0, opd := List.replicate 4 0, arg0 := 7, arg1 := 9 }

/-- Class G, no granule, no node, one thread. -/
def typeT : List Word := [0x20000, 0x8000, 0x8000, 0x8000000020000000, 0x02000200000003E8, 0x2110, 0, 0]

/-- Task 2 is saved out; its area at 0x20000 holds the image of a thread that stood at 0x8010 with g5 = 77. -/
def savedImage : Saved :=
  { inst := 2, task := rec2, type := typeT, classS := false,
    run := { run1 with type := typeT, tiles := [(2, TaskTile.reset)], saving := true },
    tiles := [{ off := (0, 0), kind := 0, nodes := [], pes := List.replicate 16 Pe.reset, ports := [], mem := [], sstate := [], ecc := [],
                threads := [{ thread1 with g := [(5, 77)], pc := 0x8010 }], tile := { TaskTile.reset with thrCount := 1 }, ctx := [], reqs := [],
                waves := [], cmds := [] }] }

/-- The area by R442, but for the CRC. -/
def areaFirst : List Byte := natToBytes 4 1 ++ natToBytes 4 20
def areaAll (crc : Nat) : List Byte := areaFirst ++ natToBytes 4 crc ++ List.replicate 12 0 ++ savedImage.tail

/-- A fold that the kernel evaluates as it goes: each value is looked at before the next. -/
def crcFold : BitVec 32 → List Byte → BitVec 32
  | c, [] => c
  | c, b :: bs => match Nat.ble c.toNat 0 with
    | true => crcFold (crcByte c b) bs
    | false => crcFold (crcByte c b) bs

theorem crcFold_eq (bs : List Byte) : ∀ c, crcFold c bs = bs.foldl crcByte c := by
  induction bs with
  | nil => intro c; rfl
  | cons b bs ih => intro c; rw [crcFold]; split <;> exact ih _

theorem area_crc : crcFold 0xFFFFFFFF (areaAll 0) = 2900167301#32 := by decide +kernel

theorem area_crc_all : crc32c (areaAll 0) = 1394799994#32 := by
  rw [crc32c, ← crcFold_eq, area_crc]
  decide

/-- Where the fields of R442 lie: the instance id, the task record, the type entry, one tile, class G; then the tile's block. -/
theorem test_area_layout :
    imageField (areaAll 0) 24 8 = 2 ∧ ((areaAll 0).drop 32).take 64 = rec2.bytes ∧
    (List.range 8).map (fun i => imageField (areaAll 0) (96 + 8 * i) 8) = typeT.map (·.toNat) ∧ imageField (areaAll 0) 160 2 = 1 ∧
    imageField (areaAll 0) 162 1 = 0 ∧ imageField (areaAll 0) 163 93 = 0 ∧ (areaAll 0).length = 1280 := by decide +kernel

def restorable (ax ay : Nat) : State :=
  let s := base.modDie 0 fun d => { d with
    tasks := [(1, .record rec1), (2, .record rec2)], types := [(1, typeT)],
    runs := [(1, run1), (2, { run1 with type := typeT, saving := true })], loads := [⟨2, 0, 1, 0x20000, ax, ay, none⟩] }
  let s : State := { s with images := [savedImage] }
  let s := s.modTile 36 fun x => { x with poolpart := 0xAAAAAAAAAAAAAAAA }
  s.writeBytes 0x20000 (areaAll 1394799994)

theorem area_read :
    let s := restorable 4 2
    (match s.readVirt 0 1 0x20000 256 with | .ok h => imageField h 4 4 == 20 | .error _ => false) = true ∧
    (match s.readVirt 0 1 0x20000 1280 with
      | .ok bs => bs == areaAll 1394799994 && (bs.take 8 ++ List.replicate 16 0 ++ bs.drop 24) == areaAll 0 && imageField bs 0 4 == 1 &&
          imageField bs 8 4 == 1394799994
      | .error _ => false) = true ∧ s.imageOf (areaAll 1394799994) = some savedImage := by decide +kernel

/-- What holds for a restore to go through holds (R443). -/
theorem witness_restore :
    let s := restorable 4 2
    let img := savedImage
    let r2 := { rec2 with hdr := setField (setField rec2.hdr 18 4 4) 22 4 2 }
    let s2 := s.modRec 2 fun _ => r2
    s.imageOf (areaAll 1394799994) = some img ∧ s.record? 2 = some rec2 ∧ img.type = s.typeEntry 0 rec2.ttype ∧ img.inst = s.instanceId 2 ∧
    dieOfTask 2 = 0 ∧ s2.region 2 = [36] ∧ s2.poolFits 2 img.type = true ∧ s2.rolesFree 2 = true ∧ savedKindsFit img r2 = true ∧
    (match s2.placeTiles img.type (s2.region 2) (s2.overflowUsed 0) with
      | some ps => s2.ctxsFree (img.tiles.zip ps) && (match s2.loadImage 2 img r2 ps [] with
          | some s3 => s3.blockedCount 2 == 0 && (s3.thread 288).pc == 0x8010 && (s3.thread 288).g == [(5, 77)] && (s3.thread 288).running
          | none => false)
      | none => false) = true ∧
    savedKindsFit img { rec2 with hdr := setField (setField rec2.hdr 18 4 3) 22 4 2 } = false := by decide +kernel

theorem area_of_reads (s : State) (h bs crcIn : List Byte) (c : BitVec 32) (h1 : s.readVirt 0 1 0x20000 256 = .ok h) (hl : imageField h 4 4 = 20)
    (h2 : s.readVirt 0 1 0x20000 1280 = .ok bs) (hi : bs.take 8 ++ List.replicate 16 0 ++ bs.drop 24 = crcIn) (hc : crc32c crcIn = c)
    (hv : imageField bs 0 4 = 1) (hf : imageField bs 8 4 = c.toNat) : s.readArea 0 1 0x20000 = some bs := by
  simp only [State.readArea, h1, hl, h2, hi, hc, hv, hf, and_self, if_true, Nat.reduceMul]

theorem area_readArea : (restorable 4 2).readArea 0 1 0x20000 = some (areaAll 1394799994) := by
  obtain ⟨h, hb, -⟩ := area_read
  cases e : (restorable 4 2).readVirt 0 1 0x20000 256 with
  | error c => simp [e] at h
  | ok x =>
      cases e2 : (restorable 4 2).readVirt 0 1 0x20000 1280 with
      | error c => simp [e2] at hb
      | ok y =>
          simp only [e, beq_iff_eq] at h
          simp only [e2, Bool.and_eq_true, beq_iff_eq] at hb
          obtain ⟨⟨⟨rfl, hi⟩, hv⟩, hf⟩ := hb
          exact area_of_reads _ _ _ _ _ e h e2 hi area_crc_all hv hf

/-- The image of a class S task without nodes and granules can be written where its area is mapped. -/
theorem witness_scan_out :
    let s1 := saving2 typeS 2 0 thread1
    let tail := (s1.saveImage 2 { run1 with type := typeS } rec2).tail
    (match s1.writeVirt 0 1 0x20000 (imageHead tail) with
      | .ok _ => true
      | .error _ => false) = true ∧
    (match s1.writeVirt 0 1 (0x20000 + 16) (List.replicate 8 0 ++ tail) with
      | .ok s3 => s3.readNat 0x20018 8 == 2 && s3.readNat (0x20000 + 160) 2 == 1 && s3.readNat (0x20000 + 162) 1 == 1
      | .error _ => false) = true := by decide +kernel

/-! ## The fault log, soft errors, firmware, resets -/

def frec : FaultRec :=
  { code := 0x21, die := 0, io := false, tileByte := 3, unit := 1, flags := 0, node := 0, tag := 0, task := 0, cycle := 5, op0 := 0, op1 := 0, addr := 9 }

/-- A packet 60 of that body at die 0, where it is going. -/
def arrivedAt (b : PBody) : State := { base with net := [pkt 60 0 0 0 0 b] }

theorem witness_fault_log :
    let s := (arrivedAt (.fault frec)).modDie 0 fun d => { d with log := some ⟨0x100000, 64 + 64 * 4⟩, fltloss := true }
    let t := after (.faultRecordPlace 60) s
    let full := s.writeNat 0x100000 8 4
    let u := after (.faultRecordPlace 60) full
    let v := after (.faultRecordPlace 60) (arrivedAt (.fault frec))
    s.placeStopped 0 = false ∧ s.faultBehind 60 (pkt 60 0 0 0 0 (.fault frec)) frec = false ∧ memWf s.mem = true ∧
    t.readNat 0x100000 8 = 1 ∧ memReadAll t.mem 0x100040 8 = [0x21, 0, 0, 3, 1, 0x80, 0, 0] ∧ t.readNat 0x100070 8 = 9 ∧ (t.die 0).fltloss = false ∧
    (full.readNat 0x100000 8 + 2 ^ 64 - full.readNat 0x100008 8) % 2 ^ 64 = 4 ∧ u.mem = full.mem ∧ (u.die 0).fltlost = 1 ∧
    v.mem = base.mem ∧ (v.die 0).fltlost = 1 ∧ v.net = [] := by decide +kernel

theorem witness_soft_errors :
    let e := elem .addNode nrec
    let b : Bobbin := { level := 0, loc := 0, port := 0, creq := 1, reqs := [], lost := false, lostIds := [] }
    let s : State := { base with nodes := [(0, e)], bobbins := [(3, b)] }
    let w : Packet := { pkt 60 1 0 0 5 (.req 7) with left := 0, worm := [⟨0, 1, [false]⟩] }
    let l := after (.eccUncorrectable (.link 0 1 (some 60))) { base with net := [w] }
    (mapGet 0 l.retired (linkDir 0 1), mapGet 0 l.retired (linkDir 1 0), l.net) = (1, 0, [{ w with bad := true }]) ∧
    (after (.eccUncorrectable (.word 0x4001)) s).ecc = [0x800] ∧ (s.thread 0).task = some 1 ∧ ((after (.eccUncorrectable (.register 0)) s).thread 0).running = false ∧
    (after (.eccUncorrectable (.register 0)) s).net.length = 1 ∧ s.element? 0 = some e ∧ e.blocked = false ∧
    (after (.eccUncorrectable (.element 0)) s).element? 0 = some { e with blocked := true, bad := e.raw } ∧
    mapFind? (after (.eccUncorrectable (.bobbin 3 none)) s).bobbins 3 = some { b with lost := true } ∧
    mapFind? (after (.eccUncorrectable (.bobbin 3 (some 5))) s).bobbins 3 = some { b with lostIds := [5] } := by decide +kernel

/-- An image of type 2 where type 1 is due does not start, whatever it holds. -/
theorem witness_boot_refused :
    let img : List Byte := natToBytes 4 0x5746514A ++ [2, 0]
    (base.module 0).powered = true ∧ mapFind? (base.module 0).firmware 1 = none ∧ imageType img ≠ 1 ∧
    ((after (.firmwareBoot 0 img) base).module 0).reports = [[2, 1]] ∧ ((after (.firmwareBoot 0 img) base).module 0).firmware = [] := by decide +kernel

theorem witness_resets :
    let s := base.modModule 0 fun x => { x with ownerKey := some [1], firmware := [(1, 5)] }
    let s := s.writeNat (2 ^ 44 + 8) 8 7
    let s := s.poolWriteNat 0 0x40 4 9
    let t := after (.moduleReset 0) s
    let u := after (.powerDown 0) s
    isDram 0x1000 = true ∧ t.readByte 0x1001 = s.readByte 0x1001 ∧ s.readByte 0x1001 = 0x20 ∧ isDram (poolKey s 0 0x40) = false ∧
    s.readByte (poolKey s 0 0x40) = 9 ∧ t.readByte (poolKey s 0 0x40) = 0 ∧ t.thread 0 = Thread.reset ∧ t.die 0 = Die.reset ∧
    (t.module 0).ownerKey = some [1] ∧ (t.module 0).firmware = [] ∧ t.readByte (2 ^ 44 + 8) = 7 ∧
    u.readByte 0x1001 = 0 ∧ (u.die 5).tripped = true ∧ (u.module 0).powered = false ∧ (u.module 0).ownerKey = some [1] ∧ u.readByte (2 ^ 44 + 8) = 7 := by
  decide +kernel

theorem witness_thermal :
    (base.die 0).tripped = false ∧ ((after (.thermalTrip ⟨0, 110, 110⟩) base).die 0).tripped = true ∧ ((after (.thermalTrip ⟨0, 110, 110⟩) base).module 0).reports = [[3, 0]] ∧
    (1875 : Nat) < 1876 := by decide +kernel

/-- The limits never rise, and a lower one takes effect (R459). -/
theorem witness_thermal_low :
    let s := after (.thermalTrip ⟨0, 50, 90⟩) base
    (s.die 0).tripped = false ∧ (s.die 0).tripPoint = 90 ∧ ((after (.thermalTrip ⟨0, 95, 120⟩) s).die 0).tripped = true ∧
    ((after (.currentGovernorThrottle 0 ⟨1000, 900⟩) base).die 0).cycle = (base.die 0).cycle + 1 ∧
    ((after (.currentGovernorThrottle 0 ⟨1000, 2000⟩) base).die 0).governor = 1875 ∧
    ((after (.currentGovernorThrottle 0 ⟨1000, 2000⟩) base).die 0).cycle = (base.die 0).cycle := by decide +kernel

/-! ## The network -/

theorem witness_hops :
    nextHop false 0 10 = 1 ∧ nextHop true 0 10 = 4 ∧ nextHop false 2 10 = 6 ∧ nextHop false 10 0 = 9 ∧ (0 : Nat) / 16 = 10 / 16 := by decide +kernel

/-- Packet 60 of request 7 somewhere on its way. -/
def travelling (at_ dst : Nat) (r : Req) : State := { withReq r with net := [(pkt 60 1 0 at_ dst (.req 7))] }

theorem witness_packets :
    let r := req7 (.load 8 false) .transit
    let far := { r with pa := 2 ^ 44 + 0x10000 }
    let scoped_ := { far with op := .bar 1 none, snap := default }
    let s := travelling 5 5 r
    let m := travelling 0 5 r
    let p := pkt 60 1 0 0 5 (.req 7)
    let x := travelling (ioLoc 1) 16 far
    let up := x.modIo 1 fun z => { z with ports := [(36, 1)] }
    let y := travelling (ioLoc 1) 16 scoped_
    let stop := m.modDie 0 fun d => { d with tripped := true }
    let tok : Token := ⟨3, 0x5002, [nw 4], false⟩
    let z := arrivedAt (.token 0 2 tok)
    goesTo (.packetReceive 60) stop stop ∧ s.placeStopped 5 = false ∧ (s.req? 7).map (·.stage) = some .transit ∧
    ((after (.packetReceive 60) s).req? 7).map (·.stage) = some .region ∧ (after (.packetReceive 60) s).net = [] ∧
    (((after (.packetReceive 60) z).pe (2 * 16 + 5)).input.map (·.tok)) = [tok] ∧ p.leg = 5 ∧ m.headStays p = false ∧ m.outranked p 0 (m.hop 0 5) = false ∧
    m.flitPlace p 0 (m.hop 0 5) = some false ∧
    ((after (.packetReceive 60) m).packet? 60).map (fun q => (q.head, q.at_, q.left, q.worm)) = some (1, 0, 0, [⟨0, 1, [false]⟩]) ∧
    x.net.map (fun q => (q.leg, q.num)) = [(ioLoc 1, none)] ∧ x.ioMisses (pkt 60 1 0 (ioLoc 1) 16 (.req 7)) = none ∧ (x.io 1).ports = [] ∧
    goesTo (.packetReceive 60) x x ∧ (up.io 1).portFor 1 = some 36 ∧ up.isPeer 0 (16 * 2 ^ 40) = false ∧
    ((after (.packetReceive 60) up).packet? 60).map (·.num) = some (some (36, 0)) ∧
    (y.ioMisses (pkt 60 1 0 (ioLoc 1) 16 (.req 7))).map (·.id) = some 7 ∧ ((after (.packetReceive 60) y).req? 7).map (·.stage) = some .miss := by decide +kernel

/-- A packet of a lower class waits for one of a higher class at a link; one that a link has corrupted is discarded with PACKET_BAD; a ninth
packet of a port waits for the first of eight in flight; beats reach their circuit. -/
theorem witness_packet_order :
    let r := req7 (.load 8 false) .transit
    let low := pkt 60 2 0 0 5 (.rsp 7)
    let w : State := { withReq r with net := [low, pkt 61 1 0 0 5 (.req 7)] }
    let bad := { pkt 60 1 0 0 1 (.req 7) with bad := true }
    let b : State := { withReq r with net := [bad] }
    let eight := (List.range 8).map fun j => { pkt (70 + j) 1 0 (ioLoc 1) 16 (.data 0 []) with num := some (36, j) }
    let n : State := { withReq r with net := eight ++ [pkt 60 1 0 (ioLoc 1) 16 (.data 0 [])] }
    let n := n.modIo 1 fun z => { z with ports := [(36, 1)], sent := [(36 * 2 ^ 11 + 2, 8), (36 * 2 ^ 11 + 3, 8)] }
    let c : Circuit := { src := (0, 16), dst := (18, 0), width := 1, wire := [], creds := 0, route := [], moving := false, broken := false }
    let t : State := { arrivedAt (.beats 3 [7]) with circuits := [(3, c)] }
    low.left = 1 ∧ w.headStays low = false ∧ (0, w.hop 0 5) ∈ w.wants (pkt 61 1 0 0 5 (.req 7)) ∧
    (w.flitPlace (pkt 61 1 0 0 5 (.req 7)) 0 (w.hop 0 5)).isSome = true ∧ goesTo (.packetReceive 60) w w ∧
    b.hop 0 1 = bad.leg ∧ b.headStays bad = false ∧ b.outranked bad 0 1 = false ∧ b.flitPlace bad 0 1 = some false ∧
    (after (.packetReceive 60) b).net.map (fun q => match q.body with
      | .fault f => f.code
      | _ => 0) = [0x61] ∧
    goesTo (.packetReceive 60) n n ∧ ((after (.packetReceive 60) t).circuit? 3).map (·.wire) = some [7] := by decide +kernel

theorem witness_watchdog :
    let late (op : ReqOp) : State := (withReq (req7 op .queued)).modDie 0 fun d => { d with cycle := 2 ^ 24 }
    let l := late (.load 8 false)
    let a := late (.atomic default)
    let early := (late (.load 8 false)).modDie 0 fun d => { d with cycle := 2 ^ 24 - 1 }
    let q := req7 (.load 8 false) .queued
    q.slot = true ∧ q.stage ≠ .parked ∧ (l.die 0).frozen = [] ∧ (after (.requestWatchdogExpiry 7) l).me.deferred = [⟨0x0062, 0x10000, some 7⟩] ∧
    (after (.requestWatchdogExpiry 7) a).me.deferred = [⟨0x0050, 0x10000, none⟩] ∧ goesTo (.requestWatchdogExpiry 7) early early := by decide +kernel

theorem witness_links :
    let c : Circuit := { src := (0, 16), dst := (18, 0), width := 1, wire := [], creds := 0, route := [linkOf 0 1], moving := false, broken := false }
    let s : State := { base with circuits := [(3, c)] }
    let l := linkOf 0 1
    l ∉ s.withdrawn ∧ l ∈ c.route ∧ c.broken = false ∧ (∀ x ∈ s.circuits, linkOf 1 2 ∉ x.2.route ∨ x.2.broken = true) ∧
    (after (.linkWithdraw (linkOf 1 2)) s).withdrawn = [linkOf 1 2] ∧ goesTo (.linkWithdraw l) { s with withdrawn := [l] } { s with withdrawn := [l] } ∧
    (Config.circuitRoute s.tick 3 = [] ∨ l ∈ Config.circuitRoute s.tick 3 ∨ (Config.circuitRoute s.tick 3 ≠ [] ∧ l ∉ Config.circuitRoute s.tick 3)) := by
  refine ⟨by decide, by decide, by decide, by decide, by decide +kernel, by decide +kernel, ?_⟩
  by_cases h : Config.circuitRoute base.tick 3 = []
  · exact .inl h
  · by_cases h2 : linkOf 0 1 ∈ Config.circuitRoute base.tick 3
    · exact .inr (.inl h2)
    · exact .inr (.inr ⟨h, h2⟩)

theorem witness_ualink :
    let up := after (.ualinkPortTraining 1 36 4 200) base
    let slow := after (.ualinkPortTraining 1 36 2 200) up
    let s := (base.modIo 1 fun x => { x with ports := [(36, 1)] }).modModule 0 fun x => { x with filter := [1] }
    let bad : List Byte := 7 :: List.replicate 15 0
    let t := after (.ualinkChunkReceive 1 2 0 bad true) s
    let part : List Byte := 0 :: 8 :: List.replicate 254 0
    goesTo (.ualinkPortTraining 0 36 4 200) base base ∧ mapFind? (up.io 1).ports 36 = some 1 ∧ mapFind? (slow.io 1).ports 36 = none ∧
    (slow.module 0).reports = [[1, 1, 36, 2, 200]] ∧ goesTo (.ualinkChunkReceive 1 2 0 bad false) s s ∧ goesTo (.ualinkChunkReceive 1 4 0 bad true) s s ∧
    assembled [(2, 0, 0, bad)] 2 0 = some bad ∧ packetGood bad = false ∧ t.net.length = 1 ∧ (t.io 1).chunks = [] ∧
    assembled [(2, 0, 0, part)] 2 0 = none ∧ ((after (.ualinkChunkReceive 1 2 0 part true) s).io 1).chunks = [(2, 0, 0, part)] := by decide +kernel

/-- A good packet without a payload, its header by R288: class 0, kind 0, from module 1, to address 0x10000. -/
theorem witness_ualink_forward :
    let bs : List Byte := natToBytes 12 (2 ^ 28 + 0x10000 * 2 ^ 38) ++ natToBytes 4 1349483881
    let p : Packet := { pkt 60 1 16 (ioLoc 2) 0 (.req 7) with num := some (36, 0) }
    let s : State := { withReq (req7 (.load 8 false) .transit) with net := [p] }
    let s := (s.modIo 1 fun x => { x with ports := [(36, 1)] }).modModule 0 fun x => { x with filter := [1] }
    packetGood bs = true ∧ assembled [(2, 0, 0, bs)] 2 0 = some bs ∧ s.crossing 2 1 0 (bytesToNat (bs.take 16)) = some p ∧ s.packet? 60 = some p ∧
    ((after (.ualinkChunkReceive 1 2 0 bs true) s).packet? 60).map (fun q => (q.at_, q.left)) = some (ioLoc 1, 1) := by decide +kernel

theorem witness_peer_answer :
    let r := { req7 (.load 8 false) .transit with pa := 5 * 2 ^ 44 + 0x10000 }
    let s := (travelling (ioLoc 1) 80 r).modModule 0 fun x => { x with accels := [5] }
    s.packetOf 7 = some (pkt 60 1 0 (ioLoc 1) 80 (.req 7)) ∧ isIo (ioLoc 1) = true ∧ s.isPeer 0 r.pa = true ∧
    s.packetWaits (pkt 60 1 0 (ioLoc 1) 80 (.req 7)) = false ∧ (after (.transactionLayerResponse 7 77) s).packet? 60 = none ∧
    (after (.transactionLayerResponse 7 77) s).reqs.map (·.stage) = [.reply 77 false] := by decide +kernel

theorem witness_pcie :
    let s := base.modIo 0 fun x => { x with windows := [(0, (0x40000, 0x4000F))] }
    let t := after (.pcieDmaAccess 0 true 0x40008 [1, 2]) s
    let bad := after (.pcieDmaAccess 0 true 0x4000F [1, 2]) s
    memWf s.mem = true ∧ (∃ w ∈ (s.io 0).windows, w.2.1 ≤ 0x40008 ∧ 0x40008 + 2 ≤ w.2.2 + 1) ∧ (∀ i ∈ List.range 2, backing s (0x40008 + i) ≠ .unbacked) ∧
    (∀ i ∈ List.range 2, s.guarded (0x40008 + i) = false) ∧ s.writable 0x40008 2 = true ∧ t.readNat 0x40008 2 = 0x201 ∧ t.net = [] ∧
    bad.mem = s.mem ∧ bad.net.length = 1 ∧ goesTo (.pcieDmaAccess 0 false 0x40008 [1, 2]) s s ∧ goesTo (.pcieDmaAccess 0 true 0x40008 []) s s := by decide +kernel

/-! ## The journal -/

/-- The first 24 bytes of an entry: SEQ, state, flags, code (R454), then its arguments. -/
def jbytes (seq state flags code : Nat) (args : List Byte) : List Byte :=
  natToBytes 8 seq ++ [BitVec.ofNat 8 state, BitVec.ofNat 8 flags] ++ natToBytes 2 code ++ List.replicate 12 0 ++ args ++ List.replicate (104 - args.length) 0

def jentry (code state : Nat) (args : List Byte) : JEntry := { bytes := jbytes 0 1 0 code args, state := state, aux := [] }

/-- Entry 0 of module 0 is there in a state. -/
def journaled (e : JEntry) (s : State) : State := s.modModule 0 fun x => { x with head := 1, entries := [(0, e)] }

theorem witness_journal_entries :
    let put (state : Nat) : State := (base.writeNat 0xFFF000000 8 1).writeBytes (journalEntryOff 0) (jbytes 0 state 0 2 [])
    let s := put 1
    let t := after (.journalEntryAccept 0) s
    let u := after (.journalEntryAccept 0) (put 0)
    let off := s.modModule 0 fun x => { x with powered := false }
    memWf s.mem = true ∧ s.journalUp 0 = true ∧ s.journalCount 0 0 ≠ (s.module 0).head ∧ (s.module 0).done ≤ (s.module 0).head ∧
    (t.module 0).head = 1 ∧ u.readNat 0xFFF000008 8 = 1 ∧ u.readNat (2 ^ 43 + 0xFFF000008) 8 = 1 ∧
    (mapFind? (t.module 0).entries 0).map (·.state) = some 2 ∧ u.readByte (0xFFF001000 + 8) = 5 ∧ u.readNat (0xFFF001000 + 12) 4 = 1 ∧
    off.journalUp 0 = false ∧ goesTo (.journalEntryAccept 0) off off ∧ base.journalCount 0 0 = 0 ∧ goesTo (.journalEntryAccept 0) base base := by decide +kernel

/-- A command of another code, or one whose entry is over, does nothing; each command has an entry that it runs for (R455). -/
theorem witness_journal_commands :
    let e (code : Nat) := jentry code 2 []
    let s (code : Nat) := journaled (e code) base
    let done := journaled (jentry 3 4 []) base
    (∀ c ∈ [1, 2, 3, 4, 5, 6, 7, 0x10, 0x11, 0x12, 0x13, 0x14, 0x15, 0x16, 0x17, 0x18, 0x20, 0x21],
      mapFind? ((s c).module 0).entries 0 = some (e c) ∧ (s c).journalUp 0 = true ∧ ((s c).module 0).mayRun 0 (e c) = true ∧ entryCommand (e c).bytes = c) ∧
    IsCommand 0 0 3 (.cancelCmd 0 0) ∧ entryCommand (e 4).bytes ≠ 3 ∧ goesTo (.cancelCmd 0 0) (s 4) (s 4) ∧
    (done.module 0).mayRun 0 (jentry 3 4 []) = false ∧ goesTo (.cancelCmd 0 0) done done := by
  refine ⟨by decide +kernel, by simp [IsCommand], by decide +kernel, by decide +kernel, by decide +kernel, by decide +kernel⟩

theorem witness_journal_inst :
    let bad := journaled (jentry 2 2 [16]) base
    let args : List Byte := [0, 0, 1, 0, 0, 0, 0, 0] ++ natToBytes 8 0x20000 ++ natToBytes 8 0x20400
    let s := journaled (jentry 2 2 args) base
    let far := journaled (jentry 2 2 ([0, 0, 1, 0, 0, 0, 0, 0] ++ natToBytes 8 0x20000 ++ natToBytes 8 0x7000000000)) base
    bad.instArgs 0 (jentry 2 2 [16]).bytes = none ∧ (after (.instCmd 0 0) bad).readByte 0xFFF001008 = 5 ∧ (after (.instCmd 0 0) bad).readNat 0xFFF00100C 4 = 2 ∧
    s.instArgs 0 (jentry 2 2 args).bytes = some ⟨0, 1, 0, 0x20000, 0x20400⟩ ∧
    (match s.readVirt 0 1 0x20400 128 with | .ok _ => true | .error _ => false) = true ∧
    (after (.instCmd 0 0) s).readByte 0xFFF001008 = 5 ∧ (after (.instCmd 0 0) s).readNat 0xFFF00100C 4 = 4 ∧
    (match far.readVirt 0 1 0x7000000000 128 with | .ok _ => false | .error _ => true) = true ∧ (after (.instCmd 0 0) far).readNat 0xFFF00100C 4 = 4 := by
  decide +kernel

/-- Where an argument is free, each of the cases a statement makes of it can stand: whatever it is, it falls under one. -/
theorem witness_journal_free_arguments (a : Nat) :
    (a = 0 ∨ 16384 < a ∨ (1 ≤ a ∧ a ≤ 16384)) ∧ (a = 0 ∨ 255 < a ∨ (1 ≤ a ∧ a ≤ 255)) ∧ (a = (base.module 0).epoch ∨ a ≠ (base.module 0).epoch) := by
  refine ⟨by omega, by omega, Classical.em _⟩

/-- An owner key is written once (R452). -/
theorem witness_journal_owner_key :
    let s := journaled (jentry 0x21 2 []) (base.modModule 0 fun x => { x with ownerKey := some [1] })
    (s.module 0).ownerKey.isSome = true ∧ (base.module 0).ownerKey = none ∧ areaOf 0 0 7 = none ∧ areaOf 0 64 8 = some ⟨64, 16448⟩ ∧
    areaPlaceOk 0 ⟨64, 16448⟩ = true ∧ areaPlaceOk 0 ⟨0xFFF000000, 1⟩ = false ∧ areaPlaceOk 1 ⟨0xFFF000000, 1⟩ = true ∧ base.dieIdle 0 = false ∧
    State.reset.dieIdle 0 = true ∧ imageType [] = 0 := by decide +kernel

/-- A slot under rebuild holds an SXFREE, one without does not (R404, R409). -/
theorem witness_journal_slot_holds :
    let x : PSlot := { (default : PSlot) with asid := 3 }
    let free := base.modDie 0 fun d => { d with pslots := [(5, x)] }
    let busy := base.modDie 0 fun d => { d with pslots := [(5, { x with rebuild := some (7, []) })] }
    busy.slotHolds 0 5 = true ∧ free.slotHolds 0 5 = false ∧ (0 : Nat) % 64 < 0 % 64 + 1 := by decide +kernel

/-! ## Class 15 -/

/-- Debug register 0 of tile 0. -/
def debugging (ctl : Word) (g : SMap Word) : State := (regs base g).setDbg 0 0 ctl

/-- A STOP freezes the tiles of the cluster. -/
def isFrozen (t : State) (v : Nat) : Bool :=
  (t.die 0).frozen.contains 0 && (clusterTiles 0).all fun u => t.dbg u 8 == BitVec.ofNat 64 v

theorem witness_breakpoint :
    let s := debugging 1 []
    let t := after (.bkpt ⟨0, 0, 0x123⟩) s
    s.me.pass = false ∧ (s.dbg 0 0).getLsbD 0 = true ∧ t.cur.held = true ∧ t.me.pass = true ∧ isFrozen t (1 + 2 + 0x123 * 2 ^ 20) ∧
    goesTo (.bkpt ⟨0, 0, 0x123⟩) base base.advance ∧ goesTo (.bkpt ⟨0, 0, 0x123⟩) (s.modMe fun t => { t with pass := true })
      (s.modMe fun t => { t with pass := true }).advance := by decide +kernel

theorem witness_watch :
    let s := debugging 0 [(4, 0x40000), (5, 0x146), (6, 0x40020), (7, 0x80)]
    let o : AR := ⟨3, 4, 5, 2⟩
    let t := after (.watch o) s
    (0x146 : Word).getLsbD 7 = false ∧ t.greg 3 = 1 ∧ t.dbg 0 0x50 = 0x40000 ∧ (t.dbg 0 0x58).extractLsb' 0 2 = 2 ∧ (t.dbg 0 0x58).getLsbD 2 = true ∧
    ((t.dbg 0 0x58).extractLsb' 3 6).toNat = 6 ∧ ((t.dbg 0 0x58).extractLsb' 9 12).toNat = 1 ∧ traps (.watch ⟨3, 6, 5, 2⟩) s 3 0x40020 ∧
    traps (.watch ⟨3, 4, 7, 2⟩) s 3 0x80 ∧ writes (.watch o) (debugging 2 [(4, 0x40000), (5, 0x146)]) 3 0 := by decide +kernel

theorem witness_trace :
    let s := debugging 4 [(4, 0x1122), (5, 0x10000000F)]
    let bytesOf (t : State) : List Byte := match t.net with
      | [p] => match p.body with
        | .trace r => r.bytes
        | _ => []
      | _ => []
    let t := bytesOf (after (.trace ⟨0, 4, 5, 0⟩) s)
    let m := bytesOf (after (.mark ⟨0, 0, -2⟩) s)
    goesTo (.trace ⟨0, 4, 5, 0⟩) (debugging 0 []) (debugging 0 []).advance ∧ t.length = 32 ∧ t.take 8 = [0x22, 0x11, 0, 0, 0, 0, 0, 0] ∧
    (t.drop 8).take 2 = [0, 0x80] ∧ (t.drop 14).take 2 = [2, 0] ∧ (t.drop 24).take 4 = [15, 0, 0, 0] ∧ (m.drop 14).take 2 = [3, 0] ∧
    (m.drop 24).take 4 = [0xFE, 0xFF, 0xFF, 0xFF] := by decide +kernel

/-- The task's histogram: counters at pool address 0x1000, its profile at 0x50000. -/
def histogram (g : SMap Word) : State := ((regs base g).setDbg 0 0x200 0x1001000).setDbg 0 0x208 0x50000

theorem witness_histogram :
    let s := (histogram [(4, 0xC025), (5, 0x20000)]).poolWriteNat 0 (0x1000 + 16 * 0x25 + 6) 2 77
    let t := after (.histrd ⟨3, 4, 0, 0⟩) s
    let u := after (.histclr ⟨0, 4, 0, 0⟩) s
    let m := regs onMem []
    s.myHist = (0x1001000, 0x50000) ∧ isMemTile s.myTile = false ∧ traps (.histrd ⟨3, 4, 0, 0⟩) m 1 m.cur.word ∧ traps (.histrd ⟨3, 5, 0, 0⟩) s 3 0x20000 ∧
    answers (.histrd ⟨3, 4, 0, 0⟩) (regs base [(4, 0xC025)]) 3 (BitVec.allOnes 64) ∧ s.me.ldout < 4 ∧
    s.bankFree 0 (s.peekPa 0 1 (0x50000 + 64 * 0x25 + 24) false) = true ∧ s.reqs = [] ∧ s.slotFree 0 = true ∧ (s.tile 0).fences = [] ∧
    t.reqs.map (fun r => (r.op, r.va, r.stage)) = [(.histrd 77, 0x50000 + 64 * 0x25 + 24, .walk)] ∧
    u.poolLoad 0 (0x1000 + 16 * 0x25 + 6) 2 = 0 ∧ u.reqs.length = 8 ∧ u.me.pc = 0x8008 ∧ memWf s.mem = true := by decide +kernel

theorem witness_trace_nodes :
    let s := fireOf .traceNode nrec [nw 0xABC] [] []
    let u := s.setDbg 0 0 4
    let traced (t : State) : Nat := (t.net.filter fun p => match p.body with
      | .trace _ => true
      | _ => false).length
    let s0 := s.beginFire.traceFire s.cur.fir s.cur.fir.tag s.cur.fir.l
    (s0.dbg 0 0).getLsbD 2 = false ∧ emits .traceNode s [nw 0xABC] ∧ emits .markNode s [nw 0xABC] ∧
    ((u.beginFire.traceFire u.cur.fir u.cur.fir.tag u.cur.fir.l).dbg 0 0).getLsbD 2 = true ∧ traced (after .traceNode u) = 1 := by decide +kernel

/-! ## The ostler -/

theorem witness_freeze_and_resume :
    let s := debugging 1 []
    let f := after (.dbgFreezeCommand 0) s
    let r := after (.dbgResumeCommand 0) f
    s.tileFrozen 0 = false ∧ goesTo (.dbgFreezeCommand 0) base base ∧ goesTo (.dbgResumeCommand 0) base base ∧ isFrozen f (1 + 4 * 2) ∧ f.tileFrozen 0 = true ∧
    (∀ u ∈ clusterTiles 0, (f.tile u).ports = []) ∧ r.tileFrozen 0 = false ∧ r.dbg 17 8 = 0 := by decide +kernel

theorem witness_side_band :
    let s := after (.dbgFreezeCommand 0) (debugging 1 [(4, 77)])
    let at_ (tile space off : Nat) : Option Word := some (BitVec.ofNat 64 (tile * 2 ^ 40 + space * 2 ^ 36 + off))
    let err (a : Option Word) (wr : Bool) (s : State) : BitVec 3 := ((after (.sbdataAccess 0 ⟨0xC001, a⟩ wr 9) s).die 0).sbstat.extractLsb' 1 3
    let get (a : Option Word) (s : State) : Word := ((after (.sbdataAccess 0 ⟨0xC001, a⟩ false 0) s).die 0).sbdata
    (s.die 0).tripped = false ∧ err (at_ 0 0 4) false s = 1 ∧ err (at_ 0 8 8) false s = 1 ∧ err (at_ 0 0 32) false base = 2 ∧ base.tileFrozen 0 = false ∧
    get (at_ 0 0 32) s = 77 ∧ ((after (.sbdataAccess 0 ⟨0xC001, (at_ 0 0 40)⟩ true 9) s).thread 0).readWindow 5 = 9 ∧ inMap 0x004 = true ∧ isWindow 0x004 = false ∧
    get (at_ 0 1 0x20) s = (s.thread 0).excmode ∧ err (at_ 0 3 8) true s = 3 ∧ err (at_ 0 5 8) true s = 3 ∧ s.writable (poolKey s 0 0x40) 8 = true ∧
    (after (.sbdataAccess 0 ⟨0xC001, (at_ 0 4 0x40)⟩ true 9) s).poolLoad 0 0x40 8 = 9 ∧ get (at_ 0 6 0) s = 1 ∧ (after (.sbdataAccess 0 ⟨0xC001, (at_ 0 6 0)⟩ true 14) s).dbg 0 0 = 6 ∧
    ((after (.sbdataAccess 0 ⟨0xC001, (at_ 0 6 0)⟩ false 0) s).die 0).sbaddr = 0x6000000008 ∧
    (((after (.sbstatWrite 0 0) (after (.sbdataAccess 0 ⟨0xC001, (at_ 0 0 4)⟩ false 9) s)).die 0).sbstat).extractLsb' 1 3 = 0 := by decide +kernel

/-- Space 4 is writable any time, a structure word too; a window number names its register; a number beyond the registers is told (R471). -/
theorem witness_side_band_structure :
    let s : State := { base with sstate := [(sramKey 1 0x40 / 8, 0)] }
    s.writable (poolKey s 1 0x40) 8 = false ∧
    (after (.sbdataAccess 0 ⟨0xC001, (some (BitVec.ofNat 64 (2 ^ 40 + 4 * 2 ^ 36 + 0x40)))⟩ true 9) s).readByte (sramKey 1 0x40) = 9 ∧
    ((after (.sbdataAccess 0 ⟨0xC000, none⟩ true 0x123) s).die 0).sbaddr = 0x123 ∧ ((after (.sbdataAccess 0 ⟨0xC005, none⟩ false 0) s).module 0).reports = [[5, 0, 0xC005]] ∧
    isWindow 0x1044 = true ∧ windowThread 0 0x1044 = 1 ∧
    ((after (.sbdataAccess 0 ⟨0xC001, (some (BitVec.ofNat 64 (2 ^ 36 + 8 * 0x1044)))⟩ true 9) (after (.dbgFreezeCommand 0) (debugging 1 []))).thread 1).readWindow 4 = 9 := by
  decide +kernel

theorem witness_trace_ring :
    let w (off : Nat) (v : Word) (s : State) : State := after (.traceRingConfigWrite 0 off v) s
    let s := w 8 8 (w 0 0x100ABC base)
    let put (s : State) : State := { s with net := [(pkt 60 0 0 0 0 (.trace ⟨3, List.replicate 32 7⟩))] }
    let t := after (.traceRecordPlace 60) (put s)
    let full := put (s.modDie 0 fun d => { d with trtail := 256 })
    let u := after (.traceRecordPlace 60) full
    (s.die 0).trbase = 0x100000 ∧ (s.die 0).trsize = 8 ∧ (w 8 7 s).die 0 = s.die 0 ∧ (w 8 25 s).die 0 = s.die 0 ∧ (w 0x10 5 s).die 0 = s.die 0 ∧
    ((w 0x18 5 s).die 0).trhead = 5 ∧ ((w 0x20 0x1FFFFFFFF s).die 0).trlost = 0xFFFFFFFF ∧ (put s).placeStopped 0 = false ∧ (put s).traceBehind 60 3 = false ∧
    (t.die 0).trtail = 1 ∧ memReadAll t.mem 0x100000 2 = [7, 7] ∧ (u.die 0).trlost = 1 ∧ (u.tile 3).loss = true ∧ u.mem = full.mem := by decide +kernel

/-! ## Every step -/

/-- The premises of the step's invariant hold of the reset state, whatever moves first. -/
theorem witness_step :
    let s : State := { base with agenda := [.thread 0] }
    State.reset.Inv ∧ s.Inv ∧ ∃ t, step s = .next t := by
  intro s
  have h : (match step s with
      | .next _ => true
      | _ => false) = true := by decide +kernel
  refine ⟨rfl, (by decide +kernel : memWf s.mem = true), ?_⟩
  cases e : step s with
  | next t => exact ⟨t, rfl⟩
  | fault f => simp [e] at h
  | refused r => simp [e] at h

/-! ## Further forms of what stands above -/

/-- FCMP and FCVT that trap, and one value of each class of FCLASS on each side (R150-R152). -/
theorem witness_float_traps_and_classes :
    let s := (ab 0x7FC00000 0).modMe fun t => { t with excmode := 0x0006 }
    (after (.fcmp ⟨1, 4, 5, 17⟩) s).me.trapcause = 0x10 ∧ (after (.fcmp ⟨1, 4, 5, 17⟩) s).me.trapval = 0x7FC00000 ∧
    s.me.excmode.extractLsb' 0 2 = 2 ∧ judge s.me.modes (fcvtValue 4 1 ⟨.rne, false⟩ s.me.ftz 0x7FC00000).2 = .trap 0x10 ∧
    (after (.fcvt ⟨3, 4, 1, 32⟩) s).me.trapcause = 0x10 ∧
    writes (.fclass ⟨3, 4, 0, 16⟩) (ab 0xFF800000 0) 3 1 ∧ writes (.fclass ⟨3, 4, 0, 16⟩) (ab 0xBF800000 0) 3 2 ∧
    writes (.fclass ⟨3, 4, 0, 16⟩) (ab 0x80000001 0) 3 4 ∧ writes (.fclass ⟨3, 4, 0, 16⟩) (ab 0x80000000 0) 3 8 ∧
    writes (.fclass ⟨3, 4, 0, 16⟩) (ab 0 0) 3 16 ∧ writes (.fclass ⟨3, 4, 0, 32⟩) (ab 1 0) 3 32 ∧
    writes (.fclass ⟨3, 4, 0, 48⟩) (ab 0x3F80 0) 3 64 ∧ writes (.fclass ⟨3, 4, 0, 0⟩) (ab 0x7FF0000000000000 0) 3 128 := by decide +kernel

/-- ERET with DEFER set: the parked load goes again (R133, R430). -/
theorem witness_trap_return_defer :
    let q := { req7 (.load 8 false) .parked with slot := true }
    let s := (withReq q).modMe fun t => { t with hnd := true, trappc := 0x8100, trapcause := 0x00010031, taken := [7] }
    let h := s.modMe fun t => { t with taken := [] }
    s.me.hnd = true ∧ s.me.trapcause.getLsbD 16 = true ∧ s.me.taken = [7] ∧ s.req? 7 = some q ∧ q.stage = .parked ∧ q.op.ofUnit = false ∧
    q.op.scoped = false ∧ (after (.eret ⟨0, 0, 0, 0⟩) s).me.pc = 0x8100 ∧ (after (.eret ⟨0, 0, 0, 0⟩) s).me.hnd = false ∧
    (after (.eret ⟨0, 0, 0, 0⟩) s).reqs.map (fun r => (r.stage, r.again)) = [(.walk, true)] ∧ h.me.taken = [] := by decide +kernel

/-- A memory fault that a scope under update holds back holds ERET too (R311). -/
theorem witness_trap_return_held :
    let q := { req7 (.atomic default) .parked with snap := { (default : ScopeSnap) with idx := 11 } }
    let s := ({ (scoped1 { entry11 with updating := true } []) with reqs := [q] } : State).modMe fun t => { t with hnd := true, trapcause := 0x00010031, taken := [7] }
    s.req? 7 = some q ∧ s.resubmitHolds q = true ∧ (after (.eret ⟨0, 0, 0, 0⟩) s).cur.held = true := by decide +kernel

/-- MZERO frees no byte but its own from what stood there, and a word that is no shape makes no shape (R188, R192). -/
theorem witness_mshape_node_bad :
    let s := mtxFiring .mshapeNode [nw 0] [nw 0] []
    let f := s.cur.fir
    let g := ((s.scalars f).head?).getD default
    f.eos = false ∧ s.scalars f = [g] ∧ g.nul = false ∧ g.anyP = false ∧ shapeValid (nodeShape g) = false ∧
    (after .mshapeNode s).net.length = 1 := by decide +kernel

/-! Commands of the copy and gather engines (R299, R300). -/

def cmd1 (i : Instr) (d a b : Word) (aux : List Word) : EngCmd := { (default : EngCmd) with op := i, d := d, a := a, b := b, aux := aux, task := 1, th := some 0, id := 5 }

def cut (c : EngCmd) (s : State) : List (Loc × List Loc × Nat) :=
  match cmdChunks c 0 s with
  | .ok xs => xs.map fun x => (x.src, x.dsts, x.n)
  | .error _ => []

def refuses (c : EngCmd) (s : State) (code va : Nat) : Bool :=
  match cmdChunks c 0 s with
  | .ok _ => false
  | .error x => x == (code, va)

/-- 4,100 bytes from memory at 0x20000 go in two chunks; two rows of 8 bytes, 16 apart on both sides; one tile of a rectangle; two
elements of 4 bytes at the indices 1 and 3. -/
theorem witness_chunks :
    let s := (base.poolWriteNat 0 0x100 4 1).poolWriteNat 0 0x104 4 3
    let c := cmd1 (.copy ⟨3, 4, 5, 2⟩) 0x4000 0x20000 4100 []
    let w := cmd1 (.copy2d ⟨3, 4, 6, 3⟩) 0x4000 0x8000 0x2000008 [0x1000000010]
    let m := cmd1 (.mcast ⟨3, 4, 6, 1⟩) 0x0000004000 0x8000 8 []
    let e : Word := 0x20002000100
    let ga := cmd1 (.gather ⟨3, 4, 6, 0⟩) 0x4000 0x20000 e []
    let sc := cmd1 (.scatter ⟨3, 4, 6, 0⟩) 0x4000 0x20000 e []
    locBad s 1 4100 [⟨true, 0, 0x4000⟩, ⟨false, 0, 0x20000⟩] = none ∧ locMeet ⟨false, 0, 0x20000⟩ ⟨true, 0, 0x4000⟩ 4100 = false ∧
    cut c s = [(⟨false, 0, 0x20000⟩, [⟨true, 0, 0x4000⟩], 4096), (⟨false, 0, 0x21000⟩, [⟨true, 0, 0x5000⟩], 4)] ∧ cut (cmd1 (.copy ⟨3, 4, 5, 2⟩) 0x4000 0x20000 0 []) s = [] ∧
    refuses (cmd1 (.copy ⟨3, 4, 5, 3⟩) 0x4000 0x4004 8 []) s 0x21 0x4000 ∧
    cut w s = [(⟨true, 0, 0x8000⟩, [⟨true, 0, 0x4000⟩], 8), (⟨true, 0, 0x8010⟩, [⟨true, 0, 0x4010⟩], 8)] ∧
    cut m s = [(⟨true, 0, 0x8000⟩, [⟨true, 0, 0x4000⟩], 8)] ∧ refuses (cmd1 (.mcast ⟨3, 4, 6, 1⟩) 0x1101004000 0x8000 8 []) s 0x21 0x4000 ∧
    cut ga s = [(⟨false, 0, 0x20004⟩, [⟨true, 0, 0x4000⟩], 4), (⟨false, 0, 0x2000C⟩, [⟨true, 0, 0x4004⟩], 4)] ∧
    cut sc s = [(⟨true, 0, 0x4000⟩, [⟨false, 0, 0x20004⟩], 4), (⟨true, 0, 0x4004⟩, [⟨false, 0, 0x2000C⟩], 4)] := by decide +kernel

def engJob (src dst : Loc) (n : Nat) : EngJob :=
  ⟨cmd1 (.copy ⟨3, 4, 5, 3⟩) 0 0 0 [], [⟨src, [dst], n, none⟩], 0, [], none, false, false, []⟩

def jobbed (j : EngJob) : State := (base.poolWrite 0 0x8000 [7, 9, 3, 4, 5, 6, 7, 8]).modTile 0 fun x => { x with engRun := [j] }

/-- One chunk of each kind: pool to pool, memory to pool, pool to memory. -/
theorem witness_job_turns :
    let src : Loc := ⟨true, 0, 0x8000⟩
    let dst : Loc := ⟨true, 0, 0x4000⟩
    let far : Loc := ⟨false, 0, 0x10000⟩
    let p := engJob src dst 8
    let r := engJob far dst 8
    let w := engJob src far 8
    (jobbed p).poolPoisoned 0 0x8000 8 = false ∧ (List.range 8).all (fun i => (jobbed p).wordState (poolKey (jobbed p) 0 (0x4000 + i)) == 3) = true ∧
    ((List.range 8).map fun i => poolKey (jobbed p) 0 (0x4000 + i)).Nodup ∧
    ((jobbed p).jobTurn 0 p).poolLoad 0 0x4000 2 = 0x0907 ∧ (translateAt (jobbed r) 0 1 0x10000 false).toOption = some 0x10000 ∧
    (jobbed r).guardHit 0x10000 8 = none ∧ (jobbed r).engRoom 0 ⟨false, 0, 0x10000, 0x10000, 8, 0⟩ = true ∧
    ((jobbed r).jobTurn 0 r).reqs.map (fun q => (q.op, q.pa)) = [(.eread 0 0 8, 0x10000)] ∧
    (translateAt (jobbed w) 0 1 0x10000 true).toOption = some 0x10000 ∧ (0x10000 + 8) % 8 = 0 ∧
    ((jobbed w).jobTurn 0 w).reqs.map (fun q => (q.op, q.pa)) = [(.ewrite 0 [7, 9, 3, 4, 5, 6, 7, 8], 0x10000)] := by decide +kernel

/-- A read's bytes land in their chunk, the chunk's write in the pool; a write lands in memory. -/
theorem witness_job_landing :
    let m : EngMove := ⟨0, [], [⟨true, 0, 0x4000, 0x4000, 2, 0⟩], [0, 0], none⟩
    let j := { engJob ⟨true, 0, 0⟩ ⟨true, 0, 0⟩ 8 with xs := [], next := 1, moves := [m] }
    let s := (jobbed j).writeBytes 0x10000 [3, 4]
    let q := { req7 (.eread 0 0 2) .region with who := .engine 0 5 }
    let w := { req7 (.ewrite 0 [7, 9]) .region with who := .engine 0 5 }
    let s0 : State := { s with reqs := [q] }
    let u := s.applyEread q 0 0 2
    let n := { m with data := [3, 4] }
    let v := (jobbed { j with moves := [n] }).jobTurn 0 { j with moves := [n] }
    s.poisoned q.pa 2 = false ∧ s0.accepts q = true ∧ (u.tile 0).engRun.map (fun j => j.moves.map (·.data)) = [[[3, 4]]] ∧ u.mem = s.mem ∧
    s.readsOut 0 5 0 = false ∧ n.data.length = 2 ∧ v.poolLoad 0 0x4000 2 = 0x0403 ∧ s.isPeer 0 w.pa = false ∧
    (s.applyEwrite w [7, 9]).readNat 0x10000 2 = 0x0907 ∧ s.wordState 0x10000 = 3 := by decide +kernel

/-! Nodes of class 7. -/

/-- Each MERGE form with a null that control does not select; JOIN's entry begun and counted on. -/
theorem witness_merge_null_and_join_count :
    let s := tokFiring .merge nrec [nw 9] [⟨0, false, true, false⟩] [nw 1]
    let f := s.cur.fir
    let g := ((s.scalars f).head?).getD default
    let j := tokFiring .joinTok { nrec with arity := .one, lit32 := 3 } [nw 9] [] []
    let e := j.beginToken.newEntry 0 1 0 0 0 0 (.count 1 1 0 false) []
    let two (n : Nat) : State := { j with pes := [(0, { Pe.reset with entries := [{ e with kind := .count n n 0 false, level := .matching }] })] }
    s.scalars f = [g] ∧ goesTo .merge s (s.beginToken.emitAt f false g.tag [nw 9] [0x0012, 0xFFFF]) ∧
    (j.beginToken.placeOf 0 e 0 [nw 9]).1 = true ∧ goesTo .joinTok j (j.beginToken.placeOf 0 e 0 [nw 9]).2 ∧
    (((two 1).pe 0).entries.filter fun y => y.slot == 0).length = 1 ∧
    ((after .joinTok (two 1)).pe 0).entries.map (·.kind) = [.count 2 2 0 false] ∧ ((after .joinTok (two 2)).pe 0).entries = [] := by decide +kernel

/-- REPEAT by a count token, and beyond what F0 holds; CALLT with two data tokens. -/
theorem witness_repeat_and_call_two :
    let s := tokFiring .repeatTok nrec [nw 9] [nw 2] []
    let f := s.cur.fir
    let z := tokFiring .repeatTok nrec [nw 9] [nw 0x20001] []
    let c := framed (tokFiring .callt { nrec with arity := .two, lit32 := 0x20 } [nw 9] [nw 8] [])
    f.node.r.lit = false ∧ f.r = [nw 2] ∧ 2 ≤ 2 ^ (s.beginToken.fieldAt 1 0).1 ∧ 2 ^ (s.beginToken.fieldAt 1 0).1 = 0x10000 ∧
    goesTo .repeatTok s ((s.beginToken.emit f 0 (List.replicate 2 (nw 9))).emitE f 0 2 false) ∧ 0x10000 < 0x20001 ∧ z.cur.fir.r = [nw 0x20001] ∧
    c.freeCtx? 1 0 = some 1 ∧ c.cur.fir.node.r.arity = .two ∧
    (c.beginToken.placeOf 0 (c.beginToken.newEntry 0 1 0 0 0 0x0001000000000000 (.linkage 0 0x20) []) 0 [nw 9, nw 8]).1 = true ∧
    ((after .callt c).tile 0).ctx = [(1, 1)] := by decide +kernel

/-- BAR with PH set asks for the phase in field F(PK) of its tag. -/
theorem witness_bar_phase :
    let s0 := atomFiring .barNode 0x0B000000 (nw 2)
    let s : State := { s0 with cur := { s0.cur with fir := { s0.cur.fir with node := { s0.cur.fir.node with r := { s0.cur.fir.node.r with lit32 := s0.cur.fir.node.r.lit32 ||| 0x08000000 } } } } }
    let f := s.cur.fir
    f.node.r.lit32.getLsbD 27 = true ∧ (after .barNode s).reqs.map (fun r => match r.op with
      | .bar n ph => (n, ph)
      | _ => (0, none)) =
      [(2, some (getTag (s.fieldAt 1 (f.node.r.lit32.extractLsb' 24 3).toNat) f.tag, (s.fieldAt 1 (f.node.r.lit32.extractLsb' 24 3).toNat).1))] := by
  decide +kernel

/-! Tasks, generation, system. -/

/-- TSUCC refused for want of room, and after the task's end; a live instance; TARG's place. -/
theorem witness_task_results :
    let full : TaskRec := { hdr := 0x1000 ||| 1 <<< 34 ||| 8 <<< 50, succ := List.replicate 8 5, opd := [], arg0 := 0, arg1 := 0 }
    let s := (regs base [(4, 2), (5, 1), (6, 3)]).modDie 0 fun d => { d with
      tasks := [(1, .record rec1), (2, .record full), (3, .record { rec1 with hdr := 0x6000 })], insts := [(2, { (default : Inst) with live := 3 })] }
    let v : Word := 1 + 3 * 4
    full.nsucc = 8 ∧ full.state = 1 ∧ s.contWords (taskKey 0 2) full = [] ∧ answers (.tsucc ⟨3, 4, 5, 0⟩) s 3 0 ∧
    (s.record? 3).map (·.state) = some 6 ∧ (succOfWord 1).stream = false ∧
    (lastReq (after (.tsucc ⟨3, 6, 5, 0⟩) s)).stage = .reply 2 false ∧ ((after (.tsucc ⟨3, 6, 5, 0⟩) s).net.map (·.body)) = [.decrement 1 1] ∧
    (s.inst? 0 2).isSome = true ∧ answers (.tquery ⟨3, 4, 0, 1⟩) s 3 v ∧
    rec1.ax ≤ tileX 0 ∧ rec1.ay ≤ tileY 0 ∧ (after (.targ ⟨3, 0, 0, 4⟩) s).greg 3 = BitVec.ofNat 64 (rec1.rw * 2 ^ 8 + rec1.rh * 2 ^ 12) := by decide +kernel

theorem witness_merge_on_memory_tile : isMemTile onMem.myTile = true ∧ traps (.tkmerge ⟨3, 4, 5, 0⟩) onMem 1 0x1234 := by decide +kernel

/-- PWRHINT with d = g0 credits too; the second word of a doorbell entry. -/
theorem witness_power_hint_and_doorbell_entry :
    let s := (regs base [(4, 3), (5, 99)]).modDie 0 fun d => { d with budget := some 1000, remain := some 900, doorbell := some ⟨0x40000, 0x5000⟩ }
    (after (.pwrhint ⟨0, 0, 500⟩) s).me.g = s.me.g ∧ (after (.pwrhint ⟨0, 0, 500⟩) s).remain 0 = 1000 ∧
    (after (.swint ⟨0, 4, 5, 0⟩) s).readNat 0x40048 8 = (s.instanceId 1).toNat % 2 ^ 48 + 3 * 2 ^ 48 := by decide +kernel

/-- A defective cell: bit 0 of byte 0 of bank 1, row 0 (address 0x40) is stuck at 1; the report of a tile with it, and its repair. -/
theorem witness_stuck_cell :
    let s := after (.eccUncorrectable (.cell 0 1 0 0 1 0)) base
    let r := after (.repairWrite 4 0x400) s
    isMemTile 0 = false ∧ (0x40 : Nat) / 2048 = 0 ∧ 0x40 / 64 % 32 = 1 ∧ repairSpare (s.tile 0).repair 1 0 = none ∧ s.wordState (poolKey s 0 0x40) = 3 ∧
    s.poolLoad 0 0x40 1 = 1 ∧ (s.poolWrite 0 0x40 [6]).poolLoad 0 0x40 1 = 7 ∧ s.mem = base.mem ∧ r.poolLoad 0 0x40 1 = 0 ∧
    goesTo (.eccUncorrectable (.cell 1 1 0 0 1 0)) base base = true := by decide +kernel

/-- A link that loses all but 47 flits of its buffer is withdrawn. -/
theorem witness_link_rows :
    let s : State := { base with retired := [(linkDir 0 1, 144)] }
    48 ≤ base.usable 0 1 ∧ ({ s with retired := mapPut (linkDir 0 1) 145 s.retired } : State).usable 0 1 = 47 ∧
    (after (.eccUncorrectable (.link 0 1 none)) s).withdrawn = [linkOf 0 1] := by decide +kernel

/-- The bytes of the one trace record that leaves. -/
def traced (t : State) : List Byte :=
  (t.net.filterMap fun p => match p.body with
    | .trace r => some r.bytes
    | _ => none).flatten

/-- BKPT with TREN alone writes a STOP record and goes on; HISTCLR of all a tile's nodes. -/
theorem witness_stop_record_and_clear_all :
    let s := debugging 4 []
    let t := after (.bkpt ⟨0, 0, 0x123⟩) s
    let h := (histogram []).poolWriteNat 0 (0x1000 + 16 * 0x25 + 6) 2 77
    let h1 := h.modDie 0 fun d => { d with runs := [(1, { run1 with type := [0x20000, 0x8000, 0x8000, 0x8000000000000000, 0x02000200000003E8, 0x2110, 0, 0] })] }
    let u := after (.histclr ⟨0, 4, 0, 1⟩) h1
    s.me.pass = false ∧ (s.dbg 0 0).getLsbD 0 = false ∧ (s.dbg 0 0).getLsbD 2 = true ∧ (traced t).length = 32 ∧ ((traced t).drop 14).take 2 = [4, 0] ∧
    ((traced t).drop 24).take 4 = [1, 0, 0, 0] ∧ t.me.pc = 0x8008 ∧ (s.cause 0 4 0 0 0 0 ⟨0, 0, 0, 0⟩).1 = false ∧
    u.me.pc = 0x8008 ∧ u.reqs.length = 8 * (16 * typeNodes (h1.taskType 1)) := by decide +kernel

end Sys2Proof.Tests
end

namespace Sys2Proof.Proofs

open Sys2Proof Sys2Proof.Machine Sys2Proof.Claims

/-! ## A-R instructions in pair bundles (R46-R56, R70) -/

/-- Slot A of a pair bundle whose opcode has the form A-R: the entry accepts its fields, or the slot is refused for them. -/
theorem decodeSlotA_pair_ar {w : Word} {mk : AR → Instr} (hform : slotAForm (w.extractLsb' 52 10) = some (.ar mk)) :
    decodeSlotA false w = if (mk (arFields w)).fieldsOk then .ok (mk (arFields w)) else .error .fieldsA := by
  simp [decodeSlotA, hform]

/-- An A-R pair bundle with a field that its entry does not accept is refused for slot A's fields (R70 row 5). -/
theorem decodeBundle_ar_fieldsA {w : Word} {mk : AR → Instr} (hpair : w.extractLsb' 62 2 = 0)
    (hform : slotAForm (w.extractLsb' 52 10) = some (.ar mk)) (hbad : (mk (arFields w)).fieldsOk = false) :
    decodeBundle w = .error .fieldsA := by
  simp [decodeBundle, hpair, decodeSlotA_pair_ar hform, hbad]

/-- An A-R pair bundle with accepted fields and an empty slot B holds its instruction alone. -/
theorem decodeBundle_ar_alone {w : Word} {mk : AR → Instr} (hpair : w.extractLsb' 62 2 = 0)
    (hform : slotAForm (w.extractLsb' 52 10) = some (.ar mk)) (hok : (mk (arFields w)).fieldsOk = true)
    (hempty : w.extractLsb' 0 28 = 0) :
    decodeBundle w = .ok ⟨w.extractLsb' 49 3, mk (arFields w), none⟩ := by
  simp [decodeBundle, decodeSlotB, hpair, decodeSlotA_pair_ar hform, hok, hempty]

/-- The fields a, b and f fill bits 43 to 28 (R51). -/
theorem extractLsb'_abf_eq_zero {w : Word} (ha : (arFields w).a = 0) (hb : (arFields w).b = 0) (hf : (arFields w).f = 0) :
    w.extractLsb' 28 16 = 0 := by
  simp only [arFields, ← BitVec.toNat_inj, BitVec.extractLsb'_toNat, Nat.shiftRight_eq_div_pow, BitVec.toNat_ofNat,
    BitVec.ofNat_eq_ofNat] at *
  omega

/-- The fields d, a, b and f fill bits 48 to 28 (R51). -/
theorem extractLsb'_dabf_eq_zero {w : Word} (hd : (arFields w).d = 0) (habf : w.extractLsb' 28 16 = 0) :
    w.extractLsb' 28 21 = 0 := by
  simp only [arFields, ← BitVec.toNat_inj, BitVec.extractLsb'_toNat, Nat.shiftRight_eq_div_pow, BitVec.toNat_ofNat,
    BitVec.ofNat_eq_ofNat] at *
  omega

/-! ## A bundle that is refused when it is fetched (R70) -/

/-- A slot A that does not decode has no class-6 check of its own. -/
theorem matrixFault_of_decodeSlotA_error {s : State} {w : Word} {e : DecodeError}
    (hdec : decodeSlotA (w.extractLsb' 62 2 == 1) w = .error e) : matrixFault s w = none := by
  rw [matrixFault, hdec]
  split <;> rfl

/-- Whether a home region answers does not turn on the marks of the turn. -/
theorem homeUp_of_cur (s : State) (c : Cur) (die pa : Nat) : State.homeUp { s with cur := c } die pa = s.homeUp die pa := rfl

/-- A fetched bundle that is not held, meets no class-6 check and does not decode traps with ILLEGAL_OP at the bundle. -/
theorem issueAt_of_decodeBundle_error {s : State} {pa : Nat} {w : Word} {e : DecodeError}
    (hcode : s.inCode s.cur.th s.me.pc = true)
    (hpa : translateAt s s.myTile (s.taskAsid (s.me.task.getD 0)) s.me.pc false = .ok pa)
    (hup : s.homeUp s.myDie pa = true) (hw : s.homeWord s.myDie pa = w) (hwait : s.me.waitsFor w = false)
    (hmat : matrixFault { s with cur := { s.cur with word := w } } w = none) (hdec : decodeBundle w = .error e) :
    issueAt s = .next (({ s with cur := { s.cur with word := w, slotB := e == .slotB } } : State).trap cIllegalOp w) := by
  have hup' : State.homeUp { s with cur := { s.cur with word := w } }
      (State.myDie { s with cur := { s.cur with word := w } }) pa = true := (homeUp_of_cur ..).trans hup
  simp only [issueAt, hcode, hpa, hw, hup', hwait, hmat, hdec, Bool.not_true, Bool.or_false, Bool.false_eq_true, if_false, ok]

/-! ## TID (R124, R125, R145) -/

/-- TID has the destination alone (R145). -/
theorem fieldsOk_tid (o : AR) : (Instr.tid o).fieldsOk = true ↔ o.a = 0 ∧ o.b = 0 ∧ o.f = 0 := by
  simp [Instr.fieldsOk, arUses, and_assoc]

/-- The number TID writes, from the thread's number in the part: its module, die, tile index and number in the tile. -/
theorem writes_tid (o : AR) (s : State) :
    Writes (.tid o) s o.d (BitVec.ofNat 64 (s.cur.th / 8 / 4096 * 2 ^ 20 + s.cur.th / 8 / 256 % 16 * 2 ^ 16 +
      s.cur.th / 8 % 256 * 2 ^ 8 + s.cur.th % 8)) := by
  have hexec : exec (.tid o) s = .next (s.result o.d (BitVec.ofNat 64 (s.cur.th / 8 / 256 / 16 * 2 ^ 20 +
      s.cur.th / 8 / 256 % 16 * 2 ^ 16 + s.cur.th / 8 % 256 * 2 ^ 8 + s.cur.th % 8))) := rfl
  rw [Writes, hexec, Nat.div_div_eq_div_mul (s.cur.th / 8) 256 16]

/-- MS.TILE[21:0] is the tile's number in the part: index, die and module lie side by side (R125). -/
theorem tileWord_toNat_mod (t : Nat) : (tileWord t).toNat % 4194304 = t % 4194304 := by
  simp only [tileWord, dieOfTile, tileIdx, moduleOfDie, BitVec.toNat_ofNat]
  split <;> omega

/-- MS.TILE[7:0] is the tile's index in its die (R125). -/
theorem extractLsb'_tileWord_index (t : Nat) : ((tileWord t).extractLsb' 0 8).toNat = t % 256 := by
  have h := tileWord_toNat_mod t
  rw [BitVec.extractLsb'_toNat, Nat.shiftRight_eq_div_pow]
  omega

/-- MS.TILE[11:8] is the die in its module (R125). -/
theorem extractLsb'_tileWord_die (t : Nat) : ((tileWord t).extractLsb' 8 4).toNat = t / 256 % 16 := by
  have h := tileWord_toNat_mod t
  rw [BitVec.extractLsb'_toNat, Nat.shiftRight_eq_div_pow]
  omega

/-- MS.TILE[21:12] is the module (R125). -/
theorem extractLsb'_tileWord_module (t : Nat) : ((tileWord t).extractLsb' 12 10).toNat = t / 4096 % 1024 := by
  have h := tileWord_toNat_mod t
  rw [BitVec.extractLsb'_toNat, Nat.shiftRight_eq_div_pow]
  omega

/-- MS.THREAD[2:0] is the thread's number in its tile (R124): what stands beside it comes in multiples of 8. -/
theorem extractLsb'_threadWord_num (s : State) (th : Nat) : ((s.threadWord th).extractLsb' 0 3).toNat = th % 8 := by
  have hmod (h u : Bool) (l p q : Nat) : (th % 8 + (if h then 8 else 0) + (if u then 16 else 0) + l * 2 ^ 8 + p * 2 ^ 17 +
      q * 2 ^ 48) % 2 ^ 64 % 8 = th % 8 := by
    cases h <;> cases u <;> simp only [Bool.false_eq_true, if_true, if_false] <;> omega
  rw [BitVec.extractLsb'_toNat, State.threadWord, BitVec.toNat_ofNat]
  exact hmod ..

/-- Fields of TID's widths at TID's places do not overlap, so their union is their sum. -/
theorem tid_fields_or_eq_add (m : BitVec 10) (d : BitVec 4) (i : BitVec 8) (n : BitVec 3) :
    m.setWidth 64 <<< 20 ||| d.setWidth 64 <<< 16 ||| i.setWidth 64 <<< 8 ||| n.setWidth 64 =
      BitVec.ofNat 64 (m.toNat * 2 ^ 20 + d.toNat * 2 ^ 16 + i.toNat * 2 ^ 8 + n.toNat) := by
  rw [← BitVec.add_eq_or_of_and_eq_zero, ← BitVec.add_eq_or_of_and_eq_zero, ← BitVec.add_eq_or_of_and_eq_zero]
  · bv_omega
  -- each field ends below the place of the one before it
  all_goals
    ext j hj
    simp only [BitVec.getElem_and, BitVec.getElem_or, BitVec.getElem_shiftLeft, BitVec.getElem_setWidth, BitVec.getElem_zero,
      Bool.and_eq_false_imp, Bool.or_eq_true, Bool.and_eq_true, Bool.not_eq_eq_eq_not, Bool.not_true, decide_eq_false_iff_not,
      Nat.not_lt]
    intros
    exact BitVec.getLsbD_of_ge _ _ (by omega)

/-- MS.TILE and MS.THREAD of a thread of the part hold the fields of the number that TID writes. -/
theorem tid_registers_eq (s : State) {th : Nat} (hth : th < 576 * 32768) :
    ((s.readReg th 0x001).extractLsb' 12 10).setWidth 64 <<< 20 ||| ((s.readReg th 0x001).extractLsb' 8 4).setWidth 64 <<< 16 |||
      ((s.readReg th 0x001).extractLsb' 0 8).setWidth 64 <<< 8 ||| ((s.readReg th 0x000).extractLsb' 0 3).setWidth 64 =
      BitVec.ofNat 64 (th / 8 / 4096 * 2 ^ 20 + th / 8 / 256 % 16 * 2 ^ 16 + th / 8 % 256 * 2 ^ 8 + th % 8) := by
  have htile : s.readReg th 0x001 = tileWord (th / 8) := rfl
  have hthread : s.readReg th 0x000 = s.threadWord th := rfl
  have hmodule : th / 8 / 4096 < 1024 := by omega
  rw [tid_fields_or_eq_add, htile, hthread, extractLsb'_tileWord_module, extractLsb'_tileWord_die, extractLsb'_tileWord_index,
    extractLsb'_threadWord_num, Nat.mod_eq_of_lt hmodule]

/-- The word of TID with destination d: its header, opcode, guard, fields and slot B (R46-R51). -/
theorem tidWord_fields (d : RegNo) :
    let w : Word := 0x0890000000000000 ||| d.setWidth 64 <<< 44
    w.extractLsb' 62 2 = 0 ∧ w.extractLsb' 52 10 = 0x089 ∧ w.extractLsb' 49 3 = 0 ∧ arFields w = ⟨d, 0, 0, 0⟩ ∧
      w.extractLsb' 0 28 = 0 := by
  decide +revert

/-- Settles O12: the number of the issuing thread taken apart, its fields as MS.TILE and MS.THREAD hold them, and the encoding. -/
theorem tidResult : Obligations.TidResult := by
  refine ⟨writes_tid, fun o s hth => ?_, fun o s hth => ?_, fun d => ?_, fun w hpair hop hfields => ?_⟩
  · intro tile thread
    rw [tid_registers_eq s hth]
    exact writes_tid o s
  · have h := writes_tid o s
    rw [hth] at h
    exact h
  · obtain ⟨hpair, hop, hgrd, hfields, hempty⟩ := tidWord_fields d
    have hform : slotAForm ((0x0890000000000000 ||| d.setWidth 64 <<< 44 : Word).extractLsb' 52 10) = some (.ar .tid) := by
      rw [hop]; rfl
    rw [decodeBundle_ar_alone hpair hform (by rw [hfields]; rfl) hempty, hgrd, hfields]
  · refine decodeBundle_ar_fieldsA hpair (mk := .tid) (by rw [hop]; rfl) (Bool.eq_false_iff.mpr fun hok => hfields ?_)
    obtain ⟨ha, hb, hf⟩ := (fieldsOk_tid _).mp hok
    exact extractLsb'_abf_eq_zero ha hb hf

/-! ## NOP (R146) -/

/-- NOP has no field (R146). -/
theorem fieldsOk_nop (o : AR) : (Instr.nop o).fieldsOk = true ↔ o.d = 0 ∧ o.a = 0 ∧ o.b = 0 ∧ o.f = 0 := by
  simp [Instr.fieldsOk, arUses, and_assoc]

/-- NOP goes on to the next bundle (R146). -/
theorem exec_nop (o : AR) (s : State) : exec (.nop o) s = .next s.advance := rfl

/-- Settles O13: NOP advances alone; a word of it with a field set is refused in slot A, so its fetch traps. -/
theorem nopChangesNothing : Obligations.NopChangesNothing := by
  refine ⟨exec_nop, decodeBundle_ar_alone (mk := .nop) rfl rfl rfl rfl, fun s pa hcode hpa hup => ?_⟩
  intro w hwait hpair hop hfields
  have hform : slotAForm (w.extractLsb' 52 10) = some (.ar .nop) := by rw [hop]; rfl
  have hbad : (Instr.nop (arFields w)).fieldsOk = false := Bool.eq_false_iff.mpr fun hok => by
    obtain ⟨hd, ha, hb, hf⟩ := (fieldsOk_nop _).mp hok
    exact hfields (extractLsb'_dabf_eq_zero hd (extractLsb'_abf_eq_zero ha hb hf))
  have hmat : matrixFault { s with cur := { s.cur with word := w } } w = none :=
    matrixFault_of_decodeSlotA_error (e := .fieldsA) (by simp [hpair, decodeSlotA_pair_ar hform, hbad])
  exact issueAt_of_decodeBundle_error hcode hpa hup rfl hwait hmat (decodeBundle_ar_fieldsA hpair hform hbad)

end Sys2Proof.Proofs
